-- ==== Sys2Proof/Word.lean ====
section
/-!
DEFINITION. The word types of the D32: what the manual sends as bits on a link or compares as codes.
Counts, quantities and clock values are plain `Nat` (section 4.3 gives each its range), identifiers
that are only copied and compared are bit vectors of the width their frame field has.
-/

namespace Sys2Proof

/-- One byte of a frame (chapter 11). -/
abbrev Byte := BitVec 8

/-- A 16-bit frame field: a station, a program id, a sublot id, a lot handle field, a request tag. -/
abbrev Half := BitVec 16

/-- A 32-bit wrapping count: a change stamp (R2, R9) or a release number (R157). -/
abbrev Stamp := BitVec 32

/-- A lot handle: the index of a lot record (R1). -/
abbrev LotNo := Fin 256

/-- A cell number, which is also its cell port's number (R26). -/
abbrev CellNo := Fin 32

/-- A load channel number (R86). -/
abbrev ChanNo := Fin 8

/-- A residency slot of a tester (R77). -/
abbrev SlotNo := Fin 4

/-- A bin, 0 to 15 (section 5). -/
abbrev BinNo := Fin 16

/-- A site, 0 to 7. -/
abbrev SiteNo := Fin 8

end Sys2Proof
end

