-- ==== Sys2Proof/Syntax.lean ====
section
/-!
DEFINITION. The commands of the D32: one constructor of `Instr` for each row of spec/opcode_table.json,
with the fields the frame or request carries as the link carries them (chapter 11), and the code
enumerations of Table 11-2 that the records and the commands share.
-/

namespace Sys2Proof

/-- Table 11-2, temperature class. -/
inductive TempClass where
  | cold | room | hot
  deriving DecidableEq, Repr, Inhabited

/-- Table 11-2, step kind. -/
inductive StepKind where
  | test | retest
  deriving DecidableEq, Repr, Inhabited

/-- Table 11-2, release policy. -/
inductive ReleasePolicy where
  | manual | auto
  deriving DecidableEq, Repr, Inhabited

/-- The two stations of a cell port (R26, Table 9-1). -/
inductive CellStation where
  | handler | tester
  deriving DecidableEq, Repr, Inhabited

/-- The nine kinds that cells send (Table 11-2, R183). -/
inductive CellKind where
  | ready | take | decline | unit | tally | paused | state | loaded | tstate
  deriving DecidableEq, Repr, Inhabited

/-- Forwarding setting of a cell kind (R183). -/
inductive Forwarding where
  | forward | absorb
  deriving DecidableEq, Repr, Inhabited

/-- One of the 33 frame ports (section 1.3). -/
inductive Port where
  | cell (c : CellNo)
  | uplink
  deriving DecidableEq, Repr

/-- The payload of a frame of a cell kind, its fields as Table 11-3 lays them out. -/
inductive CellMsg where
  | ready (kit temp sites : Byte)
  | take (id : Half)
  | decline (id : Half)
  | unit (id : Half) (site bin : Byte) (sequence : BitVec 32)
  | tally (id : Half) (bins : Vector (BitVec 24) 16) (returned missing : BitVec 24)
  | paused (id : Half)
  | state (mode : Byte) (alarm : Half)
  | loaded (program : Half) (revision slot result : Byte)
  | tstate (code slot : Byte)
  deriving DecidableEq, Repr

/-- What a cell port finds at its head (R178, R179, R201): a frame it takes, or one a check refuses. -/
inductive Arrival where
  | frame (src : CellStation) (lot : Half) (msg : CellMsg)
  | checkFailure
  | badSource
  | badDestination
  | badKindOrLength
  deriving DecidableEq, Repr

/-- The entry fields of a gate profile as TABLE.WRITE carries them (Table 11-9, code 1). -/
structure ProfileImage where
  yieldFloor : Half
  minSample : Half
  ceilings : Vector Half 16
  siteDelta : Half
  siteMin : Half
  runLimit : Byte
  lossLimit : Half
  tolerance : Byte
  goodBins : Half
  retestBins : Half
  sublotSize : Half
  spread : Byte
  finish : Byte
  deriving DecidableEq, Repr

/-- The entry fields of the forwarding table as TABLE.WRITE carries them (Table 11-9, code 5):
one setting for a kind code, or nine for ALL. -/
inductive ForwardImage where
  | one (kind code : Byte)
  | all (codes : Vector Byte 9)
  deriving DecidableEq, Repr

/-- One of the six step slots of LOT.DEFINE (Table 11-8). -/
structure StepImage where
  kind : Byte
  temp : Byte
  kit : Byte
  program : Half
  profile : Byte
  minSites : Byte
  deriving DecidableEq, Repr, Inhabited

/-- The commands: the steps of spec/opcode_table.json, in the table's order. A request carries its tag
(R189); a frame from a cell carries its port, its source station and its lot handle field (R200). -/
inductive Instr where
  /-- R197: the strap inputs and the line states as they stand. -/
  | powerOn (strap : BitVec 9) (cellLines : BitVec 32) (uplinkLine : Bool)
  | partRestart (tag : Half)
  | tableWriteGateProfile (tag : Half) (index : Byte) (entry : ProfileImage)
  | tableWriteCatalogue (tag : Half) (index : Byte) (program : Half) (revision : Byte) (segsLessOne : Half) (noRetain : Byte)
  | tableWriteCellConfiguration (tag : Half) (index : Byte) (cap : Half) (stall : Byte) (soak : Half)
  | tableWriteGroupTable (tag : Half) (index : Byte) (inUse value mask : Byte)
  | tableWriteForwardingTable (tag : Half) (entry : ForwardImage)
  | tableWriteLoadChannelSettings (tag : Half) (index : Byte) (mode round enable : Byte)
  | tableWriteAgeLimit (tag value : Half)
  | tableWriteRotationMode (tag value : Half)
  | tableWriteOfferTimeout (tag value : Half)
  | tableWritePullLimit (tag value : Half)
  | tableWriteGrantOrder (tag value : Half)
  | tableWriteCreditWindow (tag value : Half)
  | tableWriteLoadTimeout (tag value : Half)
  | tableWriteLoadWatermark (tag value : Half)
  | tableWriteCellShareLimit (tag value : Half)
  | tableWriteQuarantineDelay (tag value : Half)
  | tableRead (tag : Half) (table index : Byte)
  | lotDefine (tag : Half) (nameLength : Byte) (name : Vector Byte 16) (start : BitVec 24) (policy : Byte) (stepCount : Byte) (steps : Vector StepImage 6)
  | lotStart (tag handle : Half)
  | lotRead (tag handle : Half)
  | lotAbort (tag handle : Half)
  | lotRetire (tag handle : Half)
  | holdSet (tag handle : Half) (detail : BitVec 32)
  | holdRelease (tag handle : Half) (kind mode : Byte) (stamp : Stamp)
  | lotShip (tag handle : Half) (stamp : Stamp)
  | cellClaim (tag : Half) (cell : Byte)
  | cellRestore (tag : Half) (cell : Byte)
  | cellRead (tag : Half) (cell : Byte)
  | timeSet (tag : Half) (clock : BitVec 48)
  | partRead (tag : Half)
  | requestUnknownCode (code : Byte) (tag : Half)
  | ready (c : CellNo) (src : CellStation) (lot : Half) (kit temp sites : Byte)
  | take (c : CellNo) (src : CellStation) (lot : Half) (id : Half)
  | decline (c : CellNo) (src : CellStation) (lot : Half) (id : Half)
  | unit (c : CellNo) (src : CellStation) (lot : Half) (id : Half) (site bin : Byte) (sequence : BitVec 32)
  | tally (c : CellNo) (src : CellStation) (lot : Half) (id : Half) (bins : Vector (BitVec 24) 16) (returned missing : BitVec 24)
  | paused (c : CellNo) (src : CellStation) (lot : Half) (id : Half)
  | state (c : CellNo) (src : CellStation) (lot : Half) (mode : Byte) (alarm : Half)
  | loaded (c : CellNo) (src : CellStation) (lot : Half) (program : Half) (revision slot result : Byte)
  | tstate (c : CellNo) (src : CellStation) (lot : Half) (code slot : Byte)
  /-- R91: a SEGMENT frame addressed to P, with its descriptor (Table 11-4). -/
  | segment (lot : Half) (channel slot : Byte) (program : Half) (revision : Byte) (number : Half) (image : List Byte)
  /-- R182: a frame from the floor server to cell stations. -/
  | throughFrame (dst : Half) (kind : Byte) (lot : Half) (payload : List Byte)
  | uplinkStray
  | frameCheckFailure (port : Port)
  | sourceCheckFailure (c : CellNo)
  | destinationError (c : CellNo)
  | wrongKindOrLength (c : CellNo)
  | cellLineStateLoss (c : CellNo)
  | cellLineStateRecovery (c : CellNo)
  | uplinkLineStateLoss
  | uplinkLineStateRecovery
  /-- R195: the part takes the first due expiry of the kind; so for the five below. -/
  | offerDeadlineExpiry
  | stallDeadlineExpiry
  | ageDeadlineExpiry
  | pullDeadlineExpiry
  | loadDeadlineExpiry
  | quarantineExpiry
  | uplinkSendingEnd
  | commandSendingBegins (c : CellNo)
  | segmentCopySent (c : CellNo)
  | downlinkCopySent (c : CellNo)
  | lotStateNotice
  | cellStateNotice
  | releaseNotice
  | pullGrant
  | pullReissue
  | heldOffPortService
  deriving DecidableEq, Repr

/-- A frame on a link, less its check, which `Sys2Proof.Frame.bytes` forms (Table 11-1, R200).
`descriptor` is the seven descriptor bytes of a SEGMENT and empty for every other kind. -/
structure Frame where
  dst : Half
  src : Half
  kind : Byte
  lot : Half
  descriptor : List Byte
  payload : List Byte
  deriving DecidableEq, Repr

end Sys2Proof
end

