-- ==== Sys2Proof/Config.lean ====
section
/-!
DEFINITION. What the manual fixes as a number for the whole part, and the FREE VALUES: constants with
no body, for values that the manual leaves open. Nothing can be proved of a free value, so a claim
about the machine holds whatever the part does there.
-/

namespace Sys2Proof

/-- R161: the number of frame buffers. -/
def Config.poolSize : Nat := 2048

/-- R163, R164: the notice reserve, which cell traffic may not take. -/
def Config.noticeReserve : Nat := 64

/-- R165: copies a cell's downlink queue holds at most. -/
def Config.downlinkDepth : Nat := 8

/-- R194: the largest value of the floor clock. -/
def Config.clockMax : Nat := 281474976710655

/-- Section 4.3: the bound of a 24-bit saturating count. -/
def Config.max24 : Nat := 16777215

/-- Section 4.3: the bound of a 16-bit saturating count. -/
def Config.max16 : Nat := 65535

/-- The bound of an 8-bit saturating count (site runs, R29; hold occurrences, R123). -/
def Config.max8 : Nat := 255

/-- FREE VALUE (notes/assumptions/7.md). The lot handle field that the part puts into the header of a
segment copy, as a function of the handle the SEGMENT arrived with: R200 gives the handle of "the
sublot it names" for a frame toward a cell, and a segment copy names no sublot. -/
opaque Config.segmentCopyHandle : Half → Half

/-- FREE VALUE (notes/assumptions/8.md). The lot handle field of a WITHDRAW whose ids do not all belong
to one lot known to the part, as a function of the ids it names (R200, R72). -/
opaque Config.withdrawHandle : List Half → Half

/-- FREE VALUE (notes/assumptions/9.md). How a group entry's "in use" byte other than 0 and 1 is taken
(Table 11-2 names only unused 0 and in use 1). -/
opaque Config.groupUseCode : Byte → Bool

/-- FREE VALUE (notes/assumptions/10.md). How a forwarding setting byte other than 0 and 1 is taken
(Table 11-2 names only FORWARD 0 and ABSORB 1, and R183 gives no default). -/
opaque Config.forwardingCode : Byte → Forwarding

/-- FREE VALUE (notes/assumptions/11.md). Whether LOT.DEFINE reports a start quantity of 0 ahead of a
step at fault when a request has both faults (R17 gives position 0 for one and 1 to 6 for the other). -/
opaque Config.startFaultFirst : Bool

/-- FREE VALUE (notes/assumptions/11.md). Whether LOT.DEFINE reports a step count above 6 ahead of a step at fault in one
of the six slots when a request has both faults (R17 gives position 0 for one and 1 to 6 for the other). -/
opaque Config.countFaultFirst : Bool

/-- FREE VALUE (notes/assumptions/12.md). Whether the counts in a PART.READ response take in the buffer claimed
for that response: R188 claims it when the request is taken, R161 reports the counts "as they stand when the
request is taken". -/
opaque Config.ownResponseCounted : Bool

end Sys2Proof
end

