-- ==== Sys2Proof/Decode.lean ====
section
/-!
DEFINITION. Frames as bytes (chapter 11): the byte-order helpers, the 32-bit check, the checks a port makes
on an arriving frame (R178, R179, R180, R200, R201) and the command each frame spells, and the bytes a cell
frame is sent as. No row of spec/opcode_table.json gives bits, so `decodeTableWord` reads none.
-/

namespace Sys2Proof

/-! ### Byte order: most significant byte first -/

/-- The `n` low bytes of `v`, most significant first. -/
def beBytes : Nat → Nat → List Byte
  | 0, _ => []
  | n + 1, v => BitVec.ofNat 8 (v / 256 ^ n) :: beBytes n v

/-- A signed field of `n` bytes in two's complement. -/
def signedBytes (n : Nat) (v : Int) : List Byte :=
  beBytes n ((v % (256 ^ n : Nat)).toNat)

/-- The two bytes of a 16-bit field. -/
def bytes16 (x : Half) : List Byte := [x.extractLsb' 8 8, x.extractLsb' 0 8]

/-- The three bytes of a 24-bit field. -/
def bytes24 (x : BitVec 24) : List Byte := [x.extractLsb' 16 8, x.extractLsb' 8 8, x.extractLsb' 0 8]

/-- The four bytes of a 32-bit field. -/
def bytes32 (x : BitVec 32) : List Byte :=
  [x.extractLsb' 24 8, x.extractLsb' 16 8, x.extractLsb' 8 8, x.extractLsb' 0 8]

/-- The byte at offset `i` of a payload. -/
def byteAt (bs : List Byte) (i : Nat) : Byte := bs.getD i 0#8

/-- The 16-bit field at offset `i`. -/
def halfAt (bs : List Byte) (i : Nat) : Half := byteAt bs i ++ byteAt bs (i + 1)

/-- The 24-bit field at offset `i`. -/
def word24At (bs : List Byte) (i : Nat) : BitVec 24 := byteAt bs i ++ (byteAt bs (i + 1) ++ byteAt bs (i + 2))

/-- The 32-bit field at offset `i`. -/
def word32At (bs : List Byte) (i : Nat) : BitVec 32 := halfAt bs i ++ halfAt bs (i + 2)

/-- The 48-bit field at offset `i`. -/
def word48At (bs : List Byte) (i : Nat) : BitVec 48 := halfAt bs i ++ word32At bs (i + 2)

/-! ### The check (R200) -/

/-- One message bit of the cyclic check with generator 0x04C11DB7. -/
def crcBit (c : BitVec 32) (bit : Bool) : BitVec 32 :=
  if c.msb != bit then (c <<< 1) ^^^ 0x04C11DB7#32 else c <<< 1

/-- One message byte, most significant bit first. -/
def crcByte (c : BitVec 32) (b : Byte) : BitVec 32 :=
  [7, 6, 5, 4, 3, 2, 1, 0].foldl (fun c i => crcBit c (b.getLsbD i)) c

/-- R200: the check starts from all ones and is inverted. -/
def crc32 (bs : List Byte) : BitVec 32 := ~~~(bs.foldl crcByte 0xFFFFFFFF#32)

/-! ### Frames -/

/-- Kind codes of Table 11-2 that more than one place names. -/
def kindRequest : Byte := 0x20#8
/-- SEGMENT, the one kind whose frames carry a descriptor. -/
def kindSegment : Byte := 0x21#8
/-- RESPONSE. -/
def kindResponse : Byte := 0x30#8
/-- LOT.STATE. -/
def kindLotState : Byte := 0x31#8
/-- CELL.STATE. -/
def kindCellState : Byte := 0x32#8
/-- PULL. -/
def kindPull : Byte := 0x33#8
/-- RELEASE. -/
def kindRelease : Byte := 0x34#8

/-- Table 11-1: the lot handle field of a frame that names no lot. -/
def noLot : Half := 0xFFFF#16

/-- Header, descriptor and payload in the order sent: what the check is formed over. -/
def Frame.body (f : Frame) : List Byte :=
  bytes16 f.dst ++ bytes16 f.src ++ [f.kind] ++ bytes16 f.lot
    ++ bytes16 (BitVec.ofNat 16 f.payload.length) ++ f.descriptor ++ f.payload

/-- R200: a frame as it stands on the line, its check formed over its own header. -/
def Frame.bytes (f : Frame) : List Byte := f.body ++ bytes32 (crc32 f.body)

/-- R178, R200: the frame that arriving bytes hold, or none where the frame check fails (a length field above
1,024, a number of bytes the header does not imply, a check that differs). -/
def parseFrame (bs : List Byte) : Option Frame :=
  let kind := byteAt bs 4
  let length := (halfAt bs 7).toNat
  let d := if kind = kindSegment then 7 else 0
  let f : Frame :=
    { dst := halfAt bs 0, src := halfAt bs 2, kind := kind, lot := halfAt bs 5
      descriptor := (bs.drop 9).take d, payload := (bs.drop (9 + d)).take length }
  if length ≤ 1024 ∧ bs.length = 9 + d + length + 4 ∧ bs = f.bytes then some f else none

/-! ### Stations (R177) -/

/-- Handler of cell `c`. -/
def handlerStation (p : Half) (c : CellNo) : Half := p + BitVec.ofNat 16 (1 + 2 * c.val)

/-- Tester of cell `c`. -/
def testerStation (p : Half) (c : CellNo) : Half := p + BitVec.ofNat 16 (2 + 2 * c.val)

/-- Either station of cell `c`. -/
def cellStation (p : Half) (c : CellNo) : CellStation → Half
  | .handler => handlerStation p c
  | .tester => testerStation p c

/-- The floor server's station. -/
def floorServer : Half := 0x0000#16

/-- Broadcast to all 64 cell stations. -/
def broadcast : Half := 0xFFFF#16

/-- What a destination station means to the uplink port (Table 9-1); cell stations by station index. -/
inductive Dest where
  | part
  | cellStation (index : Fin 64)
  | group (g : Fin 4)
  | everyCell
  | unserved
  deriving DecidableEq, Repr

/-- R177: a station of Table 9-1, relative to own station P. -/
def destOf (p dst : Half) : Dest :=
  let off := dst.toNat - p.toNat
  if dst = broadcast then .everyCell
  else if dst = p then .part
  else if h : p.toNat < dst.toNat ∧ off - 1 < 64 then .cellStation ⟨off - 1, h.2⟩
  else if h : p.toNat < dst.toNat ∧ 100 ≤ off ∧ off - 100 < 4 then .group ⟨off - 100, h.2.2⟩
  else .unserved

/-! ### Cell frames (Table 11-3) -/

/-- The kind of a cell message. -/
def CellMsg.kind : CellMsg → CellKind
  | .ready .. => .ready
  | .take .. => .take
  | .decline .. => .decline
  | .unit .. => .unit
  | .tally .. => .tally
  | .paused .. => .paused
  | .state .. => .state
  | .loaded .. => .loaded
  | .tstate .. => .tstate

/-- The position of a kind in the order of R191. -/
def CellKind.index : CellKind → Fin 9
  | .ready => 0 | .take => 1 | .decline => 2 | .unit => 3 | .tally => 4
  | .paused => 5 | .state => 6 | .loaded => 7 | .tstate => 8

/-- Table 11-2: kinds from handlers and testers. -/
def CellKind.code (k : CellKind) : Byte := BitVec.ofNat 8 (k.index.val + 1)

/-- The kind a code names, if it names a cell kind. -/
def CellKind.ofCode (b : Byte) : Option CellKind :=
  [CellKind.ready, .take, .decline, .unit, .tally, .paused, .state, .loaded, .tstate].find? (·.code = b)

/-- Table 11-3: the payload length of a kind. -/
def CellKind.length : CellKind → Nat
  | .ready => 3 | .take => 2 | .decline => 2 | .unit => 8 | .tally => 56
  | .paused => 2 | .state => 3 | .loaded => 5 | .tstate => 2

/-- Which station sends a kind (R26). -/
def CellKind.station : CellKind → CellStation
  | .loaded => .tester
  | .tstate => .tester
  | _ => .handler

/-- The payload bytes of a cell message. -/
def CellMsg.payload : CellMsg → List Byte
  | .ready kit temp sites => [kit, temp, sites]
  | .take id => bytes16 id
  | .decline id => bytes16 id
  | .unit id site bin seq => bytes16 id ++ [site, bin] ++ bytes32 seq
  | .tally id bins returned missing =>
      bytes16 id ++ bins.toList.flatMap bytes24 ++ bytes24 returned ++ bytes24 missing
  | .paused id => bytes16 id
  | .state mode alarm => mode :: bytes16 alarm
  | .loaded program revision slot result => bytes16 program ++ [revision, slot, result]
  | .tstate code slot => [code, slot]

/-- The message a payload of the right length spells. -/
def decodeCellMsg (k : CellKind) (bs : List Byte) : CellMsg :=
  match k with
  | .ready => .ready (byteAt bs 0) (byteAt bs 1) (byteAt bs 2)
  | .take => .take (halfAt bs 0)
  | .decline => .decline (halfAt bs 0)
  | .unit => .unit (halfAt bs 0) (byteAt bs 2) (byteAt bs 3) (word32At bs 4)
  | .tally =>
      .tally (halfAt bs 0) (Vector.ofFn fun i => word24At bs (2 + 3 * i.val)) (word24At bs 50) (word24At bs 53)
  | .paused => .paused (halfAt bs 0)
  | .state => .state (byteAt bs 0) (halfAt bs 1)
  | .loaded => .loaded (halfAt bs 0) (byteAt bs 2) (byteAt bs 3) (byteAt bs 4)
  | .tstate => .tstate (byteAt bs 0) (byteAt bs 1)

/-- The command that a frame taken at a cell port is. -/
def CellMsg.instr (c : CellNo) (src : CellStation) (lot : Half) : CellMsg → Instr
  | .ready kit temp sites => .ready c src lot kit temp sites
  | .take id => .take c src lot id
  | .decline id => .decline c src lot id
  | .unit id site bin seq => .unit c src lot id site bin seq
  | .tally id bins returned missing => .tally c src lot id bins returned missing
  | .paused id => .paused c src lot id
  | .state mode alarm => .state c src lot mode alarm
  | .loaded program revision slot result => .loaded c src lot program revision slot result
  | .tstate code slot => .tstate c src lot code slot

/-- A cell message as the frame its station sends to the floor server (R183). -/
def cellFrame (p : Half) (c : CellNo) (src : CellStation) (lot : Half) (m : CellMsg) : Frame :=
  { dst := floorServer, src := cellStation p c src, kind := m.kind.code, lot := lot
    descriptor := [], payload := m.payload }

/-- R178, R179, R201: what the bytes of a frame at cell port `c` command, the checks in their order. -/
def decodeCellFrame (p : Half) (c : CellNo) (bs : List Byte) : Instr :=
  match parseFrame bs with
  | none => .frameCheckFailure (.cell c)
  | some f =>
    if f.src ≠ handlerStation p c ∧ f.src ≠ testerStation p c then .sourceCheckFailure c
    else if f.dst ≠ floorServer then .destinationError c
    else
      match CellKind.ofCode f.kind with
      | none => .wrongKindOrLength c
      | some k =>
        if f.payload.length ≠ k.length then .wrongKindOrLength c
        else (decodeCellMsg k f.payload).instr c (if f.src = handlerStation p c then .handler else .tester) f.lot

/-! ### Requests (Tables 11-8 and 11-9) -/

/-- A gate profile entry of 52 bytes at offset `i`. -/
def profileAt (bs : List Byte) (i : Nat) : ProfileImage :=
  { yieldFloor := halfAt bs i, minSample := halfAt bs (i + 2)
    ceilings := Vector.ofFn fun b => halfAt bs (i + 4 + 2 * b.val)
    siteDelta := halfAt bs (i + 36), siteMin := halfAt bs (i + 38), runLimit := byteAt bs (i + 40)
    lossLimit := halfAt bs (i + 41), tolerance := byteAt bs (i + 43), goodBins := halfAt bs (i + 44)
    retestBins := halfAt bs (i + 46), sublotSize := halfAt bs (i + 48), spread := byteAt bs (i + 50)
    finish := byteAt bs (i + 51) }

/-- A step slot of 7 bytes at offset `i`. -/
def stepAt (bs : List Byte) (i : Nat) : StepImage :=
  { kind := byteAt bs i, temp := byteAt bs (i + 1), kit := byteAt bs (i + 2), program := halfAt bs (i + 3)
    profile := byteAt bs (i + 5), minSites := byteAt bs (i + 6) }

/-- TABLE.WRITE: the row its table code and index name; a wrong length or an unserved code is unknown (R190). -/
def decodeTableWrite (tag : Half) (bs : List Byte) : Instr :=
  let index := byteAt bs 4
  let entry := bs.length - 5
  let value := halfAt bs 5
  let unknown : Instr := .requestUnknownCode 0x01#8 tag
  match (byteAt bs 3).toNat with
  | 1 => if entry = 52 then .tableWriteGateProfile tag index (profileAt bs 5) else unknown
  | 2 => if entry = 6 then
      .tableWriteCatalogue tag index (halfAt bs 5) (byteAt bs 7) (halfAt bs 8) (byteAt bs 10) else unknown
  | 3 => if entry = 5 then
      .tableWriteCellConfiguration tag index (halfAt bs 5) (byteAt bs 7) (halfAt bs 8) else unknown
  | 4 => if entry = 3 then
      .tableWriteGroupTable tag index (byteAt bs 5) (byteAt bs 6) (byteAt bs 7) else unknown
  | 5 =>
      if index = 0xFF#8 then
        if entry = 9 then .tableWriteForwardingTable tag (.all (Vector.ofFn fun i => byteAt bs (5 + i.val))) else unknown
      else if entry = 1 then .tableWriteForwardingTable tag (.one index (byteAt bs 5)) else unknown
  | 6 => if entry = 3 then
      .tableWriteLoadChannelSettings tag index (byteAt bs 5) (byteAt bs 6) (byteAt bs 7) else unknown
  | 7 =>
      if entry ≠ 2 then unknown
      else
        match index.toNat with
        | 0 => .tableWriteAgeLimit tag value
        | 1 => .tableWriteRotationMode tag value
        | 2 => .tableWriteOfferTimeout tag value
        | 3 => .tableWritePullLimit tag value
        | 4 => .tableWriteGrantOrder tag value
        | 5 => .tableWriteCreditWindow tag value
        | 6 => .tableWriteLoadTimeout tag value
        | 7 => .tableWriteLoadWatermark tag value
        | 8 => .tableWriteCellShareLimit tag value
        | 9 => .tableWriteQuarantineDelay tag value
        | _ => unknown
  | _ => unknown

/-- R190, R201, Table 11-8: the request a REQUEST payload carries. Bytes of code and tag that it lacks are
read as 0. -/
def decodeRequest (bs : List Byte) : Instr :=
  let code := byteAt bs 0
  let tag := halfAt bs 1
  let n := bs.length
  let unknown : Instr := .requestUnknownCode code tag
  let handle := halfAt bs 3
  match code.toNat with
  | 0x01 => if 5 ≤ n then decodeTableWrite tag bs else unknown
  | 0x02 => if n = 5 then .tableRead tag (byteAt bs 3) (byteAt bs 4) else unknown
  | 0x10 =>
      if n = 67 then
        .lotDefine tag (byteAt bs 3) (Vector.ofFn fun i => byteAt bs (4 + i.val)) (word24At bs 20) (byteAt bs 23)
          (byteAt bs 24) (Vector.ofFn fun i => stepAt bs (25 + 7 * i.val))
      else unknown
  | 0x11 => if n = 5 then .lotStart tag handle else unknown
  | 0x12 => if n = 5 then .lotRead tag handle else unknown
  | 0x13 => if n = 5 then .lotAbort tag handle else unknown
  | 0x14 => if n = 5 then .lotRetire tag handle else unknown
  | 0x20 => if n = 9 then .holdSet tag handle (word32At bs 5) else unknown
  | 0x21 => if n = 11 then .holdRelease tag handle (byteAt bs 5) (byteAt bs 6) (word32At bs 7) else unknown
  | 0x22 => if n = 9 then .lotShip tag handle (word32At bs 5) else unknown
  | 0x30 => if n = 4 then .cellClaim tag (byteAt bs 3) else unknown
  | 0x31 => if n = 4 then .cellRestore tag (byteAt bs 3) else unknown
  | 0x32 => if n = 4 then .cellRead tag (byteAt bs 3) else unknown
  | 0x40 => if n = 9 then .timeSet tag (word48At bs 3) else unknown
  | 0x41 => if n = 3 then .partRead tag else unknown
  | 0x42 => if n = 3 then .partRestart tag else unknown
  | _ => unknown

/-- R178, R180, R201: what the bytes of a frame at the uplink port command, by Table 9-2. Whether a group
entry is in use is read when the frame is taken, by the command `throughFrame`. -/
def decodeUplinkFrame (p : Half) (bs : List Byte) : Instr :=
  match parseFrame bs with
  | none => .frameCheckFailure .uplink
  | some f =>
    if f.src ≠ floorServer then .uplinkStray
    else
      match destOf p f.dst with
      | .part =>
          if f.kind = kindRequest then decodeRequest f.payload
          else if f.kind = kindSegment then
            .segment f.lot (byteAt f.descriptor 0) (byteAt f.descriptor 1) (halfAt f.descriptor 2)
              (byteAt f.descriptor 4) (halfAt f.descriptor 5) f.payload
          else .uplinkStray
      | .unserved => .uplinkStray
      | _ =>
          if f.kind = kindRequest ∨ f.kind = kindSegment then .uplinkStray
          else .throughFrame f.dst f.kind f.lot f.payload

/-! ### The host's table words -/

/-- The command that a word spells by the bits of spec/opcode_table.json: no row gives bits, so none. -/
def decodeTableWord (_nbits _w : Nat) : Option Instr := none

end Sys2Proof
end

