-- ==== Sys2Proof/Machine/State.lean ====
section
/-!
DEFINITION. The state of the D32 as plain data: every record, table, queue, counter, deadline and mark the
manual gives the part, the queue of commands that wait to be taken, and the state right after power-on.
Pool counts, uplink shares and the held-off port set are not stored: they are read off the queues
(Machine/Ops.lean). A mark of the notice list (R172) is stored once, as membership of that list.
-/

namespace Sys2Proof.Machine

/-! ### The tables the floor server writes (R191), kept over a floor restart -/

/-- R108: what the part does when a sublot's quantity has been counted. -/
inductive FinishMode where
  | auto | notify
  deriving DecidableEq, Repr, Inhabited

/-- Table 5-1. Bin sets are bit sets: bit b set for bin b. -/
structure GateProfile where
  yieldFloor : Nat := 0
  minSample : Nat := 1
  ceilings : Vector Nat 16 := Vector.replicate 16 10000
  siteDelta : Nat := 10000
  siteMin : Nat := 1
  runLimit : Nat := 0
  lossLimit : Nat := 0
  tolerance : Nat := 0
  goodBins : BitVec 16 := 2#16
  retestBins : BitVec 16 := 0#16
  sublotSize : Nat := 1000
  spread : Nat := 1
  finish : FinishMode := .auto
  deriving DecidableEq, Repr, Inhabited

/-- R75: a used catalogue entry. -/
structure CatalogueEntry where
  program : Half
  revision : Byte
  segs : Nat
  noRetain : Bool
  deriving DecidableEq, Repr

/-- Table 2-2, stall choice. -/
inductive StallChoice where
  | off | s120 | s300 | s900
  deriving DecidableEq, Repr, Inhabited

/-- Table 2-2: soak allowance in seconds. -/
structure CellConfig where
  cap : Nat := 2000
  stall : StallChoice := .off
  soak : Nat := 900
  deriving DecidableEq, Repr, Inhabited

/-- R181: an unused entry is held with value and mask 0. -/
structure GroupEntry where
  inUse : Bool := false
  value : BitVec 6 := 0#6
  mask : BitVec 6 := 0#6
  deriving DecidableEq, Repr, Inhabited

/-- R86: channel mode. -/
inductive ChannelMode where
  | whole | burst | paced
  deriving DecidableEq, Repr, Inhabited

/-- R86: channel round setting. -/
inductive ChannelRound where
  | single | rolling
  deriving DecidableEq, Repr, Inhabited

/-- R86: the settings of a load channel. -/
structure ChannelSettings where
  mode : ChannelMode := .burst
  round : ChannelRound := .single
  enabled : Bool := true
  deriving DecidableEq, Repr, Inhabited

/-- Rotation mode (R63) and grant order (R88). -/
inductive Turning where
  | rotating | fixed
  deriving DecidableEq, Repr, Inhabited

/-- Table 10-4, in its units: minutes, seconds, segments, buffers. -/
structure Settings where
  ageLimit : Nat := 240
  rotationMode : Turning := .rotating
  offerTimeout : Nat := 20
  pullLimit : Nat := 2
  grantOrder : Turning := .rotating
  creditWindow : Nat := 8
  loadTimeout : Nat := 120
  loadWatermark : Nat := 512
  cellShareLimit : Nat := 48
  quarantineDelay : Nat := 30
  deriving DecidableEq, Repr, Inhabited

/-- R198: what a floor restart keeps. `forwarding` is in the order of R191. -/
structure Tables where
  profiles : Vector GateProfile 64 := Vector.replicate 64 {}
  catalogue : Vector (Option CatalogueEntry) 128 := Vector.replicate 128 none
  cellConfig : Vector CellConfig 32 := Vector.replicate 32 {}
  groups : Vector GroupEntry 4 := Vector.replicate 4 {}
  forwarding : Vector Forwarding 9 := Vector.replicate 9 .forward
  channels : Vector ChannelSettings 8 := Vector.replicate 8 {}
  settings : Settings := {}
  deriving DecidableEq, Repr

/-! ### The lot table (chapter 1), holds (chapter 6), release records (chapter 7) -/

/-- Section 1.4. -/
inductive LotState where
  | free | defined | active | held | closing | complete | aborting | aborted | released
  deriving DecidableEq, Repr, Inhabited

/-- Table 1-1: the states a HELD lot may have held. -/
inductive SavedState where
  | active | closing | complete
  deriving DecidableEq, Repr, Inhabited

/-- Table 1-1: dispatch class. -/
inductive DispatchClass where
  | normal | expedited
  deriving DecidableEq, Repr, Inhabited

/-- Table 1-2, after the clamps of R3. -/
structure RouteStep where
  kind : StepKind := .test
  temp : TempClass := .cold
  kit : Byte := 0#8
  program : Half := 0#16
  profile : Fin 64 := 0
  minSites : Nat := 1
  deriving DecidableEq, Repr, Inhabited

/-- R4. -/
inductive StepState where
  | pending | opened | closed
  deriving DecidableEq, Repr, Inhabited

/-- R4: the gate kinds a waiver may name. -/
structure Waivers where
  yield : Bool := false
  bin : Bool := false
  site : Bool := false
  run : Bool := false
  deriving DecidableEq, Repr, Inhabited

/-- R4: the step record. -/
structure StepRec where
  state : StepState := .pending
  input : Nat := 0
  tested : Nat := 0
  good : Nat := 0
  bins : Vector Nat 16 := Vector.replicate 16 0
  missing : Nat := 0
  loss : Int := 0
  waivers : Waivers := {}
  failedCells : List CellNo := []
  closeEvaluated : Bool := false
  deriving DecidableEq, Repr, Inhabited

/-- R124, in priority order. -/
inductive HoldKind where
  | quality | program | count | tally | run | site | bin | yield
  deriving DecidableEq, Repr, Inhabited

/-- R123: hold origin. -/
inductive HoldOrigin where
  | gate | count | program | floor
  deriving DecidableEq, Repr, Inhabited

/-- Table 6-1, detail column, laid out by Table 11-13. -/
inductive HoldDetail where
  | word (w : BitVec 32)
  | program (id : Half) (cell : Option CellNo)
  | saturated (cell : CellNo)
  | loss (units : Nat)
  | surplus (units : Nat)
  | tally (cell : CellNo) (bin : Option BinNo)
  | run (cell : CellNo) (site : SiteNo)
  | site (cell : CellNo) (high low : SiteNo) (highYield lowYield : Nat)
  | bin (b : BinNo)
  | yield (tested good reported : Nat)
  deriving DecidableEq, Repr

/-- R123: an entry of a hold set. -/
structure HoldEntry where
  kind : HoldKind
  origin : HoldOrigin
  raisedAt : Nat
  stepIndex : Nat
  occurrences : Nat
  detail : HoldDetail
  deriving DecidableEq, Repr

/-- R156: the four figures of one route step. -/
structure ReleaseStep where
  input : Nat
  good : Nat
  loss : Int
  missing : Nat
  deriving DecidableEq, Repr

/-- R156: the release record. -/
structure ReleaseRecord where
  number : Stamp
  lot : LotNo
  name : List Byte
  shipped : Nat
  time : Nat
  steps : List ReleaseStep
  deriving DecidableEq, Repr

/-- R2, Table 1-1, with the age deadline that the dispatch unit holds for a queued NORMAL lot (R54).
`stepIndex` is present exactly in the states Table 1-1 calls "ACTIVE and after"; the fields of that group
(`remaining`, `openSublots`, `queuedAt`) are 0 while it is absent, and every field of a FREE record but
its stamp has the value given here. `holds` is kept in priority order (R124). `quarantineSpent` is R153:
a deadline that was taken on a carried quantity of 0 keeps its value and is not taken again. -/
structure LotRec where
  state : LotState := .free
  saved : Option SavedState := none
  stamp : Stamp := 0#32
  name : List Byte := []
  route : List RouteStep := []
  steps : List StepRec := []
  stepIndex : Option Nat := none
  startQty : Nat := 0
  carried : Nat := 0
  remaining : Nat := 0
  openSublots : Nat := 0
  cls : DispatchClass := .normal
  queuedAt : Nat := 0
  policy : ReleasePolicy := .manual
  holds : List HoldEntry := []
  completedAt : Option Nat := none
  quarantine : Option Nat := none
  quarantineSpent : Bool := false
  ageDeadline : Option Nat := none
  release : Option ReleaseRecord := none
  deriving DecidableEq, Repr, Inhabited

/-! ### The cell table (chapter 2), residency and loads (chapter 4), command queues (chapter 9) -/

/-- Section 2.5. -/
inductive CellState where
  | offline | notReady | idle | loading | offered | running | localMode | claimed | faulted
  deriving DecidableEq, Repr, Inhabited

/-- Table 2-1: pause state. -/
inductive PauseState where
  | none | sent | paused
  deriving DecidableEq, Repr, Inhabited

/-- R29: the tally of one site of a sublot. -/
structure SiteTally where
  tested : Nat := 0
  good : Nat := 0
  run : Nat := 0
  deriving DecidableEq, Repr, Inhabited

/-- R29. `slot` is absent until the offer is made or the load's slot is chosen. -/
structure Assignment where
  lot : LotNo
  step : Nat
  id : Half
  qty : Nat
  units : Nat := 0
  bins : Vector Nat 16 := Vector.replicate 16 0
  sites : Vector SiteTally 8 := Vector.replicate 8 {}
  finishSent : Bool := false
  slot : Option SlotNo := none
  deriving DecidableEq, Repr

/-- R77: residency slot state. -/
inductive SlotState where
  | empty | loading | resident | stale | altered
  deriving DecidableEq, Repr, Inhabited

/-- R77: program id and revision are absent when the slot is EMPTY. -/
structure Slot where
  state : SlotState := .empty
  image : Option (Half × Byte) := none
  lastUse : Nat := 0
  deriving DecidableEq, Repr, Inhabited

/-- R83, R84: the identity of an image, by which loads are the same. -/
structure Image where
  program : Half
  revision : Byte
  segs : Nat
  deriving DecidableEq, Repr

/-- R83: the place of a load. -/
inductive LoadPlace where
  | waiting | target | nextRound | awaiting
  deriving DecidableEq, Repr, Inhabited

/-- R83: the load record; the deadline is present only while AWAITING. -/
structure LoadRec where
  image : Image
  slot : SlotNo
  place : LoadPlace
  deadline : Option Nat := none
  deriving DecidableEq, Repr

/-- R66, Table 11-4: the contents of an OFFER. -/
structure Offer where
  id : Half
  lot : LotNo
  step : Nat
  qty : Nat
  program : Half
  revision : Byte
  slot : SlotNo
  temp : TempClass
  deriving DecidableEq, Repr

/-- R184: the six kinds of command. A WITHDRAW lists its ids in the order they were added (R72), each with
the sublot's lot where the part knew it; FINISH, PAUSE and RESUME name one sublot and its lot. -/
inductive Command where
  | offer (o : Offer)
  | withdraw (ids : List (Half × Option LotNo))
  | finish (id : Half) (lot : LotNo)
  | pause (id : Half) (lot : LotNo)
  | resume (id : Half) (lot : LotNo)
  | restart
  deriving DecidableEq, Repr

/-- R28: the six counters of a cell, 16-bit saturating. -/
structure CellCounters where
  offerTimeouts : Nat := 0
  declines : Nat := 0
  stalls : Nat := 0
  strays : Nat := 0
  protocolErrors : Nat := 0
  drops : Nat := 0
  deriving DecidableEq, Repr, Inhabited

/-- Table 2-1 (the configuration stands in `Tables`), with what other blocks hold per cell: the offer
deadline (R66), the four residency slots of the cell's tester (R77), the load record (R83) and the
command queue (R184, head first). -/
structure CellRec where
  state : CellState := .offline
  kit : Byte := 0#8
  temp : Option TempClass := none
  sites : Option Nat := none
  alarm : Half := 0#16
  assignment : Option Assignment := none
  pause : PauseState := .none
  localPending : Bool := false
  claimPending : Bool := false
  suspect : Bool := false
  stalled : Bool := false
  stallFinish : Bool := false
  excluded : Option LotNo := none
  stallDeadline : Option Nat := none
  offerDeadline : Option Nat := none
  loadFailures : Nat := 0
  counters : CellCounters := {}
  slots : Vector Slot 4 := Vector.replicate 4 {}
  load : Option LoadRec := none
  commands : List Command := []
  deriving DecidableEq, Repr, Inhabited

/-! ### Load channels (chapter 4) -/

/-- Table 4-1. -/
inductive ChannelState where
  | idle | gathering | pulling | draining
  deriving DecidableEq, Repr, Inhabited

/-- R86: last fault cause. -/
inductive FaultCause where
  | sequence | timeout
  deriving DecidableEq, Repr, Inhabited

/-- R86: a load of a target list. -/
structure Target where
  cell : CellNo
  slot : SlotNo
  pos : Nat := 0
  deriving DecidableEq, Repr

/-- R86: a pool buffer of a segment queue: the segment's number, the lot handle field of the frame it
arrived in, and its image bytes. -/
structure SegBuf where
  number : Nat
  lot : Half
  image : List Byte
  deriving DecidableEq, Repr

/-- R89: an outstanding pull. -/
structure Pull where
  first : Nat
  n : Nat
  arrived : Nat
  deadline : Nat
  deriving DecidableEq, Repr

/-- R86, less the settings, which stand in `Tables`. Base and current count are 0 while IDLE. -/
structure Channel where
  modeInForce : ChannelMode := .burst
  state : ChannelState := .idle
  image : Option Image := none
  base : Nat := 0
  current : Nat := 0
  targets : List Target := []
  nextRound : List (CellNo × SlotNo) := []
  segs : List SegBuf := []
  pull : Option Pull := none
  slotHeld : Bool := false
  faults : Nat := 0
  lastFault : Option FaultCause := none
  deriving DecidableEq, Repr, Inhabited

/-! ### The floor records: everything the events of the bay change -/

/-- R172: an entry of the notice list, which is the owed mark of its record. -/
inductive Notice where
  | lotState (h : LotNo)
  | release (h : LotNo)
  | cellState (c : CellNo)
  deriving DecidableEq, Repr

/-- The records of the bay. `queue` is the dispatch queue (R51), `rotation` the rotation list (R63),
`waitQueue` the load wait queue (R85), `lastGranted` the arbiter's record (R192), `notices` the notice list
(R172). `stamped` is the model's own: the lots whose stamp the event being taken has already advanced (R9);
it is empty between events. -/
structure Bay where
  lots : Vector LotRec 256 := Vector.replicate 256 {}
  cells : Vector CellRec 32 := Vector.replicate 32 {}
  queue : List LotNo := []
  rotation : List CellNo := List.finRange 32
  nextSublot : Half := 1#16
  waitQueue : List CellNo := []
  channels : Vector Channel 8 := Vector.replicate 8 {}
  lastGranted : Option ChanNo := none
  releaseCounter : Stamp := 1#32
  notices : List Notice := []
  stamped : List LotNo := []
  deriving DecidableEq, Repr

/-! ### The link (chapters 8 and 9) -/

/-- R170: what an uplink queue entry is; `forwarded c` counts in the uplink share of cell c (R167). -/
inductive Origin where
  | forwarded (c : CellNo)
  | lotState (h : LotNo)
  | release (h : LotNo)
  | cellState (c : CellNo)
  | pull
  | response
  deriving DecidableEq, Repr

/-- R170: an occupied buffer bound for the floor server. -/
structure UpEntry where
  origin : Origin
  frame : Frame
  deriving DecidableEq, Repr

/-- R92, R185: a segment copy at a cell port: the channel and segment it comes from, the frame sent, and
whether the load it was begun for is still at that position (`live`). -/
structure SegmentCopy where
  chan : ChanNo
  number : Nat
  frame : Frame
  live : Bool
  deriving DecidableEq, Repr

/-- R185: what the cell port may be sending. The manual gives no time to a sending and the table no step
for its beginning (commands apart) or for the end of a command's sending, so the three fields are the
POSSIBLE frames in progress: a command that has begun, a segment copy or a downlink copy whose sending
the port has begun if it was free. All absent: the port is free. -/
structure Tx where
  command : Option Frame := none
  segment : Option SegmentCopy := none
  copy : Bool := false
  deriving DecidableEq, Repr, Inhabited

/-- A cell port: line state (R186), the frames that wait at it (the head held off for a buffer, R168, and
those behind it), the downlink queue (R165), the transmitter (R185) and its two counts (R178, R179). -/
structure CellPort where
  up : Bool := true
  waiting : List Arrival := []
  downlink : List Frame := []
  tx : Tx := {}
  checkFailures : Nat := 0
  destinationErrors : Nat := 0
  deriving DecidableEq, Repr, Inhabited

/-- The uplink port and queue, and the cell ports. `headCut` says that the head entry's sending was cut off
by a line-state loss (R174); `held` is the request held at the uplink port for want of a buffer and the
frames behind it (R169); `pointer` is the rotation pointer (R168). -/
structure Link where
  uplink : List UpEntry := []
  uplinkUp : Bool := true
  headCut : Bool := false
  held : List Instr := []
  uplinkCheckFailures : Nat := 0
  strays : Nat := 0
  ports : Vector CellPort 32 := Vector.replicate 32 {}
  pointer : CellNo := 31
  deriving DecidableEq, Repr

/-! ### The request unit's own state (chapter 10) -/

/-- R199. -/
inductive ResetCause where
  | power | restart
  deriving DecidableEq, Repr, Inhabited

/-- The strap inputs (section 9.6), own station P (R177), the floor clock (R194), the reset cause (R199). -/
structure Part where
  strap : BitVec 9 := 0#9
  station : Half := 128#16
  clock : Nat := 0
  resetCause : ResetCause := .power
  deriving DecidableEq, Repr

/-- The whole part, and the commands that wait to be taken, first in first out. -/
structure State where
  part : Part
  tables : Tables
  bay : Bay
  link : Link
  pending : List Instr
  deriving DecidableEq, Repr

/-- Right after power-on (R25, R50, R74, R100, R122, R140, R160, R176, R187, R197), with the strap at 0
(taken as 1, so P is 128) and every line up: DESIGN CHOICE, notes/assumptions/1.md. -/
def State.reset : State :=
  { part := {}, tables := {}, bay := {}, link := {}, pending := [] }

/-- No command of this block stops with a fault: the manual gives every command, in every state of the
part, an effect or says that it changes nothing. So no constructor. -/
inductive Fault where
  deriving DecidableEq, Repr

/-- Why a command may be refused. -/
inductive Refusal where
  /-- Raised by `exec` alone, for a command that has no meaning yet; safe. No arm raises it. -/
  | notModelled (mnemonic : String)
  deriving DecidableEq, Repr

/-- What the events of the bay read and do not change: the tables and the floor clock. -/
structure Ctx where
  tables : Tables
  clock : Nat

/-- The tables and the clock of a state, as its events read them. -/
abbrev State.ctx (s : State) : Ctx := { tables := s.tables, clock := s.part.clock }

end Sys2Proof.Machine
end

