-- ==== Sys2Proof/Machine/Operands.lean ====
section
/-!
DEFINITION. Every operand form of the commands: what a code byte names (Table 11-2), which values are
refused and which are clamped (Tables 1-2, 2-2, 5-1, 10-4, R27, R86, R101, R181, R191, R192), and the
records that the fields of a request become. Saturating counts and deadlines (sections 4.3, 4.4, R195).
-/

namespace Sys2Proof.Machine

/-! ### Saturating counts and deadlines -/

/-- One more, staying at `bound` (section 4.3). -/
def satSucc (bound n : Nat) : Nat := min (n + 1) bound

/-- A 16-bit saturating count, one more. -/
def bump16 (n : Nat) : Nat := satSucc Config.max16 n

/-- A 24-bit saturating count, one more. -/
def bump24 (n : Nat) : Nat := satSucc Config.max24 n

/-- A 24-bit saturating sum (R143). -/
def add24 (n k : Nat) : Nat := min (n + k) Config.max24

/-- R195: a deadline `ms` after the clock, formed as the largest clock value where the sum exceeds it. -/
def deadlineAfter (clock ms : Nat) : Nat := min (clock + ms) Config.clockMax

/-- Seconds in milliseconds (R195). -/
def seconds (n : Nat) : Nat := n * 1000

/-- Minutes in milliseconds (R195). -/
def minutes (n : Nat) : Nat := n * 60000

/-- A value brought into a range by a clamp at both ends. -/
def clampTo (lo hi n : Nat) : Nat := max lo (min n hi)

/-! ### Indexes (R190) -/

/-- A lot handle field, if it names a record. -/
def lotOf (h : Half) : Option LotNo := if hh : h.toNat < 256 then some ⟨h.toNat, hh⟩ else none

/-- A cell number field, if it names a cell. -/
def cellOf (b : Byte) : Option CellNo := if hh : b.toNat < 32 then some ⟨b.toNat, hh⟩ else none

/-- An index field of a table of `n` entries. -/
def indexOf (n : Nat) (b : Byte) : Option (Fin n) := if hh : b.toNat < n then some ⟨b.toNat, hh⟩ else none

/-! ### Codes of Table 11-2 -/

/-- Temperature class. -/
def tempOf (b : Byte) : Option TempClass :=
  match b.toNat with
  | 0 => some .cold
  | 1 => some .room
  | 2 => some .hot
  | _ => none

/-- Step kind. -/
def stepKindOf (b : Byte) : Option StepKind :=
  match b.toNat with
  | 0 => some .test
  | 1 => some .retest
  | _ => none

/-- Release policy. -/
def policyOf (b : Byte) : Option ReleasePolicy :=
  match b.toNat with
  | 0 => some .manual
  | 1 => some .auto
  | _ => none

/-- Hold kinds in the priority order of Table 6-1. -/
def holdKinds : List HoldKind := [.quality, .program, .count, .tally, .run, .site, .bin, .yield]

/-- R124: the place of a kind in the priority order, 1 highest, which is also its code. -/
def HoldKind.priority : HoldKind → Nat
  | .quality => 1 | .program => 2 | .count => 3 | .tally => 4
  | .run => 5 | .site => 6 | .bin => 7 | .yield => 8

/-- What the kind field of HOLD.RELEASE names (R134). -/
inductive ReleaseTarget where
  | kind (k : HoldKind)
  | leading
  deriving DecidableEq, Repr

/-- Hold kind of HOLD.RELEASE: QUALITY 1 to YIELD 8, LEADING 9. -/
def releaseTargetOf (b : Byte) : Option ReleaseTarget :=
  if b.toNat = 9 then some .leading else (holdKinds.find? (fun k => k.priority = b.toNat)).map .kind

/-- Release mode (R134). -/
inductive ReleaseMode where
  | clear | waive
  deriving DecidableEq, Repr

/-- Release mode: CLEAR 0, WAIVE 1. -/
def releaseModeOf (b : Byte) : Option ReleaseMode :=
  match b.toNat with
  | 0 => some .clear
  | 1 => some .waive
  | _ => none

/-- Stall choice: any other code is taken as OFF (Table 2-2). -/
def stallOf (b : Byte) : StallChoice :=
  match b.toNat with
  | 1 => .s120
  | 2 => .s300
  | 3 => .s900
  | _ => .off

/-- R44: the stall limit a choice names, in milliseconds. -/
def StallChoice.limit : StallChoice → Option Nat
  | .off => none
  | .s120 => some (seconds 120)
  | .s300 => some (seconds 300)
  | .s900 => some (seconds 900)

/-- Finish mode: any other code is taken as AUTO (Table 5-1). -/
def finishOf (b : Byte) : FinishMode := if b.toNat = 1 then .notify else .auto

/-- Channel mode: a code that names nothing is taken as BURST (R191). -/
def channelModeOf (b : Byte) : ChannelMode :=
  match b.toNat with
  | 0 => .whole
  | 2 => .paced
  | _ => .burst

/-- Channel round: a code that names nothing is taken as SINGLE (R191). -/
def channelRoundOf (b : Byte) : ChannelRound := if b.toNat = 1 then .rolling else .single

/-- Channel enable: a code that names nothing is taken as enabled (R191). -/
def channelEnableOf (b : Byte) : Bool := b.toNat ≠ 0

/-- Rotation mode and grant order: any other code is taken as ROTATING (Table 10-4). -/
def turningOf (v : Half) : Turning := if v.toNat = 1 then .fixed else .rotating

/-- Forwarding setting. The code of any value but 0 and 1 is open (Config.forwardingCode). -/
def forwardingOf (b : Byte) : Forwarding :=
  match b.toNat with
  | 0 => .forward
  | 1 => .absorb
  | _ => Config.forwardingCode b

/-- Group entry use. The code of any value but 0 and 1 is open (Config.groupUseCode). -/
def groupUseOf (b : Byte) : Bool :=
  match b.toNat with
  | 0 => false
  | 1 => true
  | _ => Config.groupUseCode b

/-- LOADED result: OK 0, every other value REJECT. -/
def loadOk (b : Byte) : Bool := b.toNat = 0

/-- A bin code above 15 is taken as bin 15 (R104). -/
def binOf (b : Byte) : BinNo := if h : b.toNat < 16 then ⟨b.toNat, h⟩ else 15

/-! ### Table entries -/

/-- R101, Table 5-1: a written profile, its fields brought into range. -/
def profileOf (e : ProfileImage) : GateProfile :=
  { yieldFloor := min e.yieldFloor.toNat 10000
    minSample := max e.minSample.toNat 1
    ceilings := e.ceilings.map fun c => min c.toNat 10000
    siteDelta := min e.siteDelta.toNat 10000
    siteMin := max e.siteMin.toNat 1
    runLimit := e.runLimit.toNat
    lossLimit := e.lossLimit.toNat
    tolerance := e.tolerance.toNat
    goodBins := e.goodBins
    retestBins := e.retestBins
    sublotSize := max e.sublotSize.toNat 1
    spread := clampTo 1 8 e.spread.toNat
    finish := finishOf e.finish }

/-- R75: program id 0 makes the entry unused; the segment count is written as the count less one. -/
def catalogueOf (program : Half) (revision : Byte) (segsLessOne : Half) (noRetain : Byte) : Option CatalogueEntry :=
  if program = 0#16 then none
  else some { program := program, revision := revision, segs := segsLessOne.toNat + 1, noRetain := noRetain ≠ 0#8 }

/-- R27, Table 2-2. -/
def cellConfigOf (cap : Half) (stall : Byte) (soak : Half) : CellConfig :=
  { cap := max cap.toNat 1, stall := stallOf stall, soak := min soak.toNat 3600 }

/-- R181: match value and mask modulo 64; an unused entry is held (and so read, R191) with both 0. -/
def groupOf (inUse value mask : Byte) : GroupEntry :=
  if groupUseOf inUse then
    { inUse := true, value := BitVec.ofNat 6 value.toNat, mask := BitVec.ofNat 6 mask.toNat }
  else {}

/-- R86, R191. -/
def channelSettingsOf (mode round enable : Byte) : ChannelSettings :=
  { mode := channelModeOf mode, round := channelRoundOf round, enabled := channelEnableOf enable }

/-! ### LOT.DEFINE (R3, R17) -/

/-- Whether Table 1-2 refuses a field of the step, `after` being the kind of the step directly before it. -/
def stepRefused (after : Option StepKind) (e : StepImage) : Bool :=
  match stepKindOf e.kind with
  | none => true
  | some k =>
    (tempOf e.temp).isNone || e.kit = 0#8 || e.program = 0#16 || decide (63 < e.profile.toNat)
      || (k = .retest && after ≠ some .test)

/-- R17: the position of the first step at fault, counting from `pos`. -/
def routeFault (after : Option StepKind) : Nat → List StepImage → Option Nat
  | _, [] => none
  | pos, e :: rest => if stepRefused after e then some pos else routeFault (stepKindOf e.kind) (pos + 1) rest

/-- The route step of an accepted step slot, after the clamps of R3. -/
def routeStepOf (e : StepImage) : RouteStep :=
  { kind := (stepKindOf e.kind).getD .test, temp := (tempOf e.temp).getD .cold, kit := e.kit
    program := e.program, profile := (indexOf 64 e.profile).getD 0, minSites := clampTo 1 8 e.minSites.toNat }

end Sys2Proof.Machine
end

