-- ==== Sys2Proof/Machine/Flags.lean ====
section
/-!
DEFINITION. The gate arithmetic (chapters 5 and 7): the comparisons of the YIELD, BIN, SITE and RUN checks,
the loss check, the tally reconciliation and the reported figures. Whole numbers, cross-multiplied, never
rounded but where the manual defines a figure as rounded down (R111).
-/

namespace Sys2Proof.Machine

/-- Whether bin `b` is in a set of bins. -/
def inBins (s : BitVec 16) (b : BinNo) : Bool := s.getLsbD b.val

/-- R116: the reported step yield in basis points. -/
def reportedYield (good tested : Nat) : Nat := if tested = 0 then 0 else good * 10000 / tested

/-- R112, R149: the YIELD comparison of a step, floor above 0. -/
def yieldFails (p : GateProfile) (r : StepRec) : Bool :=
  decide (0 < p.yieldFloor ∧ r.good * 10000 < p.yieldFloor * r.tested)

/-- R113, R149: whether bin `b` exceeds its ceiling. -/
def binFails (p : GateProfile) (r : StepRec) (b : BinNo) : Bool :=
  !inBins p.goodBins b && decide (p.ceilings[b] < 10000 ∧ p.ceilings[b] * r.tested < r.bins[b] * 10000)

/-- R113: the lowest-numbered failing bin. -/
def failingBin (p : GateProfile) (r : StepRec) : Option BinNo := (List.finRange 16).find? (binFails p r)

/-- R114, R117: the site yield, rounded down; 0 for a site with tested count 0. -/
def siteYield (t : SiteTally) : Nat := if t.tested = 0 then 0 else t.good * 10000 / t.tested

/-- R114: the sites that enter the SITE check, each with its yield, in site order. -/
def qualifyingSites (p : GateProfile) (siteCount : Nat) (sites : Vector SiteTally 8) : List (SiteNo × Nat) :=
  ((List.finRange 8).filter fun s => decide (s.val < siteCount ∧ p.siteMin ≤ sites[s].tested)).map
    fun s => (s, siteYield sites[s])

/-- The first entry of highest yield (R114: among sites of equal yield the lowest-numbered). -/
def highestSite : List (SiteNo × Nat) → Option (SiteNo × Nat)
  | [] => none
  | a :: rest => some (rest.foldl (fun best x => if best.2 < x.2 then x else best) a)

/-- The first entry of lowest yield. -/
def lowestSite : List (SiteNo × Nat) → Option (SiteNo × Nat)
  | [] => none
  | a :: rest => some (rest.foldl (fun best x => if x.2 < best.2 then x else best) a)

/-- R114: the sites of highest and lowest yield when their spread exceeds the site delta limit. -/
def siteFails (p : GateProfile) (siteCount : Nat) (sites : Vector SiteTally 8) :
    Option ((SiteNo × Nat) × (SiteNo × Nat)) :=
  let q := qualifyingSites p siteCount sites
  if p.siteDelta < 10000 ∧ 2 ≤ q.length then
    match highestSite q, lowestSite q with
    | some hi, some lo => if p.siteDelta < hi.2 - lo.2 then some (hi, lo) else none
    | _, _ => none
  else none

/-- R115: the RUN comparison on a site's run count. -/
def runFails (p : GateProfile) (run : Nat) : Bool := decide (0 < p.runLimit ∧ p.runLimit ≤ run)

/-- R148: the detail of the COUNT hold a step close raises, if it raises one. -/
def lossDetail (p : GateProfile) (r : StepRec) : Option HoldDetail :=
  if r.input < r.tested then some (.surplus (r.tested - r.input))
  else if p.lossLimit < r.input - r.tested then some (.loss (r.input - r.tested))
  else none

/-- R142: the lowest-numbered bin in which a handler's tally differs from the part's count by more than the
tolerance. -/
def tallyFault (p : GateProfile) (handler : Vector (BitVec 24) 16) (part : Vector Nat 16) : Option BinNo :=
  (List.finRange 16).find? fun b =>
    decide (p.tolerance < max (handler[b].toNat - part[b]) (part[b] - handler[b].toNat))

/-- R13: the retest count of a TEST step. -/
def retestCount (p : GateProfile) (r : StepRec) : Nat :=
  (((List.finRange 16).filter fun b => inBins p.retestBins b && !inBins p.goodBins b).map fun b => r.bins[b]).sum

end Sys2Proof.Machine
end

