-- ==== Sys2Proof/Machine/Ops.lean ====
section
/-!
DEFINITION. The named operations over the records: access to a lot, a cell, a slot and a channel; the change
stamp and the owed marks (R9, R10, R31, R172); the order of the dispatch queue (R51); the command queue of a
cell (R72, R132, R184); the stall deadline (R44); the sublot id and release number draws (R65, R157).
-/

namespace Sys2Proof.Machine

/-- Every cell in number order. -/
def allCells : List CellNo := List.finRange 32

/-- Every lot handle in order. -/
def allLots : List LotNo := List.finRange 256

/-- Every channel in order. -/
def allChans : List ChanNo := List.finRange 8

/-- Every slot of a tester in order. -/
def allSlots : List SlotNo := List.finRange 4

/-! ### Records by index -/

/-- The lot record at a handle. -/
abbrev Bay.lot (b : Bay) (h : LotNo) : LotRec := b.lots[h]

/-- The cell record of a cell. -/
abbrev Bay.cell (b : Bay) (c : CellNo) : CellRec := b.cells[c]

/-- The record of a load channel. -/
abbrev Bay.chan (b : Bay) (k : ChanNo) : Channel := b.channels[k]

/-- Writes a lot record without regard to the stamp. -/
def Bay.setLot (b : Bay) (h : LotNo) (l : LotRec) : Bay := { b with lots := b.lots.set h l }

/-- Writes a cell record without regard to the owed mark. -/
def Bay.setCell (b : Bay) (c : CellNo) (r : CellRec) : Bay := { b with cells := b.cells.set c r }

/-- Changes a channel record. -/
def Bay.modChan (b : Bay) (k : ChanNo) (f : Channel → Channel) : Bay :=
  { b with channels := b.channels.set k (f (b.chan k)) }

/-! ### Owed marks and the change stamp -/

/-- R172: sets an owed mark; a mark set while clear joins the tail of the notice list. -/
def Bay.owe (b : Bay) (n : Notice) : Bay := if n ∈ b.notices then b else { b with notices := b.notices ++ [n] }

/-- Clears an owed mark; its entry leaves the notice list. -/
def Bay.unowe (b : Bay) (n : Notice) : Bay := { b with notices := b.notices.filter (· ≠ n) }

/-- R9: what of a lot record the change stamp follows. -/
def LotRec.followed (l : LotRec) : LotState × Option SavedState × DispatchClass × Option Nat × List HoldEntry :=
  (l.state, l.saved, l.cls, l.stepIndex, l.holds)

/-- R9, R10: advances the stamp of a lot, once for the event being taken, and sets its LOT.STATE mark. -/
def Bay.stampLot (b : Bay) (h : LotNo) : Bay :=
  if h ∈ b.stamped then b
  else
    let l := b.lot h
    ({ b.setLot h { l with stamp := l.stamp + 1 } with stamped := h :: b.stamped }).owe (.lotState h)

/-- Changes a lot record; a change of a followed field advances the stamp (R9). -/
def Bay.modLot (b : Bay) (h : LotNo) (f : LotRec → LotRec) : Bay :=
  if (f (b.lot h)).followed = (b.lot h).followed then b.setLot h (f (b.lot h))
  else (b.setLot h (f (b.lot h))).stampLot h

/-- R31: what of a cell record the CELL.STATE mark follows; the marks are local-pending, claim-pending,
suspect, stalled and stall-finish. -/
structure CellView where
  state : CellState
  kit : Byte
  temp : Option TempClass
  sites : Option Nat
  alarm : Half
  pause : PauseState
  marks : List Bool
  sublot : Option Half
  loadFailures : Nat
  deriving DecidableEq, Repr

/-- The followed fields of a cell record (R31). -/
def CellRec.noticed (r : CellRec) : CellView :=
  { state := r.state, kit := r.kit, temp := r.temp, sites := r.sites, alarm := r.alarm, pause := r.pause
    marks := [r.localPending, r.claimPending, r.suspect, r.stalled, r.stallFinish]
    sublot := r.assignment.map (·.id), loadFailures := r.loadFailures }

/-- Changes a cell record; a change of a field of R31 sets the CELL.STATE mark. -/
def Bay.modCell (b : Bay) (c : CellNo) (f : CellRec → CellRec) : Bay :=
  if (f (b.cell c)).noticed = (b.cell c).noticed then b.setCell c (f (b.cell c))
  else (b.setCell c (f (b.cell c))).owe (.cellState c)

/-- Changes the counters of a cell (R28). -/
def Bay.countCell (b : Bay) (c : CellNo) (f : CellCounters → CellCounters) : Bay :=
  b.modCell c fun r => { r with counters := f r.counters }

/-- R28: one more protocol error. -/
def Bay.protocolError (b : Bay) (c : CellNo) : Bay :=
  b.countCell c fun k => { k with protocolErrors := bump16 k.protocolErrors }

/-- Changes a residency slot of a cell's tester. -/
def Bay.modSlot (b : Bay) (c : CellNo) (k : SlotNo) (f : Slot → Slot) : Bay :=
  b.modCell c fun r => { r with slots := r.slots.set k (f r.slots[k]) }

/-- R77: an EMPTY slot has no program id and no revision; its last-use time is kept. -/
def Slot.emptied (s : Slot) : Slot := { s with state := .empty, image := none }

/-- Changes the assignment a cell holds, if it holds one. -/
def Bay.modAssignment (b : Bay) (c : CellNo) (f : Assignment → Assignment) : Bay :=
  b.modCell c fun r => { r with assignment := r.assignment.map f }

/-! ### Steps of a lot -/

/-- The route step at position `k`, 1 to 6. -/
def LotRec.routeStep (l : LotRec) (k : Nat) : RouteStep := l.route.getD (k - 1) default

/-- The step record at position `k`. -/
def LotRec.stepRec (l : LotRec) (k : Nat) : StepRec := l.steps.getD (k - 1) default

/-- Changes the step record at position `k`. -/
def LotRec.modStep (l : LotRec) (k : Nat) (f : StepRec → StepRec) : LotRec :=
  { l with steps := l.steps.modify (k - 1) f }

/-- The position of the open step, 0 while absent. -/
def LotRec.openIndex (l : LotRec) : Nat := l.stepIndex.getD 0

/-- The gate profile that step `k` of a lot names, as it stands (R102). -/
def Ctx.profile (x : Ctx) (l : LotRec) (k : Nat) : GateProfile := x.tables.profiles[(l.routeStep k).profile]

/-- R75: the used catalogue entry that holds a program id. -/
def Tables.entryOf (t : Tables) (p : Half) : Option CatalogueEntry :=
  (t.catalogue.toList.filterMap id).find? (fun e => e.program = p)

/-- R77: a slot is a hit for a program id when it is RESIDENT at the catalogue's current revision. -/
def Tables.hit (t : Tables) (p : Half) (s : Slot) : Bool :=
  match t.entryOf p with
  | none => false
  | some e => s.state = .resident && s.image = some (p, e.revision)

/-- R59: the residency slot that holds a program for a step. -/
def Ctx.residentSlot (x : Ctx) (r : CellRec) (p : Half) : Option SlotNo :=
  allSlots.find? fun k => x.tables.hit p r.slots[k]

/-! ### The dispatch queue (R51, R52) -/

/-- The order of the dispatch queue: class, queued-at, handle. -/
def Bay.ahead (b : Bay) (h h' : LotNo) : Bool :=
  let rank (l : LotRec) : Nat := if l.cls = .expedited then 0 else 1
  let a := b.lot h
  let a' := b.lot h'
  decide (rank a < rank a' ∨ (rank a = rank a' ∧ (a.queuedAt < a'.queuedAt ∨ (a.queuedAt = a'.queuedAt ∧ h < h'))))

/-- Places a lot in the queue where its class, queued-at and handle put it; each lot at most once. -/
def Bay.enqueue (b : Bay) (h : LotNo) : Bay :=
  let q := b.queue.filter (· ≠ h)
  { b with queue := q.takeWhile (b.ahead · h) ++ h :: q.dropWhile (b.ahead · h) }

/-- R52: a lot leaves the queue; its age deadline is cancelled (R54). -/
def Bay.leaveQueue (b : Bay) (h : LotNo) : Bay :=
  { b with queue := b.queue.filter (· ≠ h) }.modLot h fun l => { l with ageDeadline := none }

/-- R54: the age deadline of a queued lot, present while it is NORMAL and the age limit is not 0. -/
def Ctx.ageDeadline (x : Ctx) (l : LotRec) : Option Nat :=
  let limit := x.tables.settings.ageLimit
  if l.cls = .normal ∧ limit ≠ 0 then some (deadlineAfter l.queuedAt (minutes limit)) else none

/-! ### The command queue of a cell (R184) -/

/-- Whether a command is an OFFER. -/
def Command.isOffer : Command → Bool
  | .offer _ => true
  | _ => false

/-- Whether a command is a FINISH. -/
def Command.isFinish : Command → Bool
  | .finish .. => true
  | _ => false

/-- Whether a command is a PAUSE. -/
def Command.isPause : Command → Bool
  | .pause .. => true
  | _ => false

/-- Whether a command is a RESUME. -/
def Command.isResume : Command → Bool
  | .resume .. => true
  | _ => false

/-- Whether a command is a WITHDRAW. -/
def Command.isWithdraw : Command → Bool
  | .withdraw _ => true
  | _ => false

/-- Whether a command is the OFFER of a sublot. -/
def Command.offers (id : Half) : Command → Bool
  | .offer o => o.id = id
  | _ => false

/-- Whether a command is the FINISH of a sublot. -/
def Command.finishes (id : Half) : Command → Bool
  | .finish i _ => i = id
  | _ => false

/-- Whether a command is the PAUSE of a sublot. -/
def Command.pauses (id : Half) : Command → Bool
  | .pause i _ => i = id
  | _ => false

/-- Whether a command is the RESUME of a sublot. -/
def Command.resumes (id : Half) : Command → Bool
  | .resume i _ => i = id
  | _ => false

/-- R184: an OFFER replaces a queued one and joins the tail. -/
def placeOffer (q : List Command) (o : Offer) : List Command := q.filter (!·.isOffer) ++ [.offer o]

/-- The ids of the queued WITHDRAW, if one is queued. -/
def queuedWithdraw (q : List Command) : Option (List (Half × Option LotNo)) :=
  q.findSome? fun
    | .withdraw ids => some ids
    | _ => none

/-- Adds an id to the end of the queued WITHDRAW's list, the WITHDRAW keeping its place. -/
def addToWithdraw (id : Half) (lot : Option LotNo) : Command → Command
  | .withdraw ids => .withdraw (ids ++ [(id, lot)])
  | k => k

/-- R72: places a withdrawal due for a sublot id; the flag says that the list was full of other ids. -/
def placeWithdraw (q : List Command) (id : Half) (lot : Option LotNo) : List Command × Bool :=
  if q.any (·.offers id) then (q.filter (!·.offers id), false)
  else
    match queuedWithdraw q with
    | none => (q ++ [.withdraw [(id, lot)]], false)
    | some ids =>
      if ids.any (·.1 = id) then (q, false)
      else if ids.length < 8 then (q.map (addToWithdraw id lot), false)
      else (q, true)

/-- R184: places a FINISH. -/
def placeFinish (q : List Command) (id : Half) (lot : LotNo) : List Command :=
  if q.any (·.finishes id) then q else q.filter (!·.isFinish) ++ [.finish id lot]

/-- R132: places a PAUSE. -/
def placePause (q : List Command) (id : Half) (lot : LotNo) : List Command :=
  if q.any (·.pauses id) then q else q.filter (!·.isPause) ++ [.pause id lot]

/-- R132: places a RESUME. -/
def placeResume (q : List Command) (id : Half) (lot : LotNo) : List Command :=
  if q.any (·.pauses id) then q.filter (!·.pauses id)
  else if q.any (·.resumes id) then q
  else q.filter (!·.isResume) ++ [.resume id lot]

/-- R72: a withdrawal for a sublot id is due at a cell. -/
def Bay.withdrawDue (b : Bay) (c : CellNo) (id : Half) (lot : Option LotNo) : Bay :=
  let q := placeWithdraw (b.cell c).commands id lot
  let b := b.modCell c fun r => { r with commands := q.1 }
  if q.2 then b.protocolError c else b

/-- R41, R46, R108: FINISH for a cell's sublot, with its finish-sent mark, unless either was done before. -/
def Bay.finishDue (b : Bay) (c : CellNo) : Bay :=
  match (b.cell c).assignment with
  | none => b
  | some a =>
    if a.finishSent ∨ (b.cell c).commands.any (·.finishes a.id) then b
    else b.modCell c fun r =>
      { r with commands := placeFinish r.commands a.id a.lot, assignment := some { a with finishSent := true } }

/-! ### The stall deadline (R44) -/

/-- Arms or moves the stall deadline of a cell to the clock plus the stall limit, where R44 allows it. -/
def Bay.armStall (x : Ctx) (b : Bay) (c : CellNo) : Bay :=
  let r := b.cell c
  match x.tables.cellConfig[c].stall.limit with
  | none => b
  | some ms =>
    if r.state = .running ∧ r.pause = .none ∧ r.stallFinish = false then
      b.modCell c fun r => { r with stallDeadline := some (deadlineAfter x.clock ms) }
    else b

/-! ### Draws -/

/-- R65: the id after an id, from 65,535 to 1, skipping 0. -/
def nextId (id : Half) : Half := if id = 0xFFFF#16 then 1#16 else id + 1

/-- Whether an id names the assignment of any cell. -/
def Bay.holdsId (b : Bay) (id : Half) : Bool :=
  allCells.any fun c => (b.cell c).assignment.any (·.id = id)

/-- R200: the lot of the sublot that an id names, if the assignment of any cell carries that id. -/
def Bay.sublotLot (b : Bay) (id : Half) : Option LotNo :=
  allCells.findSome? fun c => ((b.cell c).assignment.filter (·.id = id)).map (·.lot)

/-- The first value, from `id` on, that is neither 0 nor held; at most 32 are held, so 33 tries suffice. -/
def Bay.freeId (b : Bay) : Nat → Half → Half
  | 0, id => id
  | n + 1, id => if id = 0#16 ∨ b.holdsId id then b.freeId n (nextId id) else id

/-- R65: draws a sublot id and advances the counter past it. -/
def Bay.drawId (b : Bay) : Half × Bay :=
  let id := b.freeId 34 b.nextSublot
  (id, { b with nextSublot := nextId id })

/-- R157: the release number after a number, from 4,294,967,295 to 1, skipping 0. -/
def nextRelease (n : Stamp) : Stamp := if n = 0xFFFFFFFF#32 then 1#32 else n + 1

end Sys2Proof.Machine
end

