-- ==== Sys2Proof/Machine/Loads.lean ====
section
/-!
DEFINITION. Loads and load channels as far as they do not touch a lot (chapter 4): the victim choice (R78),
the placement of a load (R84), the load wait queue (R85), the start of a channel (R87), the end of a round
(R93), a load's leaving of its lists (R95), a pull's completion (R90) and a segment copy's delivery (R92).
-/

namespace Sys2Proof.Machine

/-- The settings of a channel. -/
abbrev Ctx.channel (x : Ctx) (k : ChanNo) : ChannelSettings := x.tables.channels[k]

/-- Sets the place of a cell's load. -/
def Bay.setPlace (b : Bay) (c : CellNo) (p : LoadPlace) : Bay :=
  b.modCell c fun r => { r with load := r.load.map fun ld => { ld with place := p } }

/-! ### The victim choice (R78) -/

/-- The earliest last-use among RESIDENT slots, the slot `named` by the cell's assignment passed over;
between equals the lower-numbered. -/
def oldestResident (slots : Vector Slot 4) (named : Option SlotNo) : Option SlotNo :=
  (allSlots.filter fun k => slots[k].state = .resident && named ≠ some k).foldl
    (fun best k =>
      match best with
      | none => some k
      | some j => if slots[k].lastUse < slots[j].lastUse then some k else some j) none

/-- R78: the slot a load of a program at a revision is written into. -/
def victimSlot (r : CellRec) (program : Half) (revision : Byte) : SlotNo :=
  let s := r.slots
  ((allSlots.find? fun k => s[k].state ≠ .empty && s[k].image = some (program, revision))
    <|> (allSlots.find? fun k => s[k].state = .empty)
    <|> (allSlots.find? fun k => s[k].state = .stale || s[k].state = .altered)
    <|> oldestResident s (r.assignment.bind (·.slot))).getD 0

/-! ### Channels (R84 to R87) -/

/-- R87: a load starts an IDLE channel. -/
def Bay.startChannel (x : Ctx) (b : Bay) (k : ChanNo) (c : CellNo) (ld : LoadRec) : Bay :=
  (b.modChan k fun ch =>
    { ch with
      state := .gathering, modeInForce := (x.channel k).mode, image := some ld.image, base := ld.image.segs
      current := ld.image.segs, targets := [{ cell := c, slot := ld.slot }], nextRound := [], segs := []
      pull := none, slotHeld := false }).setPlace c .target

/-- A load joins the end of a channel's target list with next-delivery position 0. -/
def Bay.joinTargets (b : Bay) (k : ChanNo) (c : CellNo) (ld : LoadRec) : Bay :=
  (b.modChan k fun ch => { ch with targets := ch.targets ++ [{ cell := c, slot := ld.slot }] }).setPlace c .target

/-- R84: places a new load. -/
def Bay.placeLoad (x : Ctx) (b : Bay) (c : CellNo) : Bay :=
  match (b.cell c).load with
  | none => b
  | some ld =>
    let same (k : ChanNo) : Bool := (x.channel k).enabled && (b.chan k).image = some ld.image
    match allChans.find? fun k => same k && (b.chan k).state = .gathering && decide ((b.chan k).targets.length < 8) with
    | some k => b.joinTargets k c ld
    | none =>
      match allChans.find? fun k => same k && (x.channel k).round = .rolling && (b.chan k).state = .pulling
          && decide ((b.chan k).nextRound.length < 8) with
      | some k => (b.modChan k fun ch => { ch with nextRound := ch.nextRound ++ [(c, ld.slot)] }).setPlace c .nextRound
      | none =>
        match allChans.find? fun k => (x.channel k).enabled && (b.chan k).state = .idle with
        | some k => b.startChannel x k c ld
        | none => { b with waitQueue := b.waitQueue ++ [c] }.setPlace c .waiting

/-- R85: each further waiting entry with the channel's image becomes a target, until the list holds 8. -/
def Bay.takeSameImage (b : Bay) (k : ChanNo) (c : CellNo) : Bay :=
  match (b.cell c).load with
  | none => b
  | some ld =>
    if (b.chan k).image = some ld.image ∧ (b.chan k).targets.length < 8 then
      { b with waitQueue := b.waitQueue.filter (· ≠ c) }.joinTargets k c ld
    else b

/-- R85: an enabled channel that is IDLE takes the head of the load wait queue, and what has its image. -/
def Bay.takeWaiting (x : Ctx) (b : Bay) (k : ChanNo) : Bay :=
  if (x.channel k).enabled ∧ (b.chan k).state = .idle then
    match b.waitQueue with
    | [] => b
    | c :: rest =>
      match (b.cell c).load with
      | none => b
      | some ld => rest.foldl (fun b c => b.takeSameImage k c) ({ b with waitQueue := rest }.startChannel x k c ld)
  else b

/-- R93, R94: the channel becomes IDLE, its identity absent and the written mode in force, and takes from the
load wait queue if it is enabled. DESIGN CHOICE, notes/assumptions/39.md: the buffer of a segment whose copy is being sent
(R161) is freed with the others. -/
def Bay.goIdle (x : Ctx) (b : Bay) (k : ChanNo) : Bay :=
  (b.modChan k fun ch =>
    { ch with
      state := .idle, modeInForce := (x.channel k).mode, image := none, base := 0, current := 0
      targets := [], nextRound := [], segs := [], pull := none, slotHeld := false }).takeWaiting x k

/-- R93: the end of a round: the next round from the next-round list, or IDLE. -/
def Bay.roundEnd (x : Ctx) (b : Bay) (k : ChanNo) : Bay :=
  match (b.chan k).nextRound with
  | [] => b.goIdle x k
  | next =>
    next.foldl (fun b e => b.setPlace e.1 .target) <|
      b.modChan k fun ch =>
        { ch with
          state := .pulling, current := ch.base, targets := next.map fun e => { cell := e.1, slot := e.2 }
          nextRound := [], segs := [], pull := none, slotHeld := false }

/-- R93: ends the round if its three conditions hold. -/
def Bay.endIfDone (x : Ctx) (b : Bay) (k : ChanNo) : Bay :=
  let ch := b.chan k
  if ch.state ≠ .idle ∧ ch.current = 0 ∧ ch.pull = none ∧ ch.targets = [] then b.roundEnd x k else b

/-- R92: the segments some target has still to be sent. -/
def Channel.unpassed (ch : Channel) : List SegBuf := ch.segs.filter fun sg => ch.targets.any fun t => decide (t.pos ≤ sg.number)

/-- R95: what a channel does when a target has left its list. Buffers of segments being sent: notes/assumptions/39.md. -/
def Bay.targetLeft (x : Ctx) (b : Bay) (k : ChanNo) : Bay :=
  let ch := b.chan k
  if ch.targets ≠ [] then b.modChan k fun ch => { ch with segs := ch.unpassed }
  else if ch.pull.isSome then b.modChan k fun ch => { ch with state := .draining, segs := [], current := 0 }
  else (b.modChan k fun ch => { ch with segs := [], current := 0, slotHeld := false }).roundEnd x k

/-- R95: a cell's load leaves one channel's lists. -/
def Bay.leaveChannel (x : Ctx) (c : CellNo) (b : Bay) (k : ChanNo) : Bay :=
  let b' := b.modChan k fun ch =>
    { ch with targets := ch.targets.filter (·.cell ≠ c), nextRound := ch.nextRound.filter (·.1 ≠ c) }
  if (b.chan k).targets.any (·.cell = c) then b'.targetLeft x k else b'

/-- R83: when a load record ends, the cell leaves whatever list holds it. -/
def Bay.leaveLists (x : Ctx) (b : Bay) (c : CellNo) : Bay :=
  allChans.foldl (Bay.leaveChannel x c) { b with waitQueue := b.waitQueue.filter (· ≠ c) }

/-- R83, R78: starts a load of a catalogue entry's image for a cell: the victim slot, the load record, the
place. The cell is LOADING from here on. -/
def Bay.startLoad (x : Ctx) (b : Bay) (c : CellNo) (e : CatalogueEntry) : Bay :=
  let k := victimSlot (b.cell c) e.program e.revision
  let b := b.modCell c fun r =>
    { r with
      state := .loading
      slots := r.slots.set k { r.slots[k] with state := .loading, image := some (e.program, e.revision) }
      assignment := r.assignment.map fun a => { a with slot := some k }
      load := some { image := { program := e.program, revision := e.revision, segs := e.segs }, slot := k, place := .waiting } }
  b.placeLoad x c

/-- R36, R41, R48: a load is abandoned: it leaves its lists, the slot being loaded becomes EMPTY and the load
record ends. -/
def Bay.abandonLoad (x : Ctx) (b : Bay) (c : CellNo) : Bay :=
  match (b.cell c).load with
  | none => b
  | some ld =>
    (b.leaveLists x c).modCell c fun r =>
      { r with slots := r.slots.set ld.slot r.slots[ld.slot].emptied, load := none }

/-! ### Pulls and segments (R90 to R92) -/

/-- R90: what a channel does when its pull completes; the mode in force is first set to the written mode (R86). -/
def Bay.pullComplete (x : Ctx) (b : Bay) (k : ChanNo) : Bay :=
  let mode := (x.channel k).mode
  let draining := (b.chan k).state = .draining
  let b := b.modChan k fun ch =>
    { ch with
      modeInForce := mode, pull := none
      slotHeld := ch.slotHeld && !decide draining && mode = .whole && decide (0 < ch.current) }
  if draining then b.roundEnd x k else b.endIfDone x k

/-- R91, R95: an expected segment is taken into a reserved buffer and joins the segment queue; a DRAINING
channel frees the buffer at once. -/
def Bay.takeSegment (x : Ctx) (b : Bay) (k : ChanNo) (p : Pull) (sg : SegBuf) : Bay :=
  let b := b.modChan k fun ch =>
    { ch with
      segs := if ch.state = .draining then ch.segs else ch.segs ++ [sg]
      pull := some { p with arrived := p.arrived + 1 } }
  if p.arrived + 1 = p.n then b.pullComplete x k else b

/-- R92: a target that has been sent the last segment: its delivery is complete and it is AWAITING. -/
def Bay.deliveryComplete (x : Ctx) (b : Bay) (k : ChanNo) (c : CellNo) : Bay :=
  let b := b.modChan k fun ch => { ch with targets := ch.targets.filter (·.cell ≠ c) }
  b.modCell c fun r =>
    { r with
      load := r.load.map fun ld =>
        { ld with
          place := .awaiting
          deadline := some (deadlineAfter x.clock (seconds x.tables.settings.loadTimeout)) } }

/-- R92: the end of the sending of a segment copy to a cell that is a target of channel `k`. -/
def Bay.delivered (x : Ctx) (b : Bay) (k : ChanNo) (c : CellNo) : Bay :=
  let b := b.modChan k fun ch =>
    { ch with targets := ch.targets.map fun t => if t.cell = c then { t with pos := t.pos + 1 } else t }
  let ch := b.chan k
  let b := if ch.targets.any fun t => t.cell = c && decide (t.pos = ch.base) then b.deliveryComplete x k c else b
  (b.modChan k fun ch => { ch with segs := ch.unpassed }).endIfDone x k

end Sys2Proof.Machine
end

