-- ==== Sys2Proof/Machine/Matching.lean ====
section
/-!
DEFINITION. The dispatch unit (chapter 3): qualification and tiers (R58 to R60), offers (R66), the cutting of a
sublot (R64), the two matches (R61, R62) and joining the dispatch queue (R52).
-/

namespace Sys2Proof.Machine

/-- R58, R59: the tier at which a cell qualifies for the open step of a queued lot, if it does. -/
def Bay.tier (x : Ctx) (b : Bay) (h : LotNo) (c : CellNo) : Option Nat :=
  let r := b.cell c
  let l := b.lot h
  let st := l.routeStep l.openIndex
  if h ∈ b.queue ∧ r.state = .idle ∧ r.localPending = false ∧ r.kit ≠ 0#8 ∧ r.kit = st.kit
      ∧ st.minSites ≤ r.sites.getD 0 ∧ r.excluded ≠ some h ∧ l.openSublots < (x.profile l l.openIndex).spread
      ∧ (x.tables.entryOf st.program).isSome then
    if r.temp = some st.temp then
      if (x.residentSlot r st.program).isSome then some 1 else some 2
    else if l.cls = .expedited then some 3 else none
  else none

/-- R66: makes an offer of the sublot a cell holds, on slot `k` of its tester. -/
def Bay.makeOffer (x : Ctx) (b : Bay) (c : CellNo) (k : SlotNo) : Bay :=
  match (b.cell c).assignment with
  | none => b
  | some a =>
    let st := (b.lot a.lot).routeStep a.step
    let revision := ((b.cell c).slots[k].image.map (·.2)).getD 0#8
    let soak := if (b.cell c).temp = some st.temp then 0 else x.tables.cellConfig[c].soak
    let due := deadlineAfter x.clock (seconds (x.tables.settings.offerTimeout + soak))
    b.modCell c fun r =>
      { r with
        state := .offered, offerDeadline := some due, assignment := some { a with slot := some k }
        commands := placeOffer r.commands
          { id := a.id, lot := a.lot, step := a.step, qty := a.qty, program := st.program
            revision := revision, slot := k, temp := st.temp } }

/-- R63: in ROTATING mode a cell for which a sublot is cut moves to the end of the rotation list. -/
def Bay.rotate (x : Ctx) (b : Bay) (c : CellNo) : Bay :=
  if x.tables.settings.rotationMode = .rotating then
    { b with rotation := b.rotation.filter (· ≠ c) ++ [c] }
  else b

/-- R64: the quantity of a sublot cut of a lot for a cell. -/
def Bay.cutQuantity (x : Ctx) (b : Bay) (h : LotNo) (c : CellNo) : Nat :=
  let l := b.lot h
  min l.remaining (min x.tables.cellConfig[c].cap (x.profile l l.openIndex).sublotSize)

/-- R64: cuts one sublot of a lot for a cell. -/
def Bay.cut (x : Ctx) (b : Bay) (h : LotNo) (c : CellNo) : Bay :=
  let l := b.lot h
  let st := l.routeStep l.openIndex
  let qty := b.cutQuantity x h c
  let (id, b) := b.drawId
  let b := b.modLot h fun l => { l with remaining := l.remaining - qty, openSublots := l.openSublots + 1 }
  let b := b.modCell c fun r => { r with assignment := some { lot := h, step := l.openIndex, id := id, qty := qty } }
  let b :=
    match x.residentSlot (b.cell c) st.program with
    | some k => b.makeOffer x c k
    | none =>
      match x.tables.entryOf st.program with
      | some e => b.startLoad x c e
      | none => b
  let b := b.rotate x c
  if (b.lot h).remaining = 0 then (b.modLot h fun l => { l with state := .closing }).leaveQueue h else b

/-- R62: the qualifying cell of the lowest tier, among equals the earliest in the rotation list. -/
def Bay.chooseCell (x : Ctx) (b : Bay) (h : LotNo) : Option CellNo :=
  (b.rotation.find? fun c => b.tier x h c = some 1)
    <|> (b.rotation.find? fun c => b.tier x h c = some 2)
    <|> (b.rotation.find? fun c => b.tier x h c = some 3)

/-- R62 with at most `n` cuts. -/
def Bay.matchLotUpTo (x : Ctx) : Nat → Bay → LotNo → Bay
  | 0, b, _ => b
  | n + 1, b, h =>
    if 0 < (b.lot h).remaining then
      match b.chooseCell x h with
      | some c => Bay.matchLotUpTo x n (b.cut x h c) h
      | none => b
    else b

/-- R62: the lot-initiated match. Each cut takes a cell out of IDLE, so 32 cuts are as many as there can be. -/
def Bay.matchLot (x : Ctx) (b : Bay) (h : LotNo) : Bay := Bay.matchLotUpTo x 32 b h

/-- R61: the cell-initiated match: the first lot of the queue for which the cell qualifies. A cell that is no
longer IDLE qualifies for none. -/
def Bay.matchCell (x : Ctx) (b : Bay) (c : CellNo) : Bay :=
  match b.queue.find? fun h => (b.tier x h c).isSome with
  | some h => b.cut x h c
  | none => b

/-- R52, R54: a lot joins the dispatch queue at its place, forms its age deadline and runs its match. -/
def Bay.joinQueue (x : Ctx) (b : Bay) (h : LotNo) : Bay :=
  ((b.enqueue h).modLot h fun l => { l with ageDeadline := x.ageDeadline l }).matchLot x h

end Sys2Proof.Machine
end

