-- ==== Sys2Proof/Machine/StepFlow.lean ====
section
/-!
DEFINITION. The flow of a lot's steps: the entry a raise adds (R123, R125), step opening and advance (R11 to
R15), completion (R152), the step-close evaluation (R147 to R150), and the return of a sublot's quantity (R73).
-/

namespace Sys2Proof.Machine

/-! ### The hold entry of a raise -/

/-- R125: the states in which a raise is taken. -/
def LotState.holdable : LotState → Bool
  | .active => true
  | .closing => true
  | .complete => true
  | .held => true
  | _ => false

/-- R7: the saved state that a lot becoming HELD records. -/
def LotState.toSaved : LotState → Option SavedState
  | .active => some .active
  | .closing => some .closing
  | .complete => some .complete
  | _ => none

/-- R123: a further raise of a kind that is present. -/
def HoldEntry.again (e : HoldEntry) : HoldEntry := { e with occurrences := satSucc Config.max8 e.occurrences }

/-- R123, R125: the hold set after a raise, in priority order. -/
def raiseIn (holds : List HoldEntry) (e : HoldEntry) : List HoldEntry :=
  if holds.any (·.kind = e.kind) then holds.map fun o => if o.kind = e.kind then o.again else o
  else
    holds.takeWhile (fun o => decide (o.kind.priority < e.kind.priority))
      ++ e :: holds.dropWhile (fun o => decide (o.kind.priority < e.kind.priority))

/-- R124: the leading hold. -/
def LotRec.leading (l : LotRec) : Option HoldKind := l.holds.head?.map (·.kind)

/-- R7, R125: the lot's own part of a raise: the entry, and HELD with the former state saved. An ACTIVE lot
leaves the dispatch queue; a COMPLETE lot loses its quarantine. -/
def Bay.raiseEntry (x : Ctx) (b : Bay) (h : LotNo) (kind : HoldKind) (origin : HoldOrigin) (detail : HoldDetail) : Bay :=
  let l := b.lot h
  if l.state.holdable then
    let e : HoldEntry :=
      { kind := kind, origin := origin, raisedAt := x.clock, stepIndex := l.openIndex, occurrences := 1, detail := detail }
    let b := b.modLot h fun l => { l with holds := raiseIn l.holds e }
    if l.state = .held then b
    else
      let b := b.modLot h fun l =>
        { l with
          state := .held, saved := l.state.toSaved
          completedAt := none, quarantine := none, quarantineSpent := false }
      b.leaveQueue h
  else b

/-! ### Steps (R11 to R15) -/

/-- R152: a lot enters COMPLETE; under AUTO its quarantine deadline is formed. -/
def Bay.completeLot (x : Ctx) (b : Bay) (h : LotNo) : Bay :=
  b.modLot h fun l =>
    if l.policy = .auto then
      { l with
        state := .complete, completedAt := some x.clock, quarantineSpent := false
        quarantine := some (deadlineAfter x.clock (minutes x.tables.settings.quarantineDelay)) }
    else { l with state := .complete, completedAt := none, quarantine := none, quarantineSpent := false }

/-- R12, items 1 to 4: a step becomes CLOSED, its loss is recorded, the carried quantity is updated and its
waiver set is emptied. -/
def LotRec.closeStep (l : LotRec) (k : Nat) : LotRec :=
  let r := l.stepRec k
  let l := l.modStep k fun r => { r with state := .closed, loss := (r.input : Int) - r.tested, waivers := {} }
  match (l.routeStep k).kind with
  | .test => { l with carried := min r.good r.input }
  | .retest => { l with carried := l.carried + min r.good r.input }

/-- R13: the input quantity with which step `k` opens. -/
def Ctx.stepInput (x : Ctx) (l : LotRec) (k : Nat) : Nat :=
  if k ≤ 1 then l.startQty
  else
    match (l.routeStep k).kind with
    | .test => l.carried
    | .retest =>
      let before := l.stepRec (k - 1)
      min (retestCount (x.profile l (k - 1)) before) (before.input - l.carried)

/-- R11: what the lot record holds as step `k` opens with an input. -/
def LotRec.openStep (l : LotRec) (k input clock : Nat) : LotRec :=
  { l.modStep k (fun r => { r with state := .opened, input := input }) with
    state := .active, stepIndex := some k, remaining := input, openSublots := 0, queuedAt := clock }

/-- R11, R15: opens step `k`. A step of input 0 closes at once and the next one opens; `n` bounds how many
more may, and a route of 6 steps has 5 after its first. -/
def Bay.openStep (x : Ctx) : Nat → Bay → LotNo → Nat → Bay
  | n, b, h, k =>
    let input := x.stepInput (b.lot h) k
    let b := b.modLot h fun l => l.openStep k input x.clock
    if input = 0 then
      let b := b.modLot h fun l => (l.modStep k fun r => { r with closeEvaluated := true }).closeStep k
      if k < (b.lot h).route.length then
        match n with
        | 0 => b
        | n + 1 => Bay.openStep x n b h (k + 1)
      else b.completeLot x h
    else
      let program := ((b.lot h).routeStep k).program
      if (x.tables.entryOf program).isNone then b.raiseEntry x h .program .program (.program program none)
      else b.joinQueue x h

/-- R12: the open step advances. -/
def Bay.advance (x : Ctx) (b : Bay) (h : LotNo) : Bay :=
  let k := (b.lot h).openIndex
  let b := b.modLot h fun l => l.closeStep k
  if k < (b.lot h).route.length then Bay.openStep x 5 b h (k + 1) else b.completeLot x h

/-! ### The step-close evaluation (R147 to R150) -/

/-- R148 to R150: the kinds an evaluation raises, in their order. -/
def closingRaises (p : GateProfile) (r : StepRec) : List (HoldKind × HoldOrigin × HoldDetail) :=
  let count := match lossDetail p r with
    | some d => [(HoldKind.count, HoldOrigin.count, d)]
    | none => []
  let yield :=
    if !r.waivers.yield && decide (0 < r.tested) && yieldFails p r then
      [(HoldKind.yield, HoldOrigin.gate, HoldDetail.yield r.tested r.good (reportedYield r.good r.tested))]
    else []
  let bin :=
    if !r.waivers.bin && decide (0 < r.tested) then
      match failingBin p r with
      | some k => [(HoldKind.bin, HoldOrigin.gate, HoldDetail.bin k)]
      | none => []
    else []
  count ++ yield ++ bin

/-- R147, R150: the step-close evaluation of a lot in CLOSING, or HELD with saved state CLOSING. -/
def Bay.evaluate (x : Ctx) (b : Bay) (h : LotNo) : Bay :=
  let l := b.lot h
  let k := l.openIndex
  let raises := closingRaises (x.profile l k) (l.stepRec k)
  let b := raises.foldl (fun b r => b.raiseEntry x h r.1 r.2.1 r.2.2) b
  let b := b.modLot h fun l => l.modStep k fun r => { r with closeEvaluated := true }
  if l.state = .closing ∧ raises = [] then b.advance x h else b

/-! ### Assignments and the return of quantity (R29, R73) -/

/-- R29: a cell's assignment is removed and its lot's open sublot count decreased by one. -/
def Bay.dropAssignment (b : Bay) (c : CellNo) : Bay :=
  match (b.cell c).assignment with
  | none => b
  | some a =>
    (b.modCell c fun r => { r with assignment := none }).modLot a.lot fun l => { l with openSublots := l.openSublots - 1 }

/-- Whether a lot's open step may still be evaluated (R147). -/
def LotRec.unevaluated (l : LotRec) : Bool := !(l.stepRec l.openIndex).closeEvaluated

/-- R73, Table 3-3: an amount returns to a lot whose open sublot count has been decreased. -/
def Bay.giveBack (x : Ctx) (b : Bay) (h : LotNo) (amount : Nat) : Bay :=
  let b := b.modLot h fun l => { l with remaining := l.remaining + amount }
  let l := b.lot h
  match l.state with
  | .active => if 0 < l.remaining then b.matchLot x h else b
  | .closing =>
    if 0 < l.remaining then (b.modLot h fun l => { l with state := .active }).joinQueue x h
    else if l.openSublots = 0 ∧ l.unevaluated then b.evaluate x h
    else b
  | .held =>
    if l.saved = some .closing then
      if 0 < l.remaining then b.modLot h fun l => { l with saved := some .active }
      else if l.openSublots = 0 ∧ l.unevaluated then b.evaluate x h
      else b
    else b
  | .aborting => if l.openSublots = 0 then b.modLot h fun l => { l with state := .aborted } else b
  | _ => b

/-- R73: an assignment removed before its TAKE: the whole sublot quantity returns. -/
def Bay.returnSublot (x : Ctx) (b : Bay) (c : CellNo) : Bay :=
  match (b.cell c).assignment with
  | none => b
  | some a => (b.dropAssignment c).giveBack x a.lot a.qty

/-- R35, R41, R67, R70, R81, R127: an open offer is withdrawn: the deadline is cancelled, the cell takes its new
state, the withdrawal is due, the assignment is removed and the quantity returned. -/
def Bay.withdrawOffer (x : Ctx) (b : Bay) (c : CellNo) (after : CellState) : Bay :=
  let b := b.modCell c fun r => { r with state := after, offerDeadline := none }
  match (b.cell c).assignment with
  | none => b
  | some a => (b.withdrawDue c a.id (some a.lot)).returnSublot x c

end Sys2Proof.Machine
end

