-- ==== Sys2Proof/Machine/Holds.lean ====
section
/-!
DEFINITION. Holds (chapter 6) and load outcomes (R83, R94 to R99): the raise of a kind and what it does to the
lot's cells (R125 to R129), the restore of a saved state (R8, R137), the failure of a load and of a channel.
-/

namespace Sys2Proof.Machine

/-- Cells that an event made IDLE run their cell-initiated matches, in the order given (R61, R126). -/
def Bay.matchCells (x : Ctx) (b : Bay) (cs : List CellNo) : Bay := cs.foldl (fun b c => b.matchCell x c) b

/-- R129: PAUSE for a RUNNING cell's sublot becomes due; the stall deadline is cancelled. -/
def Bay.pauseDue (b : Bay) (c : CellNo) : Bay :=
  match (b.cell c).assignment with
  | none => b
  | some a =>
    b.modCell c fun r =>
      { r with commands := placePause r.commands a.id a.lot, pause := .sent, stallDeadline := none }

/-- R126 to R128: what a raise does to one cell; the list gathers the cells it made IDLE, last first. -/
def Bay.holdCell (x : Ctx) (h : LotNo) (acc : Bay × List CellNo) (c : CellNo) : Bay × List CellNo :=
  let (b, freed) := acc
  let r := b.cell c
  if r.assignment.any (·.lot = h) then
    match r.state with
    | .offered => (b.withdrawOffer x c .idle, c :: freed)
    | .loading => (b.returnSublot x c, freed)
    | .running => if r.pause = .none then (b.pauseDue c, freed) else (b, freed)
    | _ => (b, freed)
  else (b, freed)

/-- R125, R126: a raise of a kind on a lot. -/
def Bay.raise (x : Ctx) (b : Bay) (h : LotNo) (kind : HoldKind) (origin : HoldOrigin) (detail : HoldDetail) : Bay :=
  if (b.lot h).state.holdable then
    let (b, freed) := allCells.foldl (Bay.holdCell x h) (b.raiseEntry x h kind origin detail, [])
    b.matchCells x freed.reverse
  else b

/-- R137, item 1: RESUME for each RUNNING cell of a lot whose pause state is not NONE. -/
def Bay.resumeCell (x : Ctx) (h : LotNo) (b : Bay) (c : CellNo) : Bay :=
  let r := b.cell c
  match r.assignment with
  | none => b
  | some a =>
    if a.lot = h ∧ r.state = .running ∧ r.pause ≠ .none then
      (b.modCell c fun r => { r with commands := placeResume r.commands a.id a.lot, pause := .none }).armStall x c
    else b

/-- R8, R137: the last entry has left a HELD lot's set: the saved state is restored and acts at once. -/
def Bay.restoreLot (x : Ctx) (b : Bay) (h : LotNo) : Bay :=
  let l := b.lot h
  match l.saved with
  | none => b
  | some .active =>
    let b := b.modLot h fun l => { l with state := .active, saved := none }
    let b := allCells.foldl (Bay.resumeCell x h) b
    if 0 < l.remaining then b.joinQueue x h else b
  | some .closing =>
    let b := b.modLot h fun l => { l with state := .closing, saved := none }
    if l.unevaluated then allCells.foldl (Bay.resumeCell x h) b else b.advance x h
  | some .complete => (b.modLot h fun l => { l with saved := none }).completeLot x h

/-! ### Loads that end (R83, R96 to R99) -/

/-- R83: a load under the assignment a cell holds (a retry, R98, or a fresh load, R97). An id with no entry ends
the work: the cell becomes IDLE, the quantity returns and the cell's match runs. -/
def Bay.reload (x : Ctx) (b : Bay) (c : CellNo) (program : Half) : Bay :=
  match x.tables.entryOf program with
  | some e => b.startLoad x c e
  | none => ((b.modCell c fun r => { r with state := .idle }).returnSublot x c).matchCell x c

/-- R99: a cell joins the failed-cell set of a step; a third or later member raises PROGRAM. -/
def Bay.addFailedCell (x : Ctx) (b : Bay) (h : LotNo) (k : Nat) (c : CellNo) : Bay :=
  let set := ((b.lot h).stepRec k).failedCells
  if c ∈ set then b
  else
    let b := b.modLot h fun l => l.modStep k fun r => { r with failedCells := r.failedCells ++ [c] }
    let program := ((b.lot h).routeStep k).program
    if 3 ≤ set.length + 1 then b.raise x h .program .program (.program program none) else b

/-- R98, item 3: what becomes of the cell, its load record ended and its failure counted. -/
def Bay.afterFailure (x : Ctx) (b : Bay) (c : CellNo) : Bay :=
  let r := b.cell c
  if 2 ≤ r.loadFailures then (b.modCell c fun r => { r with state := .faulted }).returnSublot x c
  else
    match r.assignment with
    | some a => b.reload x c ((b.lot a.lot).routeStep a.step).program
    | none => (b.modCell c fun r => { r with state := .idle }).matchCell x c

/-- R98: a cell's load fails. DESIGN CHOICE, notes/assumptions/38.md: a cell that had two failures already, kept over a
link loss, keeps the count of 2 and is FAULTED again. -/
def Bay.loadFails (x : Ctx) (b : Bay) (c : CellNo) : Bay :=
  match (b.cell c).load with
  | none => b
  | some _ =>
    let held := (b.cell c).assignment
    let b := (b.abandonLoad x c).modCell c fun r => { r with loadFailures := min (r.loadFailures + 1) 2 }
    let b := b.afterFailure x c
    match held with
    | some a => b.addFailedCell x a.lot a.step c
    | none => b

/-- R96, R97: a load is good. -/
def Bay.loadGood (x : Ctx) (b : Bay) (c : CellNo) : Bay :=
  match (b.cell c).load with
  | none => b
  | some ld =>
    let current := (x.tables.entryOf ld.image.program).any (·.revision = ld.image.revision)
    let b := (b.leaveLists x c).modCell c fun r =>
      { r with
        loadFailures := 0, load := none
        slots := r.slots.set ld.slot
          { r.slots[ld.slot] with state := if current then .resident else .stale, lastUse := x.clock } }
    match (b.cell c).assignment with
    | some a =>
      if current then b.makeOffer x c ld.slot
      else b.reload x c ((b.lot a.lot).routeStep a.step).program
    | none => (b.modCell c fun r => { r with state := .idle }).matchCell x c

/-- R94: a channel faults. -/
def Bay.channelFault (x : Ctx) (b : Bay) (k : ChanNo) (cause : FaultCause) : Bay :=
  let ch := b.chan k
  let b := b.modChan k fun ch => { ch with faults := bump16 ch.faults, lastFault := some cause }
  let b := b.goIdle x k
  let b := ch.targets.foldl (fun b t => b.loadFails x t.cell) b
  ch.nextRound.foldl (fun b e => b.placeLoad x e.1) b

/-- R94, R95: the expiry of a channel's pull deadline: a fault, or the end of draining. -/
def Bay.pullExpiry (x : Ctx) (b : Bay) (k : ChanNo) : Bay :=
  if (b.chan k).state = .draining then
    (b.modChan k fun ch => { ch with pull := none, slotHeld := false }).roundEnd x k
  else b.channelFault x k .timeout

end Sys2Proof.Machine
end

