-- ==== Sys2Proof/Machine/CellEffects.lean ====
section
/-!
DEFINITION. What a taken cell frame does to the records: READY, TAKE, DECLINE, PAUSED, STATE (chapters 2 and 3),
UNIT with its counting and gate checks (chapter 5), TALLY and the close of a sublot (chapter 7), LOADED and
TSTATE (chapter 4), and the loss of a cell's link (R48, R49).
-/

namespace Sys2Proof.Machine

/-! ### READY (R32, R33) -/

/-- R32: the capability a READY reports, its site count clamped to 8. -/
def CellRec.capable (r : CellRec) (kit : Byte) (temp : TempClass) (sites : Byte) : CellRec :=
  { r with kit := kit, temp := some temp, sites := some (min sites.toNat 8) }

/-- READY taken on a cell. -/
def Bay.readyFrame (x : Ctx) (b : Bay) (c : CellNo) (kit temp sites : Byte) : Bay :=
  match tempOf temp with
  | none => b.protocolError c
  | some t =>
    if sites = 0#8 then b.protocolError c
    else
      match (b.cell c).state with
      | .loading => b.protocolError c
      | .offered => b.protocolError c
      | .running => b.protocolError c
      | .claimed => b.modCell c fun r => r.capable kit t sites
      | .faulted => b.modCell c fun r => r.capable kit t sites
      | _ =>
        ((b.modCell c fun r => { r.capable kit t sites with state := .idle }).matchCell x c).modCell c
          fun r => { r with excluded := none }

/-! ### Replies to an offer (R68, R69, R71) -/

/-- R71: a late reply. Its WITHDRAW carries the handle of the sublot it names, where any cell holds that sublot
(R200). -/
def Bay.lateReply (b : Bay) (c : CellNo) (id : Half) : Bay :=
  let r := b.cell c
  if r.state = .running ∧ r.assignment.any (·.id = id) then b.protocolError c else b.withdrawDue c id (b.sublotLot id)

/-- The assignment of an OFFERED cell whose offer carries a sublot id. -/
def CellRec.openOffer (r : CellRec) (id : Half) : Option Assignment :=
  if r.state = .offered then r.assignment.filter (·.id = id) else none

/-- R68, item 3: an assignment as the cell takes it. -/
def Assignment.zeroed (a : Assignment) : Assignment :=
  { a with units := 0, bins := Vector.replicate 16 0, sites := Vector.replicate 8 {} }

/-- TAKE taken on a cell. -/
def Bay.takeFrame (x : Ctx) (b : Bay) (c : CellNo) (id : Half) : Bay :=
  match (b.cell c).openOffer id with
  | none => b.lateReply c id
  | some a =>
    let b := b.modCell c fun r =>
      { r with state := .running, pause := .none, offerDeadline := none, assignment := some a.zeroed }
    let b := match a.slot with
      | some k => b.modSlot c k fun s => { s with lastUse := x.clock }
      | none => b
    b.armStall x c

/-- DECLINE taken on a cell. -/
def Bay.declineFrame (x : Ctx) (b : Bay) (c : CellNo) (id : Half) : Bay :=
  match (b.cell c).openOffer id with
  | none => b.lateReply c id
  | some a =>
    (b.modCell c fun r =>
      { r with
        state := .notReady, offerDeadline := none, excluded := some a.lot
        counters := { r.counters with declines := bump16 r.counters.declines } }).returnSublot x c

/-! ### PAUSED (R39) -/

/-- PAUSED taken on a cell. -/
def Bay.pausedFrame (b : Bay) (c : CellNo) (id : Half) : Bay :=
  let r := b.cell c
  if r.state = .running ∧ r.assignment.any (·.id = id) then
    if r.pause = .sent then b.modCell c fun r => { r with pause := .paused } else b
  else b.protocolError c

/-! ### STATE (R34 to R38) and claims (R40, R41) -/

/-- R36, R41: a LOADING cell leaves its load, takes its new state, and its assignment's quantity returns. -/
def Bay.leaveLoading (x : Ctx) (b : Bay) (c : CellNo) (after : CellState) : Bay :=
  ((b.modCell c fun r => { r with state := after }).abandonLoad x c).returnSublot x c

/-- R35 to R37: a local takeover. -/
def Bay.takeover (x : Ctx) (b : Bay) (c : CellNo) : Bay :=
  match (b.cell c).state with
  | .offline => b.modCell c fun r => { r with state := .localMode }
  | .notReady => b.modCell c fun r => { r with state := .localMode }
  | .idle => b.modCell c fun r => { r with state := .localMode }
  | .offered => b.withdrawOffer x c .localMode
  | .loading => b.leaveLoading x c .localMode
  | .running => b.modCell c fun r => { r with localPending := true }
  | .localMode => b
  | .claimed => b
  | .faulted => b

/-- R38: STATE REMOTE. -/
def Bay.remote (b : Bay) (c : CellNo) : Bay :=
  match (b.cell c).state with
  | .localMode => b.modCell c fun r => { r with state := .notReady }
  | .running => b.modCell c fun r => { r with localPending := false }
  | _ => b

/-- STATE taken on a cell. -/
def Bay.stateFrame (x : Ctx) (b : Bay) (c : CellNo) (mode : Byte) (alarm : Half) : Bay :=
  let b := b.modCell c fun r => { r with alarm := alarm }
  match mode.toNat with
  | 0 => b.takeover x c
  | 1 => b.remote c
  | _ => b.protocolError c

/-- R40, R41: CELL.CLAIM on a cell. -/
def Bay.claim (x : Ctx) (b : Bay) (c : CellNo) : Bay :=
  match (b.cell c).state with
  | .offered => b.withdrawOffer x c .claimed
  | .loading => b.leaveLoading x c .claimed
  | .running =>
    if (b.cell c).claimPending then b else (b.modCell c fun r => { r with claimPending := true }).finishDue c
  | _ => b.modCell c fun r => { r with state := .claimed }

/-! ### UNIT (chapter 5) -/

/-- R107: whether a step count the unit would increase has saturated. -/
def countsFull (r : StepRec) (bin : BinNo) (good : Bool) : Bool :=
  decide (Config.max24 ≤ r.tested) || decide (Config.max24 ≤ r.bins[bin]) || (good && decide (Config.max24 ≤ r.good))

/-- R106: the step record after a counted unit. -/
def StepRec.counted (r : StepRec) (bin : BinNo) (good : Bool) : StepRec :=
  { r with
    tested := bump24 r.tested, bins := r.bins.set bin (bump24 r.bins[bin])
    good := if good then bump24 r.good else r.good }

/-- R106: the tally of the unit's site after a counted unit. -/
def SiteTally.counted (t : SiteTally) (good : Bool) : SiteTally :=
  { tested := bump24 t.tested, good := if good then bump24 t.good else t.good
    run := if good then 0 else satSucc Config.max8 t.run }

/-- R106: the assignment after a counted unit. -/
def Assignment.counted (a : Assignment) (site : SiteNo) (bin : BinNo) (good : Bool) : Assignment :=
  { a with
    units := bump24 a.units, bins := a.bins.set bin (bump24 a.bins[bin])
    sites := a.sites.set site (a.sites[site].counted good) }

/-- R108: the unit that brings a sublot's counted units to its quantity finishes it. -/
def Bay.finishSublot (b : Bay) (c : CellNo) (p : GateProfile) : Bay :=
  match (b.cell c).assignment with
  | none => b
  | some a =>
    if a.units = a.qty then
      match p.finish with
      | .auto => b.finishDue c
      | .notify => b.owe (.cellState c)
    else b

/-- R44, R109: a counted unit clears the stalled mark and moves an armed stall deadline. -/
def Bay.stallWatch (x : Ctx) (b : Bay) (c : CellNo) : Bay :=
  let armed := (b.cell c).stallDeadline.isSome
  let b := b.modCell c fun r => { r with stalled := false }
  if armed then b.armStall x c else b

/-- R110 to R115, R121: the kinds a counted unit raises, in the order the checks are made. -/
def unitRaises (p : GateProfile) (r : StepRec) (c : CellNo) (siteCount : Nat) (a : Assignment) (site : SiteNo) :
    List (HoldKind × HoldDetail) :=
  let sampled := decide (p.minSample ≤ r.tested)
  let yield :=
    if sampled && !r.waivers.yield && yieldFails p r then
      [(HoldKind.yield, HoldDetail.yield r.tested r.good (reportedYield r.good r.tested))]
    else []
  let bin :=
    if sampled && !r.waivers.bin then
      match failingBin p r with
      | some k => [(HoldKind.bin, HoldDetail.bin k)]
      | none => []
    else []
  let spread :=
    if r.waivers.site then []
    else
      match siteFails p siteCount a.sites with
      | some (hi, lo) => [(HoldKind.site, HoldDetail.site c hi.1 lo.1 hi.2 lo.2)]
      | none => []
  let run :=
    if !r.waivers.run && runFails p a.sites[site].run then [(HoldKind.run, HoldDetail.run c site)] else []
  yield ++ bin ++ spread ++ run

/-- R110: the states in which a counted unit is gated. -/
def LotState.gated : LotState → Bool
  | .active => true
  | .closing => true
  | .held => true
  | _ => false

/-- R110, R115: the gate checks of a counted unit and the holds they raise. A failing RUN sets the suspect mark, DESIGN
CHOICE, notes/assumptions/40.md: ahead of every raise of the unit. -/
def Bay.gateUnit (x : Ctx) (b : Bay) (c : CellNo) (site : SiteNo) : Bay :=
  match (b.cell c).assignment with
  | none => b
  | some a =>
    let l := b.lot a.lot
    if l.state.gated then
      let raises :=
        unitRaises (x.profile l a.step) (l.stepRec a.step) c ((b.cell c).sites.getD 0) a site
      let b := if raises.any (·.1 = .run) then b.modCell c fun r => { r with suspect := true } else b
      raises.foldl (fun b r => b.raise x a.lot r.1 .gate r.2) b
    else b

/-- R106, R109: a counted unit. -/
def Bay.countUnit (x : Ctx) (b : Bay) (c : CellNo) (a : Assignment) (site : SiteNo) (bin : BinNo) : Bay :=
  let p := x.profile (b.lot a.lot) a.step
  let good := inBins p.goodBins bin
  let b := b.modLot a.lot fun l => l.modStep a.step fun r => r.counted bin good
  let b := b.modAssignment c fun a => a.counted site bin good
  let b := b.finishSublot c p
  let b := b.stallWatch x c
  b.gateUnit x c site

/-- R104: the assignment and the site that a unit result matches. -/
def CellRec.unitMatch (r : CellRec) (id : Half) (site : Byte) : Option (Assignment × SiteNo) :=
  match r.assignment, indexOf 8 site with
  | some a, some s =>
    if r.state = .running ∧ a.id = id ∧ site.toNat < r.sites.getD 0 then some (a, s) else none
  | _, _ => none

/-- UNIT taken on a cell. -/
def Bay.unitFrame (x : Ctx) (b : Bay) (c : CellNo) (id : Half) (site bin : Byte) : Bay :=
  match (b.cell c).unitMatch id site with
  | none => b.countCell c fun k => { k with strays := bump16 k.strays }
  | some (a, s) =>
    let l := b.lot a.lot
    let good := inBins (x.profile l a.step).goodBins (binOf bin)
    if countsFull (l.stepRec a.step) (binOf bin) good then b.raise x a.lot .count .count (.saturated c)
    else b.countUnit x c a s (binOf bin)

/-! ### TALLY (chapter 7) and the close of a sublot (R47) -/

/-- R47: the next state of a cell whose sublot closes by TALLY. -/
def CellRec.afterClose (r : CellRec) : CellState :=
  if r.claimPending then .claimed
  else if r.localPending then .localMode
  else if r.suspect ∨ r.stallFinish then .faulted
  else .idle

/-- R47: the close of a cell's sublot at the cell. -/
def Bay.closeSublot (b : Bay) (c : CellNo) (after : CellState) : Bay :=
  ((b.modCell c fun r =>
    { r with
      state := after, pause := .none, stallDeadline := none
      localPending := false, claimPending := false, stalled := false, stallFinish := false }).dropAssignment c).owe
    (.cellState c)

/-- R82: at a TALLY the slot of the closing assignment becomes EMPTY if its program carries NO_RETAIN. -/
def Bay.dropUnretained (x : Ctx) (b : Bay) (c : CellNo) (a : Assignment) : Bay :=
  match a.slot with
  | none => b
  | some k =>
    let s := (b.cell c).slots[k]
    match s.image with
    | none => b
    | some (program, _) =>
      if s.state ≠ .empty ∧ (x.tables.entryOf program).any (·.noRetain) then b.modSlot c k Slot.emptied else b

/-- R145: a closing TALLY, in its order. -/
def Bay.closingTally (x : Ctx) (b : Bay) (c : CellNo) (a : Assignment) (bins : Vector (BitVec 24) 16)
    (missing : BitVec 24) : Bay :=
  let fault := tallyFault (x.profile (b.lot a.lot) a.step) bins a.bins
  let b := b.modLot a.lot fun l => l.modStep a.step fun r => { r with missing := add24 r.missing missing.toNat }
  let b := b.modCell c fun r => { r with commands := r.commands.filter (!·.finishes a.id) }
  let b := b.dropUnretained x c a
  let after := (b.cell c).afterClose
  let b := b.closeSublot c after
  let b := match fault with
    | some k => b.raise x a.lot .tally .count (.tally c (some k))
    | none => b
  let b := b.giveBack x a.lot (a.qty - a.units)
  if after = .idle then b.matchCell x c else b

/-- TALLY taken on a cell (R141). -/
def Bay.tallyFrame (x : Ctx) (b : Bay) (c : CellNo) (id : Half) (bins : Vector (BitVec 24) 16)
    (missing : BitVec 24) : Bay :=
  let r := b.cell c
  match r.assignment with
  | none => b.protocolError c
  | some a => if r.state = .running ∧ a.id = id then b.closingTally x c a bins missing else b.protocolError c

/-! ### LOADED (R96) and TSTATE (R79 to R81) -/

/-- LOADED taken on a cell. -/
def Bay.loadedFrame (x : Ctx) (b : Bay) (c : CellNo) (program : Half) (revision slot result : Byte) : Bay :=
  let r := b.cell c
  match r.load with
  | none => b
  | some ld =>
    if r.state ≠ .loading then b
    else if slot.toNat ≠ ld.slot.val ∨ program ≠ ld.image.program ∨ revision ≠ ld.image.revision then b.protocolError c
    else if ld.place = .awaiting ∧ loadOk result then b.loadGood x c
    else b.loadFails x c

/-- R81: the slot named by a cell's assignment, which held `program`, has become EMPTY or ALTERED. -/
def Bay.slotLost (x : Ctx) (b : Bay) (c : CellNo) (program : Half) : Bay :=
  let r := b.cell c
  match r.assignment with
  | none => b
  | some a =>
    match r.state with
    | .offered => (b.withdrawOffer x c .idle).matchCell x c
    | .running => b.raise x a.lot .program .program (.program program (some c))
    | _ => b

/-- R79, R80: whether a load is being delivered or waits for its LOADED. -/
def LoadRec.delivering (ld : LoadRec) : Bool := ld.place = .target || ld.place = .awaiting

/-- R79, item 1; R80, LOADING row: a cell's load fails if it is being delivered. -/
def Bay.failDelivering (x : Ctx) (b : Bay) (c : CellNo) : Bay :=
  if (b.cell c).state = .loading ∧ (b.cell c).load.any (·.delivering) then b.loadFails x c else b

/-- R79: a slot that MEMORY_LOST empties. -/
def Slot.held (s : Slot) : Bool := s.state = .resident || s.state = .stale || s.state = .altered

/-- R79: TSTATE MEMORY_LOST. -/
def Bay.memoryLost (x : Ctx) (b : Bay) (c : CellNo) : Bay :=
  let b := b.failDelivering x c
  let r := b.cell c
  let lost := (r.assignment.bind (·.slot)).filter fun k => r.slots[k].held
  let b := b.modCell c fun r => { r with slots := r.slots.map fun s => if s.held then s.emptied else s }
  match lost with
  | none => b
  | some k => b.slotLost x c ((r.slots[k].image.map (·.1)).getD 0#16)

/-- R80: TSTATE ALTERED naming slot `k`. -/
def Bay.altered (x : Ctx) (b : Bay) (c : CellNo) (k : SlotNo) : Bay :=
  let r := b.cell c
  let s := r.slots[k]
  match s.state with
  | .loading => b.failDelivering x c
  | .resident | .stale =>
    let b := b.modSlot c k fun s => { s with state := .altered }
    if r.assignment.any (·.slot = some k) then b.slotLost x c ((s.image.map (·.1)).getD 0#16) else b
  | _ => b

/-- TSTATE taken on a cell. -/
def Bay.tstateFrame (x : Ctx) (b : Bay) (c : CellNo) (code slot : Byte) : Bay :=
  match code.toNat with
  | 1 => b.memoryLost x c
  | 2 =>
    match indexOf 4 slot with
    | some k => b.altered x c k
    | none => b.protocolError c
  | _ => b.protocolError c

/-! ### Any cell frame -/

/-- The effects of a cell frame, taken from a station of its cell: a handler kind from the tester station, or a
tester kind from the handler station, is a protocol error (R26). -/
def Bay.cellFrameEffect (x : Ctx) (b : Bay) (c : CellNo) (src : CellStation) (m : CellMsg) : Bay :=
  if m.kind.station ≠ src then b.protocolError c
  else
    match m with
    | .ready kit temp sites => b.readyFrame x c kit temp sites
    | .take id => b.takeFrame x c id
    | .decline id => b.declineFrame x c id
    | .unit id site bin _ => b.unitFrame x c id site bin
    | .tally id bins _ missing => b.tallyFrame x c id bins missing
    | .paused id => b.pausedFrame c id
    | .state mode alarm => b.stateFrame x c mode alarm
    | .loaded program revision slot result => b.loadedFrame x c program revision slot result
    | .tstate code slot => b.tstateFrame x c code slot

/-! ### Loss of a cell's link (R48, R49) -/

/-- R49: a RUNNING cell's sublot closed by link loss. -/
def Bay.lostSublot (x : Ctx) (b : Bay) (c : CellNo) (a : Assignment) : Bay :=
  let b := b.closeSublot c .offline
  let b := b.raise x a.lot .tally .count (.tally c none)
  b.giveBack x a.lot (a.qty - a.units)

/-- R48, items 1 and 2: the cell becomes OFFLINE and its offer, load or sublot ends.
DESIGN CHOICE (notes/assumptions/45.md): the CELL.STATE mark of item 6 is set with item 1's change of state (R31), ahead of a
LOT.STATE mark that item 2's return may set. -/
def Bay.endWork (x : Ctx) (b : Bay) (c : CellNo) : Bay :=
  let r := b.cell c
  let b := b.modCell c fun r => { r with state := .offline, offerDeadline := none }
  match r.state, r.assignment with
  | .offered, _ => b.returnSublot x c
  | .loading, _ => (b.abandonLoad x c).returnSublot x c
  | .running, some a => b.lostSublot x c a
  | _, _ => b

/-- R48: line-state loss as the cell record sees it. A loss on a cell already OFFLINE empties its command queue
and its slots and changes nothing else. -/
def Bay.linkLost (x : Ctx) (b : Bay) (c : CellNo) : Bay :=
  let wasOffline := (b.cell c).state = .offline
  let b := if wasOffline then b else b.endWork x c
  let b := b.modCell c fun r => { r with commands := [], slots := r.slots.map Slot.emptied }
  if wasOffline then b
  else
    (b.modCell c fun r =>
      { r with
        pause := .none, stallDeadline := none, localPending := false, claimPending := false
        stalled := false, stallFinish := false, excluded := none }).owe (.cellState c)

end Sys2Proof.Machine
end

