-- ==== Sys2Proof/Machine/Pool.lean ====
section
/-!
DEFINITION. The frame pool and the uplink queue (chapter 8): the three counts (R161), the uplink shares (R167),
the claims by class (R163), the placement of entries (R170, R171), eligibility of notices (R172), and which
pull or which held-off port may be served (R88 to R90, R168).
-/

namespace Sys2Proof.Machine

/-! ### Counts (R161, R167) -/

/-- The buffers that hold a frame: the uplink queue, the downlink queues and the segment queues (Table 8-1). -/
def State.occupied (s : State) : Nat :=
  s.link.uplink.length + (s.link.ports.toList.map fun p => p.downlink.length).sum
    + (s.bay.channels.toList.map fun ch => ch.segs.length).sum

/-- The buffers promised to segments of an outstanding pull that have not arrived. -/
def Channel.reserved (ch : Channel) : Nat :=
  match ch.pull with
  | some p => p.n - p.arrived
  | none => 0

/-- The reserved count. -/
def State.reserved (s : State) : Nat := (s.bay.channels.toList.map Channel.reserved).sum

/-- The free count. -/
def State.free (s : State) : Nat := Config.poolSize - (s.occupied + s.reserved)

/-- R167: the uplink share of a cell. -/
def State.share (s : State) (c : CellNo) : Nat := s.link.uplink.countP fun e => e.origin = .forwarded c

/-- R168: whether a port is held off. -/
def State.heldOff (s : State) (c : CellNo) : Bool := !s.link.ports[c].waiting.isEmpty

/-- The forwarding setting of a kind (R183). -/
def State.forwarding (s : State) (k : CellKind) : Forwarding := s.tables.forwarding[k.index]

/-- R163: whether the claim of a frame forwarded from cell port `c` would be granted. -/
def State.cellClaimGranted (s : State) (c : CellNo) : Bool :=
  decide (Config.noticeReserve < s.free ∧ s.share c < s.tables.settings.cellShareLimit)

/-- R163, R182: whether a through-frame copy for cell `c` would be made. -/
def State.copyGranted (s : State) (c : CellNo) : Bool :=
  s.link.ports[c].up && decide (Config.noticeReserve < s.free ∧ s.link.ports[c].downlink.length < Config.downlinkDepth)

/-! ### The uplink queue (R170, R171) -/

/-- Express entries: LOT.STATE and RELEASE notices. -/
def UpEntry.express (e : UpEntry) : Bool :=
  match e.origin with
  | .lotState _ => true
  | .release _ => true
  | _ => false

/-- R200: the lot handle an entry carries; a field outside 0 to 255 is taken as none. -/
def UpEntry.handle (e : UpEntry) : Option LotNo := lotOf e.frame.lot

/-- A normal entry joins the tail. -/
def State.pushUplink (s : State) (e : UpEntry) : State :=
  { s with link := { s.link with uplink := s.link.uplink ++ [e] } }

/-- R170, R174: whether the head entry is being sent, or was being sent when the line was lost. -/
def Link.headSending (l : Link) : Bool := (l.uplinkUp || l.headCut) && !l.uplink.isEmpty

/-- R171: the place of an express entry for a lot: after the last entry that is express or carries the handle,
and at the head (after the entry being sent) if there is none. -/
def Link.expressPlace (l : Link) (h : LotNo) : Nat :=
  let n := l.uplink.length - (l.uplink.reverse.takeWhile fun e => !(e.express || e.handle = some h)).length
  max n (if l.headSending then 1 else 0)

/-- R171: places an express entry for a lot. -/
def State.pushExpress (s : State) (h : LotNo) (e : UpEntry) : State :=
  let n := s.link.expressPlace h
  { s with link := { s.link with uplink := s.link.uplink.take n ++ e :: s.link.uplink.drop n } }

/-! ### Notices (R172) -/

/-- The uplink entry that a notice becomes. -/
def Notice.origin : Notice → Origin
  | .lotState h => .lotState h
  | .release h => .release h
  | .cellState c => .cellState c

/-- R172: no notice of the same kind for the same record is waiting in the uplink queue. -/
def State.eligible (s : State) (n : Notice) : Bool := !s.link.uplink.any (·.origin = n.origin)

/-- R172: the owed notice served next, a buffer being free. -/
def State.nextNotice (s : State) : Option Notice :=
  if 1 ≤ s.free then s.bay.notices.find? s.eligible else none

/-! ### Pulls (R88 to R90) -/

/-- R89: the size of a pull of a channel. -/
def State.pullSize (s : State) (k : ChanNo) : Nat :=
  min s.tables.settings.creditWindow (min (s.bay.chan k).current (s.free - s.tables.settings.loadWatermark))

/-- R88: a channel is waiting for a grant. -/
def Channel.waitingForGrant (ch : Channel) : Bool :=
  (ch.state = .gathering || ch.state = .pulling) && decide (0 < ch.current) && ch.pull.isNone && !ch.slotHeld
    && (ch.modeInForce ≠ .paced || ch.segs.isEmpty)

/-- R88: the pull slots held across the part. -/
def Bay.slotsHeld (b : Bay) : Nat := b.channels.toList.countP (·.slotHeld)

/-- R88, R192: the order in which the arbiter grants. -/
def State.grantOrder (s : State) : List ChanNo :=
  match s.tables.settings.grantOrder, s.bay.lastGranted with
  | .rotating, some k => allChans.drop (k.val + 1) ++ allChans.take (k.val + 1)
  | _, _ => allChans

/-- R88: the channel the arbiter grants next. -/
def State.nextGrant (s : State) : Option ChanNo :=
  if s.bay.slotsHeld < s.tables.settings.pullLimit then
    s.grantOrder.find? fun k => (s.bay.chan k).waitingForGrant && decide (1 ≤ s.pullSize k)
  else none

/-- R90: the WHOLE channel that keeps its slot and re-issues next, once its next pull has room.
DESIGN CHOICE (notes/assumptions/44.md): the room may also come from a write that lowers the load watermark, with no buffer
freed, and the channel then re-issues in the event of the write, before the arbiter grants. -/
def State.nextReissue (s : State) : Option ChanNo :=
  allChans.find? fun k =>
    let ch := s.bay.chan k
    ch.state = .pulling && ch.modeInForce = .whole && ch.slotHeld && ch.pull.isNone && decide (0 < ch.current)
      && decide (1 ≤ s.pullSize k)

/-! ### Held-off ports (R168) -/

/-- Whether an arrival is taken, or discarded, without a claim: a frame of an ABSORB kind (R166), or one that a
check refuses. -/
def State.takenFreely (s : State) : Arrival → Bool
  | .frame _ _ m => s.forwarding m.kind = .absorb
  | _ => true

/-- Whether the frame at the head of a held-off port would be taken now. -/
def State.portEligible (s : State) (c : CellNo) : Bool :=
  match s.link.ports[c].waiting with
  | [] => false
  | a :: _ => s.takenFreely a || s.cellClaimGranted c

/-- The ports in ascending number, starting after the pointer and wrapping from 31 to 0. -/
def Link.portOrder (l : Link) : List CellNo := allCells.drop (l.pointer.val + 1) ++ allCells.take (l.pointer.val + 1)

/-- Whether what stands at the head of a held-off port needs no claim, so that it is taken at once behind another
frame of that port (R168, R201). -/
def State.drainable (s : State) (c : CellNo) : Bool :=
  match s.link.ports[c].waiting with
  | [] => false
  | a :: _ => s.takenFreely a

/-- R168: the held-off port served next. A port whose last frame has just been taken (`drain`) is served first
while what stands at its head needs no claim. -/
def State.nextPort (s : State) (drain : Option CellNo) : Option CellNo :=
  drain.filter s.drainable <|> s.link.portOrder.find? s.portEligible

/-! ### Other shared updates -/

/-- Runs an operation on the records with the tables and clock of the state. -/
def State.onBay (s : State) (f : Ctx → Bay → Bay) : State := { s with bay := f s.ctx s.bay }

/-- Changes a cell port. -/
def State.modPort (s : State) (c : CellNo) (f : CellPort → CellPort) : State :=
  { s with link := { s.link with ports := s.link.ports.set c (f s.link.ports[c]) } }

/-- R180: one more uplink stray. -/
def State.stray (s : State) : State := { s with link := { s.link with strays := bump16 s.link.strays } }

/-- R9: an event of its own begins: no lot's stamp has been advanced in it. -/
def State.newEvent (s : State) : State := { s with bay := { s.bay with stamped := [] } }

end Sys2Proof.Machine
end

