-- ==== Sys2Proof/Machine/Readout.lean ====
section
/-!
DEFINITION. What the part sends: the codes of Table 11-2, the payloads of its notices, pulls and commands
(Tables 11-4, 11-5, 11-7, 11-14), the data of its responses (Tables 11-6, 11-9 to 11-16) and the frames that
carry them. A field that is absent is sent as 0 unless its table gives another value (section 11.6).
-/

namespace Sys2Proof.Machine

/-! ### Codes -/

/-- Lot state. -/
def LotState.code : LotState → Byte
  | .free => 0#8 | .defined => 1#8 | .active => 2#8 | .held => 3#8 | .closing => 4#8
  | .complete => 5#8 | .aborting => 6#8 | .aborted => 7#8 | .released => 8#8

/-- Saved state, 0xFF where absent. -/
def savedCode : Option SavedState → Byte
  | some .active => 2#8 | some .closing => 4#8 | some .complete => 5#8 | none => 0xFF#8

/-- Temperature class. -/
def tempCode : TempClass → Byte
  | .cold => 0#8 | .room => 1#8 | .hot => 2#8

/-- Step kind. -/
def stepKindCode : StepKind → Byte
  | .test => 0#8 | .retest => 1#8

/-- Step state. -/
def StepState.code : StepState → Byte
  | .pending => 0#8 | .opened => 1#8 | .closed => 2#8

/-- Release policy. -/
def policyCode : ReleasePolicy → Byte
  | .manual => 0#8 | .auto => 1#8

/-- Dispatch class. -/
def DispatchClass.code : DispatchClass → Byte
  | .normal => 0#8 | .expedited => 1#8

/-- Hold kind: 0 none, then by priority. -/
def HoldKind.code (k : HoldKind) : Byte := BitVec.ofNat 8 k.priority

/-- The leading hold, 0 where absent. -/
def leadingCode (l : LotRec) : Byte := (l.leading.map HoldKind.code).getD 0#8

/-- Hold origin. -/
def HoldOrigin.code : HoldOrigin → Byte
  | .gate => 0#8 | .count => 1#8 | .program => 2#8 | .floor => 3#8

/-- Cell state. -/
def CellState.code : CellState → Byte
  | .offline => 0#8 | .notReady => 1#8 | .idle => 2#8 | .loading => 3#8 | .offered => 4#8
  | .running => 5#8 | .localMode => 6#8 | .claimed => 7#8 | .faulted => 8#8

/-- Pause state. -/
def PauseState.code : PauseState → Byte
  | .none => 0#8 | .sent => 1#8 | .paused => 2#8

/-- Stall choice. -/
def StallChoice.code : StallChoice → Byte
  | .off => 0#8 | .s120 => 1#8 | .s300 => 2#8 | .s900 => 3#8

/-- Finish mode. -/
def FinishMode.code : FinishMode → Byte
  | .auto => 0#8 | .notify => 1#8

/-- Channel mode. -/
def ChannelMode.code : ChannelMode → Byte
  | .whole => 0#8 | .burst => 1#8 | .paced => 2#8

/-- Channel round. -/
def ChannelRound.code : ChannelRound → Byte
  | .single => 0#8 | .rolling => 1#8

/-- Channel state. -/
def ChannelState.code : ChannelState → Byte
  | .idle => 0#8 | .gathering => 1#8 | .pulling => 2#8 | .draining => 3#8

/-- Last fault cause. -/
def faultCode : Option FaultCause → Byte
  | none => 0#8 | some .sequence => 1#8 | some .timeout => 2#8

/-- Residency slot state. -/
def SlotState.code : SlotState → Byte
  | .empty => 0#8 | .loading => 1#8 | .resident => 2#8 | .stale => 3#8 | .altered => 4#8

/-- Rotation mode and grant order. -/
def Turning.code : Turning → Nat
  | .rotating => 0 | .fixed => 1

/-- Forwarding setting. -/
def forwardingByte : Forwarding → Byte
  | .forward => 0#8 | .absorb => 1#8

/-- Reset cause. -/
def ResetCause.code : ResetCause → Byte
  | .power => 0#8 | .restart => 1#8

/-- Table 10-1: the response statuses. -/
inductive Status where
  | done | state | stale | notHeld | full | unknown | empty
  deriving DecidableEq, Repr

/-- Response status. -/
def Status.code : Status → Byte
  | .done => 0#8 | .state => 1#8 | .stale => 2#8 | .notHeld => 3#8 | .full => 4#8 | .unknown => 5#8 | .empty => 6#8

/-- A flag or mark byte. -/
def flagByte (f : Bool) : Byte := if f then 1#8 else 0#8

/-- A field of exactly `n` bytes: its bytes, 0 beyond them. -/
def padTo (n : Nat) (bs : List Byte) : List Byte := (bs ++ List.replicate n 0#8).take n

/-- A fixed-size list of `n` slots of `w` bytes, 0 beyond the entries it holds. -/
def slotsOf (n w : Nat) (entries : List (List Byte)) : List Byte := padTo (n * w) entries.flatten

/-- A set of cells or cell ports: four bytes, bit c for cell c. -/
def cellSet (f : CellNo → Bool) : List Byte :=
  beBytes 4 ((allCells.map fun c => if f c then 2 ^ c.val else 0).sum)

/-- A waiver set: bit 0 YIELD, bit 1 BIN, bit 2 SITE, bit 3 RUN. -/
def Waivers.byte (w : Waivers) : Byte :=
  BitVec.ofNat 8 (w.yield.toNat + 2 * w.bin.toNat + 4 * w.site.toNat + 8 * w.run.toNat)

/-! ### Lots -/

/-- Table 11-7: the release record. -/
def releaseBytes (r : ReleaseRecord) : List Byte :=
  bytes32 r.number ++ beBytes 1 r.lot.val ++ beBytes 1 r.name.length ++ padTo 16 r.name ++ beBytes 3 r.shipped
    ++ beBytes 6 r.time ++ beBytes 1 r.steps.length
    ++ r.steps.flatMap fun t => beBytes 3 t.input ++ beBytes 3 t.good ++ signedBytes 4 t.loss ++ beBytes 3 t.missing

/-- Table 11-5: the LOT.STATE payload. -/
def lotStateBytes (l : LotRec) : List Byte :=
  beBytes 1 l.name.length ++ padTo 16 l.name
    ++ [l.state.code, savedCode l.saved, l.cls.code] ++ beBytes 1 l.openIndex ++ [leadingCode l] ++ bytes32 l.stamp

/-- Table 11-8: a route step laid out as in LOT.DEFINE. -/
def routeStepBytes (t : RouteStep) : List Byte :=
  [stepKindCode t.kind, tempCode t.temp, t.kit] ++ bytes16 t.program ++ beBytes 1 t.profile.val ++ beBytes 1 t.minSites

/-- Table 11-12: a step record of 73 bytes. -/
def stepRecBytes (r : StepRec) : List Byte :=
  [r.state.code] ++ beBytes 3 r.input ++ beBytes 3 r.tested ++ beBytes 3 r.good
    ++ r.bins.toList.flatMap (beBytes 3) ++ beBytes 3 r.missing ++ signedBytes 4 r.loss
    ++ beBytes 2 (reportedYield r.good r.tested) ++ [r.waivers.byte] ++ cellSet (fun c => r.failedCells.contains c)
    ++ [flagByte r.closeEvaluated]

/-- Table 11-13: a hold detail. -/
def HoldDetail.bytes (d : HoldDetail) : List Byte :=
  padTo 8 <|
    match d with
    | .word w => bytes32 w
    | .program id cell => bytes16 id ++ [(cell.map fun c => BitVec.ofNat 8 c.val).getD 0xFF#8]
    | .saturated cell => 0#8 :: beBytes 1 cell.val
    | .loss units => [1#8, 0xFF#8] ++ beBytes 3 units
    | .surplus units => [2#8, 0xFF#8] ++ beBytes 3 units
    | .tally cell b => beBytes 1 cell.val ++ [(b.map fun k => BitVec.ofNat 8 k.val).getD 0xFF#8]
    | .run cell k => beBytes 1 cell.val ++ beBytes 1 k.val
    | .site cell high low highYield lowYield =>
        beBytes 1 cell.val ++ beBytes 1 high.val ++ beBytes 1 low.val ++ beBytes 2 highYield ++ beBytes 2 lowYield
    | .bin b => beBytes 1 b.val
    | .yield tested good reported => beBytes 3 tested ++ beBytes 3 good ++ beBytes 2 reported

/-- A hold entry of 18 bytes. -/
def HoldEntry.bytes (e : HoldEntry) : List Byte :=
  [e.kind.code, e.origin.code] ++ beBytes 6 e.raisedAt ++ beBytes 1 e.stepIndex ++ beBytes 1 e.occurrences
    ++ e.detail.bytes

/-- Table 11-11, presence byte. -/
def LotRec.presence (l : LotRec) : Byte :=
  BitVec.ofNat 8 ((decide (l.state ≠ .free)).toNat + 2 * l.saved.isSome.toNat + 4 * l.stepIndex.isSome.toNat
    + 8 * l.completedAt.isSome.toNat + 16 * l.release.isSome.toNat)

/-- Table 11-11: the LOT.READ data, 792 bytes. -/
def lotReadBytes (l : LotRec) : List Byte :=
  [l.presence, l.state.code, savedCode l.saved] ++ beBytes 1 l.name.length ++ padTo 16 l.name
    ++ [policyCode l.policy, l.cls.code] ++ beBytes 1 l.openIndex
    ++ beBytes 3 l.startQty ++ beBytes 3 l.carried ++ beBytes 3 l.remaining ++ beBytes 1 l.openSublots
    ++ beBytes 6 l.queuedAt ++ beBytes 6 (l.completedAt.getD 0) ++ beBytes 6 (l.quarantine.getD 0)
    ++ bytes32 l.stamp ++ [leadingCode l] ++ beBytes 1 l.route.length
    ++ slotsOf 6 7 (l.route.map routeStepBytes) ++ slotsOf 6 73 (l.steps.map stepRecBytes)
    ++ beBytes 1 l.holds.length ++ slotsOf 8 18 (l.holds.map HoldEntry.bytes)
    ++ padTo 110 ((l.release.map releaseBytes).getD [])

/-! ### Cells -/

/-- Table 11-14: the CELL.STATE payload, 20 bytes. -/
def cellStateBytes (c : CellNo) (r : CellRec) : List Byte :=
  let marks := r.localPending.toNat + 2 * r.claimPending.toNat + 4 * r.suspect.toNat + 8 * r.stalled.toNat
    + 16 * r.stallFinish.toNat
  beBytes 1 c.val ++ [r.state.code, r.kit, (r.temp.map tempCode).getD 0xFF#8] ++ beBytes 1 (r.sites.getD 0)
    ++ bytes16 r.alarm ++ [r.pause.code] ++ beBytes 1 marks ++ beBytes 1 r.loadFailures
    ++ match r.assignment with
      | some a => 1#8 :: beBytes 1 a.step ++ bytes16 a.id ++ beBytes 2 a.qty ++ beBytes 3 a.units ++ [flagByte a.finishSent]
      | none => List.replicate 10 0#8

/-- One site tally of Table 11-15, 9 bytes. -/
def siteBytes (t : SiteTally) : List Byte :=
  beBytes 3 t.tested ++ beBytes 3 t.good ++ beBytes 1 t.run ++ beBytes 2 (siteYield t)

/-- One residency slot of Table 11-15, 10 bytes. -/
def slotBytes (s : Slot) : List Byte :=
  [s.state.code] ++ bytes16 ((s.image.map (·.1)).getD 0#16) ++ [(s.image.map (·.2)).getD 0#8] ++ beBytes 6 s.lastUse

/-- A lot handle field: the handle, or 0xFFFF for none. -/
def handleField (h : Option LotNo) : Half := (h.map fun h => BitVec.ofNat 16 h.val).getD noLot

/-- Table 11-9, code 3: a cell configuration entry. -/
def cellConfigBytes (k : CellConfig) : List Byte := beBytes 2 k.cap ++ [k.stall.code] ++ beBytes 2 k.soak

/-- Table 11-15: the CELL.READ data, 213 bytes. -/
def cellReadBytes (s : State) (c : CellNo) : List Byte :=
  let r := s.bay.cell c
  let p := s.link.ports[c]
  let n := r.sites.getD 0
  let k := r.counters
  cellStateBytes c r ++ bytes16 (handleField (r.assignment.map (·.lot))) ++ bytes16 (handleField r.excluded)
    ++ [flagByte r.stallDeadline.isSome] ++ beBytes 6 (r.stallDeadline.getD 0)
    ++ cellConfigBytes s.tables.cellConfig[c]
    ++ beBytes 2 k.offerTimeouts ++ beBytes 2 k.declines ++ beBytes 2 k.stalls ++ beBytes 2 k.strays
    ++ beBytes 2 k.protocolErrors ++ beBytes 2 k.drops
    ++ beBytes 1 (((r.assignment.bind (·.slot)).map (·.val)).getD 0)
    ++ padTo 48 ((r.assignment.map fun a => a.bins.toList.flatMap (beBytes 3)).getD [])
    ++ padTo 72 ((r.assignment.map fun a => (a.sites.toList.take n).flatMap siteBytes).getD [])
    ++ r.slots.toList.flatMap slotBytes ++ beBytes 2 p.checkFailures ++ beBytes 2 p.destinationErrors

/-! ### Tables (Table 11-9) -/

/-- Code 1: a gate profile entry of 52 bytes, as held. -/
def profileBytes (p : GateProfile) : List Byte :=
  beBytes 2 p.yieldFloor ++ beBytes 2 p.minSample ++ p.ceilings.toList.flatMap (beBytes 2) ++ beBytes 2 p.siteDelta
    ++ beBytes 2 p.siteMin ++ beBytes 1 p.runLimit ++ beBytes 2 p.lossLimit ++ beBytes 1 p.tolerance
    ++ bytes16 p.goodBins ++ bytes16 p.retestBins ++ beBytes 2 p.sublotSize ++ beBytes 1 p.spread ++ [p.finish.code]

/-- Code 2: a catalogue entry; an unused one is read with program id 0 (R191) and, DESIGN CHOICE,
notes/assumptions/42.md, with 0 in its other fields. -/
def catalogueBytes : Option CatalogueEntry → List Byte
  | some e => bytes16 e.program ++ [e.revision] ++ beBytes 2 (e.segs - 1) ++ [flagByte e.noRetain]
  | none => List.replicate 6 0#8

/-- Code 4: a group entry. -/
def groupBytes (g : GroupEntry) : List Byte := [flagByte g.inUse] ++ beBytes 1 g.value.toNat ++ beBytes 1 g.mask.toNat

/-- Code 6: the settings of a load channel. -/
def channelSettingsBytes (k : ChannelSettings) : List Byte := [k.mode.code, k.round.code, flagByte k.enabled]

/-- Table 10-4: the value of a setting, in its unit or as its code. -/
def Settings.value (k : Settings) (number : Nat) : Option Nat :=
  match number with
  | 0 => some k.ageLimit
  | 1 => some k.rotationMode.code
  | 2 => some k.offerTimeout
  | 3 => some k.pullLimit
  | 4 => some k.grantOrder.code
  | 5 => some k.creditWindow
  | 6 => some k.loadTimeout
  | 7 => some k.loadWatermark
  | 8 => some k.cellShareLimit
  | 9 => some k.quarantineDelay
  | _ => none

/-- R191: the cell kind that an index byte of table 5 names. -/
def forwardIndex (b : Byte) : Option (Fin 9) := (CellKind.ofCode b).map CellKind.index

/-- R191: the entry of a table as held, if the code and the index are served. -/
def Tables.entryBytes (t : Tables) (table index : Byte) : Option (List Byte) :=
  match table.toNat with
  | 1 => (indexOf 64 index).map fun i => profileBytes t.profiles[i]
  | 2 => (indexOf 128 index).map fun i => catalogueBytes t.catalogue[i]
  | 3 => (cellOf index).map fun c => cellConfigBytes t.cellConfig[c]
  | 4 => (indexOf 4 index).map fun i => groupBytes t.groups[i]
  | 5 =>
    if index = 0xFF#8 then some (t.forwarding.toList.map forwardingByte)
    else (forwardIndex index).map fun i => [forwardingByte t.forwarding[i]]
  | 6 => (indexOf 8 index).map fun i => channelSettingsBytes t.channels[i]
  | 7 => (t.settings.value index.toNat).map (beBytes 2)
  | _ => none

/-! ### PART.READ (Table 11-16) -/

/-- A cell and slot byte: the cell in bits 0 to 4, the slot in bits 5 and 6. -/
def cellSlotByte (c : CellNo) (k : SlotNo) : Byte := BitVec.ofNat 8 (c.val + 32 * k.val)

/-- One load channel of Table 11-16, 73 bytes. -/
def channelBytes (k : ChannelSettings) (ch : Channel) : List Byte :=
  channelSettingsBytes k ++ [ch.modeInForce.code, ch.state.code]
    ++ bytes16 ((ch.image.map (·.program)).getD 0#16) ++ [(ch.image.map (·.revision)).getD 0#8]
    ++ beBytes 3 ch.base ++ beBytes 3 ch.current
    ++ beBytes 1 ch.targets.length ++ slotsOf 8 4 (ch.targets.map fun t => cellSlotByte t.cell t.slot :: beBytes 3 t.pos)
    ++ beBytes 1 ch.nextRound.length ++ slotsOf 8 1 (ch.nextRound.map fun e => [cellSlotByte e.1 e.2])
    ++ beBytes 2 ch.segs.length
    ++ (match ch.pull with
      | some p => 1#8 :: beBytes 2 p.first ++ beBytes 1 p.n ++ beBytes 1 p.arrived ++ beBytes 6 p.deadline
      | none => List.replicate 11 0#8)
    ++ [flagByte ch.slotHeld] ++ beBytes 2 ch.faults ++ [faultCode ch.lastFault]

/-- One entry of the load wait queue, 4 bytes. -/
def waitingBytes (b : Bay) (c : CellNo) : List Byte :=
  beBytes 1 c.val
    ++ match (b.cell c).load with
      | some ld => bytes16 ld.image.program ++ [ld.image.revision]
      | none => List.replicate 3 0#8

/-- R193: the free and occupied counts that PART.READ reports. Whether they take in the buffer claimed for its own
RESPONSE is open (Config.ownResponseCounted). -/
def State.reportedPool (s : State) : Nat × Nat :=
  if Config.ownResponseCounted then (s.free - 1, s.occupied + 1) else (s.free, s.occupied)

/-- Table 11-16: the PART.READ data, 945 bytes. -/
def partReadBytes (s : State) : List Byte :=
  bytes16 s.part.station ++ [s.part.resetCause.code] ++ beBytes 6 s.part.clock ++ bytes32 s.bay.releaseCounter
    ++ bytes16 s.bay.nextSublot ++ beBytes 2 s.reportedPool.1 ++ beBytes 2 s.reportedPool.2 ++ beBytes 2 s.reserved
    ++ beBytes 2 s.link.uplink.length ++ allCells.flatMap (fun c => beBytes 2 (s.share c)) ++ cellSet s.heldOff
    ++ beBytes 2 s.bay.notices.length ++ cellSet (fun c => s.link.ports[c].up) ++ [flagByte s.link.uplinkUp]
    ++ allCells.flatMap (fun c => beBytes 2 s.link.ports[c].checkFailures) ++ beBytes 2 s.link.uplinkCheckFailures
    ++ allCells.flatMap (fun c => beBytes 2 s.link.ports[c].destinationErrors) ++ beBytes 2 s.link.strays
    ++ allChans.flatMap (fun k => channelBytes s.tables.channels[k] (s.bay.chan k))
    ++ beBytes 1 s.bay.slotsHeld ++ [(s.bay.lastGranted.map fun k => BitVec.ofNat 8 k.val).getD 0xFF#8]
    ++ beBytes 1 s.bay.waitQueue.length ++ slotsOf 32 4 (s.bay.waitQueue.map (waitingBytes s.bay))

/-! ### Frames toward the floor server -/

/-- A frame from the part to the floor server. -/
def partFrame (p : Half) (kind : Byte) (lot : Half) (payload : List Byte) : Frame :=
  { dst := floorServer, src := p, kind := kind, lot := lot, descriptor := [], payload := payload }

/-- Table 11-6: a RESPONSE as an uplink entry. -/
def responseEntry (p : Half) (lot : Half) (code : Byte) (tag : Half) (status : Status) (data : List Byte) : UpEntry :=
  { origin := .response
    frame := partFrame p kindResponse lot
      ([code] ++ bytes16 tag ++ [status.code] ++ beBytes 2 data.length ++ data) }

/-- The uplink entry of a notice, built from its record as it stands (R173). -/
def noticeEntry (s : State) (n : Notice) : UpEntry :=
  let p := s.part.station
  match n with
  | .lotState h => { origin := n.origin, frame := partFrame p kindLotState (handleField (some h)) (lotStateBytes (s.bay.lot h)) }
  | .release h =>
    { origin := n.origin
      frame := partFrame p kindRelease (handleField (some h)) (((s.bay.lot h).release.map releaseBytes).getD []) }
  | .cellState c =>
    { origin := n.origin
      frame := partFrame p kindCellState (handleField ((s.bay.cell c).assignment.map (·.lot))) (cellStateBytes c (s.bay.cell c)) }

/-- Table 11-4: a PULL as an uplink entry. -/
def pullEntry (p : Half) (k : ChanNo) (image : Image) (first n : Nat) : UpEntry :=
  { origin := .pull
    frame := partFrame p kindPull noLot
      (beBytes 1 k.val ++ bytes16 image.program ++ [image.revision] ++ beBytes 2 first ++ beBytes 1 n) }

/-! ### Frames toward a cell -/

/-- R200: the lot handle of a WITHDRAW: the lot of every sublot it names, where the part knows that one lot. -/
def withdrawHandle (ids : List (Half × Option LotNo)) : Half :=
  match ids with
  | (_, some h) :: rest => if rest.all (·.2 = some h) then BitVec.ofNat 16 h.val else Config.withdrawHandle (ids.map (·.1))
  | _ => Config.withdrawHandle (ids.map (·.1))

/-- The kind code, the lot handle field and the payload of a command (Tables 11-2 and 11-4). -/
def Command.fields : Command → Byte × Half × List Byte
  | .offer o =>
    (0x11#8, BitVec.ofNat 16 o.lot.val,
      bytes16 o.id ++ beBytes 1 o.step ++ beBytes 2 o.qty ++ bytes16 o.program ++ [o.revision]
        ++ beBytes 1 o.slot.val ++ [tempCode o.temp])
  | .withdraw ids => (0x12#8, withdrawHandle ids, beBytes 1 ids.length ++ ids.flatMap fun i => bytes16 i.1)
  | .finish id lot => (0x13#8, BitVec.ofNat 16 lot.val, bytes16 id)
  | .pause id lot => (0x14#8, BitVec.ofNat 16 lot.val, bytes16 id)
  | .resume id lot => (0x15#8, BitVec.ofNat 16 lot.val, bytes16 id)
  | .restart => (0x16#8, noLot, [])

/-- R184: a command as the frame the port sends, to the handler station, or RESTART to both stations. -/
def commandFrame (p : Half) (c : CellNo) (k : Command) : Frame :=
  let (kind, lot, payload) := k.fields
  { dst := if k = .restart then broadcast else handlerStation p c, src := p, kind := kind, lot := lot
    descriptor := [], payload := payload }

/-- R92, Table 11-4: a segment copy for a target, with the target's slot written into it. -/
def segmentFrame (p : Half) (k : ChanNo) (image : Image) (t : Target) (sg : SegBuf) : Frame :=
  { dst := testerStation p t.cell, src := p, kind := kindSegment, lot := Config.segmentCopyHandle sg.lot
    descriptor := beBytes 1 k.val ++ beBytes 1 t.slot.val ++ bytes16 image.program ++ [image.revision] ++ beBytes 2 sg.number
    payload := sg.image }

end Sys2Proof.Machine
end

