-- ==== Sys2Proof/Machine/TableWrites.lean ====
section
/-!
DEFINITION. TABLE.WRITE and TABLE.READ (R191, R192): the effect of each write on the tables and on the records, and
the answer. A served request is the effect of its one event and its RESPONSE at the tail of the uplink queue
(R188); the claims that follow in the same event are those of Machine/Settle.lean.
-/

namespace Sys2Proof.Machine

/-! ### Answers (R188, R189) -/

/-- A response status with the data that accompanies it. -/
structure Reply where
  status : Status
  data : List Byte := []
  deriving DecidableEq, Repr

/-- R189, R190: UNKNOWN carries no data. -/
def Reply.unknown : Reply := { status := .unknown }

/-- R188: the RESPONSE is placed at the tail of the uplink queue; its header names the lot that the request names. -/
def State.respond (s : State) (lot : Option LotNo) (code : Byte) (tag : Half) (r : Reply) : State :=
  s.pushUplink (responseEntry s.part.station (handleField lot) code tag r.status r.data)

/-- Code of TABLE.WRITE. -/
def codeTableWrite : Byte := 0x01#8
/-- Code of TABLE.READ. -/
def codeTableRead : Byte := 0x02#8

/-- Table 11-10: the data of an accepted TABLE.WRITE or TABLE.READ: table code, index and the entry as held. -/
def Tables.reply (t : Tables) (table index : Byte) : Reply :=
  match t.entryBytes table index with
  | some entry => { status := .done, data := [table, index] ++ entry }
  | none => Reply.unknown

/-- The answer to a TABLE.WRITE that has taken effect. -/
def State.written (s : State) (tag : Half) (table index : Byte) : State :=
  s.respond none codeTableWrite tag (s.tables.reply table index)

/-- The answer to a TABLE.WRITE that is refused. -/
def State.writeRefused (s : State) (tag : Half) (status : Status) : State :=
  s.respond none codeTableWrite tag { status := status }

/-! ### Tables 1 to 6 -/

/-- R101: a gate profile is replaced. -/
def Tables.setProfile (t : Tables) (i : Fin 64) (p : GateProfile) : Tables := { t with profiles := t.profiles.set i p }

/-- TABLE.WRITE of a gate profile. -/
def serveProfileWrite (tag : Half) (index : Byte) (e : ProfileImage) (s : State) : State :=
  match indexOf 64 index with
  | none => s.writeRefused tag .unknown
  | some i => { s with tables := s.tables.setProfile i (profileOf e) }.written tag 1#8 index

/-- R75: whether a used entry other than entry `i` holds a program id. -/
def Tables.heldElsewhere (t : Tables) (i : Fin 128) (program : Half) : Bool :=
  (List.finRange 128).any fun j => decide (j ≠ i) && (t.catalogue[j]).any (·.program = program)

/-- R76: whether a slot becomes STALE by a write that changes entry `before` into entry `after`. -/
def staledBy (before after : Option CatalogueEntry) (s : Slot) : Bool :=
  match before with
  | none => false
  | some o =>
    match after with
    | some n =>
      if n.program = o.program then
        n.revision ≠ o.revision && s.state = .resident && s.image = some (o.program, o.revision)
      else s.state = .resident && s.image.any (·.1 = o.program)
    | none => s.state = .resident && s.image.any (·.1 = o.program)

/-- R76: the residency slots after a catalogue write, in every tester. -/
def Bay.staleSlots (b : Bay) (before after : Option CatalogueEntry) : Bay :=
  { b with
    cells := b.cells.map fun r =>
      { r with slots := r.slots.map fun s => if staledBy before after s then { s with state := .stale } else s } }

/-- TABLE.WRITE of a catalogue entry. -/
def serveCatalogueWrite (tag : Half) (index : Byte) (program : Half) (revision : Byte) (segsLessOne : Half)
    (noRetain : Byte) (s : State) : State :=
  match indexOf 128 index with
  | none => s.writeRefused tag .unknown
  | some i =>
    if program ≠ 0#16 ∧ s.tables.heldElsewhere i program then s.writeRefused tag .state
    else
      let e := catalogueOf program revision segsLessOne noRetain
      let before := s.tables.catalogue[i]
      { s with
        tables := { s.tables with catalogue := s.tables.catalogue.set i e }
        bay := s.bay.staleSlots before e }.written tag 2#8 index

/-- R27: a write of OFF cancels the stall deadline of the cell. -/
def Bay.stallWritten (b : Bay) (c : CellNo) (k : CellConfig) : Bay :=
  if k.stall = .off then b.modCell c fun r => { r with stallDeadline := none } else b

/-- TABLE.WRITE of a cell configuration. -/
def serveCellConfigWrite (tag : Half) (index : Byte) (cap : Half) (stall : Byte) (soak : Half) (s : State) : State :=
  match cellOf index with
  | none => s.writeRefused tag .unknown
  | some c =>
    let k := cellConfigOf cap stall soak
    { s with
      tables := { s.tables with cellConfig := s.tables.cellConfig.set c k }
      bay := s.bay.stallWritten c k }.written tag 3#8 index

/-- TABLE.WRITE of a group entry. -/
def serveGroupWrite (tag : Half) (index inUse value mask : Byte) (s : State) : State :=
  match indexOf 4 index with
  | none => s.writeRefused tag .unknown
  | some i =>
    { s with tables := { s.tables with groups := s.tables.groups.set i (groupOf inUse value mask) } }.written
      tag 4#8 index

/-- TABLE.WRITE of one forwarding setting, or of all nine (R183). Held-off ports are served afterwards (R166). -/
def serveForwardingWrite (tag : Half) (e : ForwardImage) (s : State) : State :=
  match e with
  | .all codes =>
    { s with tables := { s.tables with forwarding := codes.map forwardingOf } }.written tag 5#8 0xFF#8
  | .one kind code =>
    match CellKind.ofCode kind with
    | none => s.writeRefused tag .unknown
    | some k =>
      { s with tables := { s.tables with forwarding := s.tables.forwarding.set k.index (forwardingOf code) } }.written
        tag 5#8 kind

/-- R86: the written mode of an IDLE channel takes force at once. -/
def Bay.modeWritten (b : Bay) (k : ChanNo) (mode : ChannelMode) : Bay :=
  if (b.chan k).state = .idle then b.modChan k fun ch => { ch with modeInForce := mode } else b

/-- TABLE.WRITE of the settings of a load channel. -/
def serveChannelWrite (tag : Half) (index mode round enable : Byte) (s : State) : State :=
  match indexOf 8 index with
  | none => s.writeRefused tag .unknown
  | some k =>
    let e := channelSettingsOf mode round enable
    let s := { s with tables := { s.tables with channels := s.tables.channels.set k e } }
    { s with bay := (s.bay.modeWritten k e.mode).takeWaiting s.ctx k }.written tag 6#8 index

/-! ### Table 7 (R192) -/

/-- A part setting takes a new value. -/
def State.setSettings (s : State) (k : Settings) : State := { s with tables := { s.tables with settings := k } }

/-- The answer to a write of setting `number`. -/
def State.settingWritten (s : State) (tag : Half) (number : Byte) : State := s.written tag 7#8 number

/-- R56: every queued NORMAL lot forms its age deadline again, or loses it. -/
def Bay.reformAges (x : Ctx) (b : Bay) : Bay :=
  b.queue.foldl (fun b h => b.modLot h fun l => { l with ageDeadline := x.ageDeadline l }) b

/-- TABLE.WRITE of the age limit (R56). -/
def serveAgeLimit (tag value : Half) (s : State) : State :=
  let v := min value.toNat 1440
  let s' := s.setSettings { s.tables.settings with ageLimit := v }
  (if v = s.tables.settings.ageLimit then s else s'.onBay fun x b => b.reformAges x).settingWritten tag 0#8

/-- R63: a write of FIXED puts the rotation list in cell number order. -/
def Bay.rotationWritten (b : Bay) (m : Turning) : Bay := if m = .fixed then { b with rotation := allCells } else b

/-- TABLE.WRITE of the rotation mode (R63). -/
def serveRotationMode (tag value : Half) (s : State) : State :=
  let m := turningOf value
  let s := s.setSettings { s.tables.settings with rotationMode := m }
  { s with bay := s.bay.rotationWritten m }.settingWritten tag 1#8

/-- TABLE.WRITE of the offer timeout. -/
def serveOfferTimeout (tag value : Half) (s : State) : State :=
  (s.setSettings { s.tables.settings with offerTimeout := clampTo 1 600 value.toNat }).settingWritten tag 2#8

/-- TABLE.WRITE of the pull limit (R88). -/
def servePullLimit (tag value : Half) (s : State) : State :=
  (s.setSettings { s.tables.settings with pullLimit := clampTo 1 4 value.toNat }).settingWritten tag 3#8

/-- TABLE.WRITE of the grant order. -/
def serveGrantOrder (tag value : Half) (s : State) : State :=
  (s.setSettings { s.tables.settings with grantOrder := turningOf value }).settingWritten tag 4#8

/-- TABLE.WRITE of the credit window. -/
def serveCreditWindow (tag value : Half) (s : State) : State :=
  (s.setSettings { s.tables.settings with creditWindow := clampTo 1 16 value.toNat }).settingWritten tag 5#8

/-- TABLE.WRITE of the load timeout (R89). -/
def serveLoadTimeout (tag value : Half) (s : State) : State :=
  (s.setSettings { s.tables.settings with loadTimeout := clampTo 10 3600 value.toNat }).settingWritten tag 6#8

/-- TABLE.WRITE of the load watermark (R164). -/
def serveLoadWatermark (tag value : Half) (s : State) : State :=
  (s.setSettings { s.tables.settings with loadWatermark := clampTo 128 1536 value.toNat }).settingWritten tag 7#8

/-- TABLE.WRITE of the cell share limit (R164). -/
def serveCellShareLimit (tag value : Half) (s : State) : State :=
  (s.setSettings { s.tables.settings with cellShareLimit := clampTo 8 256 value.toNat }).settingWritten tag 8#8

/-- TABLE.WRITE of the quarantine delay (R152). -/
def serveQuarantineDelay (tag value : Half) (s : State) : State :=
  (s.setSettings { s.tables.settings with quarantineDelay := min value.toNat 1440 }).settingWritten tag 9#8

/-- TABLE.READ (R191). -/
def serveTableRead (tag : Half) (table index : Byte) (s : State) : State :=
  s.respond none codeTableRead tag (s.tables.reply table index)

end Sys2Proof.Machine
end

