-- ==== Sys2Proof/Machine/LotRequests.lean ====
section
/-!
DEFINITION. The requests that act on lots: LOT.DEFINE, LOT.START, LOT.READ, LOT.ABORT, LOT.RETIRE (chapter 1),
HOLD.SET and HOLD.RELEASE (chapter 6), LOT.SHIP and the release of a lot (chapter 7).
-/

namespace Sys2Proof.Machine

/-- R1, R189: a request that names a lot by handle: UNKNOWN out of range, else its effect on the records and its
answer, with the lot's handle in the header. -/
def State.lotRequest (s : State) (code : Byte) (tag handle : Half) (f : Ctx → Bay → LotNo → Bay × Reply) : State :=
  match lotOf handle with
  | none => s.respond none code tag Reply.unknown
  | some h => { s with bay := (f s.ctx s.bay h).1 }.respond (some h) code tag (f s.ctx s.bay h).2

/-- Lot state and change stamp, as most answers carry them (Table 11-10). -/
def LotRec.brief (l : LotRec) : List Byte := l.state.code :: bytes32 l.stamp

/-- An answer with the lot's state and stamp after the request. -/
def Bay.briefReply (b : Bay) (h : LotNo) (status : Status) : Reply := { status := status, data := (b.lot h).brief }

/-! ### LOT.DEFINE (R17) -/

/-- The step slots that are read: all six where the step count is above 6 (Table 11-8 leaves unread those beyond it). -/
def definedSteps (stepCount : Byte) (steps : Vector StepImage 6) : List StepImage := steps.toList.take stepCount.toNat

/-- R17: the position a refusal reports, if the route or the start quantity is at fault. Where a step is at fault and the
step count is above 6, or the start quantity 0, R17 gives no order: a free value says whether 0 is reported
(notes/assumptions/11.md). -/
def defineFault (start : BitVec 24) (stepCount : Byte) (steps : Vector StepImage 6) : Option Nat :=
  match routeFault none 1 (definedSteps stepCount steps) with
  | some k =>
    if (6 < stepCount.toNat ∧ Config.countFaultFirst) ∨ (start = 0#24 ∧ Config.startFaultFirst) then some 0 else some k
  | none => if stepCount.toNat < 1 ∨ 6 < stepCount.toNat ∨ start = 0#24 then some 0 else none

/-- R17, R4: a record as LOT.DEFINE leaves it, less its stamp. -/
def definedLot (name : List Byte) (start : BitVec 24) (policy : ReleasePolicy) (route : List RouteStep) : LotRec :=
  { state := .defined, name := name, route := route, steps := route.map fun _ => {}, startQty := start.toNat
    policy := policy }

/-- R17: the lowest-numbered FREE record. -/
def Bay.lowestFree (b : Bay) : Option LotNo := allLots.find? fun h => (b.lot h).state = .free

/-- The effect and the answer of LOT.DEFINE. A name length above 16 and a policy code that names nothing are
answered UNKNOWN without data (R190; notes/assumptions/13.md). -/
def Bay.define (b : Bay) (nameLength : Byte) (name : Vector Byte 16) (start : BitVec 24) (policy stepCount : Byte)
    (steps : Vector StepImage 6) : Bay × Reply :=
  match policyOf policy with
  | none => (b, Reply.unknown)
  | some p =>
    if 16 < nameLength.toNat then (b, Reply.unknown)
    else
      match defineFault start stepCount steps with
      | some k => (b, { status := .unknown, data := beBytes 1 k })
      | none =>
        match b.lowestFree with
        | none => (b, { status := .full })
        | some h =>
          let lot := definedLot (name.toList.take nameLength.toNat) start p ((definedSteps stepCount steps).map routeStepOf)
          let b := b.modLot h fun l => { lot with stamp := l.stamp }
          (b, { status := .done, data := beBytes 2 h.val ++ bytes32 (b.lot h).stamp })

/-- LOT.DEFINE. -/
def serveLotDefine (tag : Half) (nameLength : Byte) (name : Vector Byte 16) (start : BitVec 24) (policy stepCount : Byte)
    (steps : Vector StepImage 6) (s : State) : State :=
  let r := s.bay.define nameLength name start policy stepCount steps
  { s with bay := r.1 }.respond none 0x10#8 tag r.2

/-! ### LOT.START (R18, R19, R57) -/

/-- R19: whether LOT.START promotes the lot. -/
def LotRec.promotable (l : LotRec) : Bool :=
  match l.state with
  | .active => true
  | .closing => true
  | .held => l.saved = some .active || l.saved = some .closing
  | _ => false

/-- R55, R57: a lot takes class EXPEDITED; in the queue it moves to its place there and its match runs. -/
def Bay.promote (x : Ctx) (b : Bay) (h : LotNo) : Bay :=
  let b := b.modLot h fun l => { l with cls := .expedited, ageDeadline := none }
  if h ∈ b.queue then (b.enqueue h).matchLot x h else b

/-- The effect and the answer of LOT.START. -/
def Bay.start (x : Ctx) (b : Bay) (h : LotNo) : Bay × Reply :=
  let l := b.lot h
  if l.state = .defined then
    let b := Bay.openStep x 5 b h 1
    (b, b.briefReply h .done)
  else if l.promotable then
    let b := if l.cls = .normal then b.promote x h else b
    (b, b.briefReply h .done)
  else (b, b.briefReply h .state)

/-- LOT.START. -/
def serveLotStart (tag handle : Half) (s : State) : State := s.lotRequest 0x11#8 tag handle Bay.start

/-! ### LOT.READ (R24) -/

/-- LOT.READ. -/
def serveLotRead (tag handle : Half) (s : State) : State :=
  s.lotRequest 0x12#8 tag handle fun _ b h => (b, { status := .done, data := lotReadBytes (b.lot h) })

/-! ### LOT.ABORT (R20, R21) -/

/-- R21, item 3: what an abort does to one cell; the list gathers the cells it made IDLE, last first. -/
def Bay.abortCell (x : Ctx) (h : LotNo) (acc : Bay × List CellNo) (c : CellNo) : Bay × List CellNo :=
  let (b, freed) := acc
  let r := b.cell c
  if r.assignment.any (·.lot = h) then
    match r.state with
    | .offered => (b.withdrawOffer x c .idle, c :: freed)
    | .loading => (b.returnSublot x c, freed)
    | .running => (b.finishDue c, freed)
    | _ => (b, freed)
  else (b, freed)

/-- R21: the states on which an abort is taken. -/
def LotState.abortable : LotState → Bool
  | .active => true
  | .held => true
  | .closing => true
  | .complete => true
  | _ => false

/-- R21: the abort of a lot. It is ABORTING while its cells are dealt with, so that what they return starts no match.
DESIGN CHOICE, notes/assumptions/37.md: its LOT.STATE mark so joins the notice list ahead of the marks of its cells. -/
def Bay.abortLot (x : Ctx) (b : Bay) (h : LotNo) : Bay :=
  let b := b.modLot h fun l =>
    { l with
      state := .aborting, saved := none, holds := [], completedAt := none, quarantine := none, quarantineSpent := false }
  let b := b.leaveQueue h
  let (b, freed) := allCells.foldl (Bay.abortCell x h) (b, [])
  let b := if (b.lot h).openSublots = 0 then b.modLot h fun l => { l with state := .aborted } else b
  b.matchCells x freed.reverse

/-- The effect and the answer of LOT.ABORT. -/
def Bay.abort (x : Ctx) (b : Bay) (h : LotNo) : Bay × Reply :=
  let l := b.lot h
  if l.state = .defined then
    let b := b.modLot h fun l => { l with state := .aborted }
    (b, b.briefReply h .done)
  else if l.state.abortable then
    let b := b.abortLot x h
    (b, b.briefReply h .done)
  else (b, b.briefReply h .state)

/-- LOT.ABORT. -/
def serveLotAbort (tag handle : Half) (s : State) : State := s.lotRequest 0x13#8 tag handle Bay.abort

/-! ### LOT.RETIRE (R23) -/

/-- R23: the states from which a record is freed. -/
def LotState.retirable : LotState → Bool
  | .released => true
  | .aborted => true
  | .defined => true
  | _ => false

/-- The effect and the answer of LOT.RETIRE. The RELEASE mark goes with the record (R158, R173). -/
def Bay.retire (_x : Ctx) (b : Bay) (h : LotNo) : Bay × Reply :=
  if (b.lot h).state.retirable then
    let b := (b.modLot h fun l => { stamp := l.stamp }).unowe (.release h)
    (b, b.briefReply h .done)
  else (b, b.briefReply h .state)

/-- LOT.RETIRE. -/
def serveLotRetire (tag handle : Half) (s : State) : State := s.lotRequest 0x14#8 tag handle Bay.retire

/-! ### HOLD.SET and HOLD.RELEASE (R133 to R137) -/

/-- State, stamp and leading hold after a request (Table 11-10). -/
def LotRec.held (l : LotRec) : List Byte := l.brief ++ [leadingCode l]

/-- The effect and the answer of HOLD.SET. -/
def Bay.holdSet (detail : BitVec 32) (x : Ctx) (b : Bay) (h : LotNo) : Bay × Reply :=
  if (b.lot h).state.holdable then
    let b := b.raise x h .quality .floor (.word detail)
    (b, { status := .done, data := (b.lot h).held })
  else (b, { status := .state, data := (b.lot h).held })

/-- HOLD.SET. -/
def serveHoldSet (tag handle : Half) (detail : BitVec 32) (s : State) : State :=
  s.lotRequest 0x20#8 tag handle (Bay.holdSet detail)

/-- R136: the kinds that have a check a waiver could lift. -/
def HoldKind.waivable : HoldKind → Bool
  | .yield => true
  | .bin => true
  | .site => true
  | .run => true
  | _ => false

/-- R136: a kind joins a waiver set. -/
def Waivers.add (w : Waivers) : HoldKind → Waivers
  | .yield => { w with yield := true }
  | .bin => { w with bin := true }
  | .site => { w with site := true }
  | .run => { w with run := true }
  | _ => w

/-- R135, R136: the mode in which the removal of a kind from a lot's set is taken. -/
def LotRec.modeTaken (l : LotRec) (k : HoldKind) (m : ReleaseMode) : ReleaseMode :=
  if m = .waive ∧ k.waivable ∧ (l.saved = some .active ∨ l.saved = some .closing) then .waive else .clear

/-- R134: the kind of the hold set that a request names. -/
def LotRec.releasedKind (l : LotRec) : ReleaseTarget → Option HoldKind
  | .leading => l.leading
  | .kind k => if l.holds.any (·.kind = k) then some k else none

/-- R135 to R137: a kind is removed from a lot's hold set; the last one restores the saved state. -/
def Bay.releaseHold (x : Ctx) (b : Bay) (h : LotNo) (k : HoldKind) (m : ReleaseMode) : Bay :=
  let b := b.modLot h fun l =>
    let l' := { l with holds := l.holds.filter (·.kind ≠ k) }
    match l.modeTaken k m with
    | .waive => l'.modStep l.openIndex fun r => { r with waivers := r.waivers.add k }
    | .clear => l'
  if (b.lot h).holds = [] then b.restoreLot x h else b

/-- Release mode code. -/
def ReleaseMode.code : ReleaseMode → Byte
  | .clear => 0#8
  | .waive => 1#8

/-- The effect and the answer of HOLD.RELEASE on a lot, its codes being known ones. -/
def Bay.holdRelease (target : ReleaseTarget) (m : ReleaseMode) (stamp : Stamp) (x : Ctx) (b : Bay) (h : LotNo) :
    Bay × Reply :=
  let l := b.lot h
  if stamp ≠ l.stamp then (b, { status := .stale, data := l.held ++ [0#8, 0#8] })
  else
    match l.releasedKind target with
    | none => (b, { status := .notHeld, data := l.held ++ [0#8, 0#8] })
    | some k =>
      let b := b.releaseHold x h k m
      (b, { status := .done, data := (b.lot h).held ++ [k.code, (l.modeTaken k m).code] })

/-- HOLD.RELEASE: a code that names nothing is answered UNKNOWN (R134). -/
def serveHoldRelease (tag handle : Half) (kind mode : Byte) (stamp : Stamp) (s : State) : State :=
  s.lotRequest 0x21#8 tag handle fun x b h =>
    match releaseTargetOf kind, releaseModeOf mode with
    | some t, some m => b.holdRelease t m stamp x h
    | _, _ => (b, Reply.unknown)

/-! ### Release (R155 to R157) -/

/-- R156: the four figures of a step record. -/
def StepRec.figures (r : StepRec) : ReleaseStep := { input := r.input, good := r.good, loss := r.loss, missing := r.missing }

/-- R156: the release record of a lot, with its number and the clock. -/
def LotRec.recordOf (l : LotRec) (h : LotNo) (number : Stamp) (clock : Nat) : ReleaseRecord :=
  { number := number, lot := h, name := l.name, shipped := l.carried, time := clock, steps := l.steps.map StepRec.figures }

/-- R156, R157: a lot is released, by either path. -/
def Bay.releaseLot (x : Ctx) (b : Bay) (h : LotNo) : Bay :=
  let number := b.releaseCounter
  { b with releaseCounter := nextRelease number }.modLot h fun l =>
    { l with
      state := .released, completedAt := none, quarantine := none, quarantineSpent := false
      release := some (l.recordOf h number x.clock) }

/-- R155: the release number that a refusal with STATE carries. -/
def LotRec.shippedNumber (l : LotRec) : Stamp :=
  if l.state = .released then (l.release.map (·.number)).getD 0#32 else 0#32

/-- The effect and the answer of LOT.SHIP. -/
def Bay.ship (stamp : Stamp) (x : Ctx) (b : Bay) (h : LotNo) : Bay × Reply :=
  let l := b.lot h
  if l.state ≠ .complete then (b, { status := .state, data := l.brief ++ bytes32 l.shippedNumber })
  else if stamp ≠ l.stamp then (b, b.briefReply h .stale)
  else if l.carried = 0 then (b, b.briefReply h .empty)
  else
    let b := b.releaseLot x h
    (b, { status := .done, data := (b.lot h).brief ++ ((b.lot h).release.map releaseBytes).getD [] })

/-- LOT.SHIP. -/
def serveLotShip (tag handle : Half) (stamp : Stamp) (s : State) : State :=
  s.lotRequest 0x22#8 tag handle (Bay.ship stamp)

end Sys2Proof.Machine
end

