-- ==== Sys2Proof/Machine/PartRequests.lean ====
section
/-!
DEFINITION. The requests that act on cells and on the part: CELL.CLAIM, CELL.RESTORE, CELL.READ (chapter 2),
TIME.SET, PART.READ, PART.RESTART and a request of an unknown code (chapter 10), and the values that power-on and a
floor restart leave (R25, R50, R74, R100, R122, R140, R160, R176, R187, R197, R198).
-/

namespace Sys2Proof.Machine

/-! ### Cells (R40 to R43) -/

/-- R26, R190: a request that names a cell: UNKNOWN out of range, else its effect on the records and its answer. -/
def State.cellRequest (s : State) (code : Byte) (tag : Half) (cell : Byte) (f : Ctx → Bay → CellNo → Bay × Reply) : State :=
  match cellOf cell with
  | none => s.respond none code tag Reply.unknown
  | some c => { s with bay := (f s.ctx s.bay c).1 }.respond none code tag (f s.ctx s.bay c).2

/-- An answer with the cell's state after the request. -/
def Bay.cellReply (b : Bay) (c : CellNo) (status : Status) : Reply := { status := status, data := [(b.cell c).state.code] }

/-- CELL.CLAIM (R40, R41). -/
def serveCellClaim (tag : Half) (cell : Byte) (s : State) : State :=
  s.cellRequest 0x30#8 tag cell fun x b c => (b.claim x c, (b.claim x c).cellReply c .done)

/-- R42: a CLAIMED or FAULTED cell is given back. -/
def Bay.restore (_x : Ctx) (b : Bay) (c : CellNo) : Bay × Reply :=
  let r := b.cell c
  if r.state = .claimed ∨ r.state = .faulted then
    let b := b.modCell c fun r => { r with state := .notReady, suspect := false, loadFailures := 0 }
    (b, b.cellReply c .done)
  else (b, b.cellReply c .state)

/-- CELL.RESTORE. -/
def serveCellRestore (tag : Half) (cell : Byte) (s : State) : State := s.cellRequest 0x31#8 tag cell Bay.restore

/-- CELL.READ (R43). -/
def serveCellRead (tag : Half) (cell : Byte) (s : State) : State :=
  s.cellRequest 0x32#8 tag cell fun _ b c => (b, { status := .done, data := cellReadBytes s c })

/-! ### The part -/

/-- TIME.SET (R196). -/
def serveTimeSet (tag : Half) (clock : BitVec 48) (s : State) : State :=
  { s with part := { s.part with clock := clock.toNat } }.respond none 0x40#8 tag
    { status := .done, data := beBytes 6 s.part.clock ++ beBytes 6 clock.toNat }

/-- PART.READ (R193). -/
def servePartRead (tag : Half) (s : State) : State :=
  s.respond none 0x41#8 tag { status := .done, data := partReadBytes s }

/-- R190: a request code that names no request, or a payload of the wrong length. -/
def serveUnknownCode (code : Byte) (tag : Half) (s : State) : State := s.respond none code tag Reply.unknown

/-! ### Resets -/

/-- R25: a lot record after a floor restart. -/
def LotRec.restarted (l : LotRec) : LotRec := { stamp := l.stamp }

/-- R50, R100: a cell record after a floor restart: its counters are kept and its command queue holds RESTART alone. -/
def CellRec.restarted (r : CellRec) : CellRec := { counters := r.counters, commands := [.restart] }

/-- R100: a channel after a floor restart. -/
def Channel.restarted (k : ChannelSettings) (ch : Channel) : Channel :=
  { modeInForce := k.mode, faults := ch.faults, lastFault := ch.lastFault }

/-- R198, items 1 to 4 and 6: the records after a floor restart. -/
def Bay.restarted (t : Tables) (b : Bay) : Bay :=
  { lots := b.lots.map LotRec.restarted
    cells := b.cells.map CellRec.restarted
    nextSublot := b.nextSublot
    channels := Vector.ofFn fun k => Channel.restarted t.channels[k] b.channels[k]
    releaseCounter := b.releaseCounter }

/-- R176, R187: a cell port after a floor restart. -/
def CellPort.restarted (p : CellPort) : CellPort := { p with downlink := [], tx := {} }

/-- R176, R187: the link after a floor restart. -/
def Link.restarted (l : Link) : Link :=
  { l with uplink := [], headCut := false, ports := l.ports.map CellPort.restarted, pointer := 31 }

/-- R198: a floor restart, less its RESPONSE. -/
def State.restarted (s : State) : State :=
  { s with
    part := { s.part with resetCause := .restart }
    bay := s.bay.restarted s.tables
    link := s.link.restarted }

/-- PART.RESTART: the restart and its RESPONSE at the head of the empty uplink queue. -/
def servePartRestart (tag : Half) (s : State) : State :=
  let s := s.restarted
  s.respond none 0x42#8 tag
    { status := .done
      data := [s.part.resetCause.code] ++ beBytes 6 s.part.clock ++ bytes32 s.bay.releaseCounter ++ bytes16 s.bay.nextSublot }

/-- R177, R197: own station from the strap. -/
def stationOf (strap : BitVec 9) : Half := BitVec.ofNat 16 (128 * max strap.toNat 1)

/-- R197: power-on with the strap and the lines as they stand. The commands that wait outside the part are kept. -/
def State.poweredOn (strap : BitVec 9) (cellLines : BitVec 32) (uplinkLine : Bool) (s : State) : State :=
  { part := { strap := strap, station := stationOf strap }
    tables := {}
    bay := {}
    link := { uplinkUp := uplinkLine, ports := Vector.ofFn fun c => { up := cellLines.getLsbD c.val } }
    pending := s.pending }

end Sys2Proof.Machine
end

