-- ==== Sys2Proof/Machine/UplinkFrames.lean ====
section
/-!
DEFINITION. What the uplink port takes besides requests (Table 9-2): SEGMENT (R91, R201), through-frames (R165,
R180 to R182), uplink strays and frame check failures; and the dispatch of everything the uplink port takes.
-/

namespace Sys2Proof.Machine

/-- R178: one more frame check failure of the uplink port. -/
def State.uplinkCheckFailure (s : State) : State :=
  { s with link := { s.link with uplinkCheckFailures := bump16 s.link.uplinkCheckFailures } }

/-! ### SEGMENT (R91, R95) -/

/-- A SEGMENT that names channel `k` and carries at least one image byte. -/
def State.segmentFor (s : State) (k : ChanNo) (lot program : Half) (revision : Byte) (number : Half) (image : List Byte) : State :=
  let ch := s.bay.chan k
  match ch.pull, ch.image with
  | some p, some im =>
    if im.program ≠ program ∨ im.revision ≠ revision then s.stray
    else if number.toNat = p.first + p.arrived then
      s.onBay fun x b => b.takeSegment x k p { number := number.toNat, lot := lot, image := image }
    else if ch.state = .draining then s.stray
    else s.onBay fun x b => b.channelFault x k .sequence
  | _, _ => s.stray

/-- SEGMENT addressed to P. A payload above 1,024 bytes fails the frame check (R200). -/
def serveSegment (lot : Half) (channel : Byte) (program : Half) (revision : Byte) (number : Half) (image : List Byte)
    (s : State) : State :=
  if 1024 < image.length then s.uplinkCheckFailure
  else if image = [] then s.stray
  else
    match indexOf 8 channel with
    | none => s.stray
    | some k => s.segmentFor k lot program revision number image

/-! ### Through-frames -/

/-- R181: whether the cell station of an index belongs to a group in use. -/
def GroupEntry.holds (g : GroupEntry) (i : Fin 64) : Bool := BitVec.ofNat 6 i.val &&& g.mask = g.value &&& g.mask

/-- R177: the cell of a station index. -/
def stationCell (i : Fin 64) : CellNo := ⟨i.val / 2, by omega⟩

/-- R177: the station of a station index. -/
def indexStation (p : Half) (i : Fin 64) : Half := p + BitVec.ofNat 16 (1 + i.val)

/-- R182: the cell stations, by station index, that a destination names: none where the destination is not one
that through-frames may have. DESIGN CHOICE, notes/assumptions/43.md: Table 9-2 does not list destination 0x0000 at the
uplink port, and the model has no station of the part for it, so that a frame to it is a stray. -/
def State.throughStations (s : State) (dst : Half) : Option (List (Fin 64)) :=
  match destOf s.part.station dst with
  | .cellStation i => some [i]
  | .group g =>
    let e := s.tables.groups[g]
    if e.inUse then some ((List.finRange 64).filter e.holds) else none
  | .everyCell => some (List.finRange 64)
  | .part => none
  | .unserved => none

/-- R165, R182: one copy, made or dropped. -/
def State.makeCopy (kind : Byte) (lot : Half) (payload : List Byte) (s : State) (i : Fin 64) : State :=
  let c := stationCell i
  if s.copyGranted c then
    let f : Frame :=
      { dst := indexStation s.part.station i, src := floorServer, kind := kind, lot := lot, descriptor := [], payload := payload }
    s.modPort c fun p => { p with downlink := p.downlink ++ [f] }
  else s.onBay fun _ b => b.countCell c fun k => { k with drops := bump16 k.drops }

/-- A frame from the floor server that is not addressed to P. -/
def serveThrough (dst : Half) (kind : Byte) (lot : Half) (payload : List Byte) (s : State) : State :=
  if 1024 < payload.length then s.uplinkCheckFailure
  else
    match s.throughStations dst with
    | none => s.stray
    | some stations =>
      if kind = kindRequest ∨ kind = kindSegment then s.stray
      else stations.foldl (State.makeCopy kind lot payload) s

/-! ### The uplink port -/

/-- R198: the request that takes a floor restart. -/
def takesRestart : Instr → Bool
  | .partRestart .. => true
  | _ => false

/-- The commands that wait at the uplink port for a RESPONSE buffer while free is 0 (R169, R188): the requests. -/
def isRequest : Instr → Bool
  | .partRestart .. => true
  | .tableWriteGateProfile .. => true
  | .tableWriteCatalogue .. => true
  | .tableWriteCellConfiguration .. => true
  | .tableWriteGroupTable .. => true
  | .tableWriteForwardingTable .. => true
  | .tableWriteLoadChannelSettings .. => true
  | .tableWriteAgeLimit .. => true
  | .tableWriteRotationMode .. => true
  | .tableWriteOfferTimeout .. => true
  | .tableWritePullLimit .. => true
  | .tableWriteGrantOrder .. => true
  | .tableWriteCreditWindow .. => true
  | .tableWriteLoadTimeout .. => true
  | .tableWriteLoadWatermark .. => true
  | .tableWriteCellShareLimit .. => true
  | .tableWriteQuarantineDelay .. => true
  | .tableRead .. => true
  | .lotDefine .. => true
  | .lotStart .. => true
  | .lotRead .. => true
  | .lotAbort .. => true
  | .lotRetire .. => true
  | .holdSet .. => true
  | .holdRelease .. => true
  | .lotShip .. => true
  | .cellClaim .. => true
  | .cellRestore .. => true
  | .cellRead .. => true
  | .timeSet .. => true
  | .partRead .. => true
  | .requestUnknownCode .. => true
  | _ => false

/-- What the uplink port takes: a request's effect and its RESPONSE, or another frame's effect. Commands that are
no frame of the uplink port have no effect here. -/
def serveUplink (i : Instr) (s : State) : State :=
  match i with
  | .partRestart tag => servePartRestart tag s
  | .tableWriteGateProfile tag index entry => serveProfileWrite tag index entry s
  | .tableWriteCatalogue tag index program revision segsLessOne noRetain =>
    serveCatalogueWrite tag index program revision segsLessOne noRetain s
  | .tableWriteCellConfiguration tag index cap stall soak => serveCellConfigWrite tag index cap stall soak s
  | .tableWriteGroupTable tag index inUse value mask => serveGroupWrite tag index inUse value mask s
  | .tableWriteForwardingTable tag entry => serveForwardingWrite tag entry s
  | .tableWriteLoadChannelSettings tag index mode round enable => serveChannelWrite tag index mode round enable s
  | .tableWriteAgeLimit tag value => serveAgeLimit tag value s
  | .tableWriteRotationMode tag value => serveRotationMode tag value s
  | .tableWriteOfferTimeout tag value => serveOfferTimeout tag value s
  | .tableWritePullLimit tag value => servePullLimit tag value s
  | .tableWriteGrantOrder tag value => serveGrantOrder tag value s
  | .tableWriteCreditWindow tag value => serveCreditWindow tag value s
  | .tableWriteLoadTimeout tag value => serveLoadTimeout tag value s
  | .tableWriteLoadWatermark tag value => serveLoadWatermark tag value s
  | .tableWriteCellShareLimit tag value => serveCellShareLimit tag value s
  | .tableWriteQuarantineDelay tag value => serveQuarantineDelay tag value s
  | .tableRead tag table index => serveTableRead tag table index s
  | .lotDefine tag nameLength name start policy stepCount steps =>
    serveLotDefine tag nameLength name start policy stepCount steps s
  | .lotStart tag handle => serveLotStart tag handle s
  | .lotRead tag handle => serveLotRead tag handle s
  | .lotAbort tag handle => serveLotAbort tag handle s
  | .lotRetire tag handle => serveLotRetire tag handle s
  | .holdSet tag handle detail => serveHoldSet tag handle detail s
  | .holdRelease tag handle kind mode stamp => serveHoldRelease tag handle kind mode stamp s
  | .lotShip tag handle stamp => serveLotShip tag handle stamp s
  | .cellClaim tag cell => serveCellClaim tag cell s
  | .cellRestore tag cell => serveCellRestore tag cell s
  | .cellRead tag cell => serveCellRead tag cell s
  | .timeSet tag clock => serveTimeSet tag clock s
  | .partRead tag => servePartRead tag s
  | .requestUnknownCode code tag => serveUnknownCode code tag s
  | .segment lot channel _ program revision number image => serveSegment lot channel program revision number image s
  | .throughFrame dst kind lot payload => serveThrough dst kind lot payload s
  | .uplinkStray => s.stray
  | .frameCheckFailure .uplink => s.uplinkCheckFailure
  | _ => s

end Sys2Proof.Machine
end

