-- ==== Sys2Proof/Machine/Settle.lean ====
section
/-!
DEFINITION. What follows an event's own effects in the same event: the frames a cell port takes (R166, R178, R179,
R201), the waiting claims in the order of R169 (a request held for a buffer, owed notices, pulls, held-off ports),
and what the cell ports may begin to send (R185). `runEvent` is one event of the part, whole.
-/

namespace Sys2Proof.Machine

/-! ### Frames at a cell port -/

/-- A frame taken, or refused by a check, at cell port `c`. -/
def takeArrival (c : CellNo) (a : Arrival) (s : State) : State :=
  match a with
  | .frame src lot m =>
    let t := s.onBay fun x b => b.cellFrameEffect x c src m
    if s.forwarding m.kind = .forward then
      t.pushUplink { origin := .forwarded c, frame := cellFrame s.part.station c src lot m }
    else t
  | .checkFailure => s.modPort c fun p => { p with checkFailures := bump16 p.checkFailures }
  | .badSource => s.onBay fun _ b => b.protocolError c
  | .badDestination => s.modPort c fun p => { p with destinationErrors := bump16 p.destinationErrors }
  | .badKindOrLength => s.onBay fun _ b => b.protocolError c

/-- R166, R168: what comes to the head of a port that is not held off is taken, or the port is held off. -/
def presentArrival (c : CellNo) (a : Arrival) (s : State) : State :=
  if s.takenFreely a || s.cellClaimGranted c then takeArrival c a s
  else s.modPort c fun p => { p with waiting := [a] }

/-- A frame arrives at cell port `c`. Nothing arrives on a line that is down, the failure of a frame cut short by its loss
included (notes/assumptions/15.md, 41.md); a frame behind a held one waits unexamined. -/
def arriveCell (c : CellNo) (a : Arrival) (s : State) : State :=
  let p := s.link.ports[c]
  if p.up = false then s
  else if p.waiting ≠ [] then s.modPort c fun p => { p with waiting := p.waiting ++ [a] }
  else presentArrival c a s

/-! ### Claims that wait (R169) -/

/-- R89: issues the pull of a channel: the reservation, the slot, and the PULL at the tail of the uplink queue. -/
def State.issuePull (s : State) (k : ChanNo) : State :=
  let ch := s.bay.chan k
  match ch.image with
  | none => s
  | some im =>
    let n := s.pullSize k
    let first := ch.base - ch.current
    let due := deadlineAfter s.part.clock (seconds s.tables.settings.loadTimeout)
    let ch' : Channel :=
      { ch with
        state := if ch.state = .gathering then .pulling else ch.state
        current := ch.current - n, slotHeld := true
        pull := some { first := first, n := n, arrived := 0, deadline := due } }
    { s with bay := s.bay.modChan k fun _ => ch' }.pushUplink (pullEntry s.part.station k im first n)

/-- R88: a grant of the pull arbiter, which records the channel. -/
def State.grantPull (s : State) (k : ChanNo) : State :=
  let t := s.issuePull k
  { t with bay := { t.bay with lastGranted := some k } }

/-- R172: builds the notice of an owed mark, places it and clears the mark. -/
def State.buildNotice (s : State) (n : Notice) : State :=
  let t := { s with bay := s.bay.unowe n }
  match n with
  | .lotState h => t.pushExpress h (noticeEntry s n)
  | .release h => t.pushExpress h (noticeEntry s n)
  | .cellState _ => t.pushUplink (noticeEntry s n)

/-! ### What a cell port may begin to send (R185) -/

/-- R92: the segment at the next-delivery position of the target that a cell is. -/
def Bay.readySegment (b : Bay) (c : CellNo) : Option (ChanNo × Target × SegBuf) :=
  allChans.findSome? fun k =>
    match (b.chan k).targets.find? (·.cell = c) with
    | none => none
    | some t => ((b.chan k).segs.find? (·.number = t.pos)).map fun sg => (k, t, sg)

/-- Whether a port may be free to start a frame: it is sending nothing, or a command whose sending may have ended. -/
def Tx.maybeFree (t : Tx) : Bool := t.command.isSome || (t.segment.isNone && !t.copy)

/-- Whether a segment copy that a port may be sending is still at its target's position. -/
def Bay.stillAt (b : Bay) (c : CellNo) (g : SegmentCopy) : Bool :=
  (b.readySegment c).any fun r => r.1 = g.chan && r.2.2.number = g.number

/-- A copy of a target that has gone: it may still be sent to its end, and counts for nothing there. Where a
command may be what the port sends, the copy is taken as not begun. -/
def Tx.settled (b : Bay) (c : CellNo) (t : Tx) : Tx :=
  match t.segment with
  | none => t
  | some g =>
    if g.live && !b.stillAt c g then
      if t.command.isSome then { t with segment := none } else { t with segment := some { g with live := false } }
    else t

/-- The copy of a segment that a port sends to a target. -/
def Bay.copyOf (b : Bay) (p : Half) (r : ChanNo × Target × SegBuf) : SegmentCopy :=
  { chan := r.1, number := r.2.2.number
    frame := segmentFrame p r.1 ((b.chan r.1).image.getD { program := 0#16, revision := 0#8, segs := 0 }) r.2.1 r.2.2
    live := true }

/-- R185: what a port with no command queued may have begun to send. -/
def Tx.begun (b : Bay) (p : Half) (c : CellNo) (port : CellPort) (t : Tx) : Tx :=
  if port.up && t.maybeFree && (b.cell c).commands.isEmpty then
    match b.readySegment c with
    | some r => if t.segment.isNone then { t with segment := some (b.copyOf p r) } else t
    | none => if port.downlink.isEmpty then t else { t with copy := true }
  else t

/-- R185 at every cell port, as an event ends. -/
def State.portsAfter (s : State) : Vector CellPort 32 :=
  Vector.ofFn fun c =>
    let p := s.link.ports[c]
    { p with tx := (p.tx.settled s.bay c).begun s.bay s.part.station c p }

/-- The end of an event: the ports, and no lot's stamp counted as advanced any more (R9). -/
def State.eventEnd (s : State) : State := { s with link := { s.link with ports := s.portsAfter } }.newEvent

/-! ### The order of claims -/

/-- What the claims of one event still have to remember: the port served last, while frames behind the one taken
are taken with it (R168), and whether a request held for want of a buffer may still claim the one that frees (R169,
class 1). One such request is taken, and classes 2 to 4 of its event come before whatever stands behind it. -/
structure Claims where
  drain : Option CellNo := none
  request : Bool := true
  deriving DecidableEq, Repr

/-- R169, class 1: the request at the head of the uplink port, if a buffer is free for its RESPONSE. -/
def State.nextRequest (s : State) : Option Instr :=
  s.link.held.head?.filter fun i => isRequest i && decide (1 ≤ s.free)

/-- What stands at the head of the uplink port behind a request that was held, if it may be taken now. -/
def State.nextHeld (s : State) : Option Instr :=
  s.link.held.head?.filter fun i => !isRequest i || decide (1 ≤ s.free)

/-- Takes the head of the uplink port, an event of its own. -/
def State.takeHeld (s : State) (i : Instr) : State :=
  let t := s.eventEnd
  serveUplink i { t with link := { t.link with held := t.link.held.tail } }

/-- R168: takes the frame at the head of a held-off port, an event of its own. -/
def State.takeWaiting (s : State) (c : CellNo) : State :=
  let t := s.eventEnd
  match t.link.ports[c].waiting with
  | [] => t
  | a :: rest =>
    let u := t.modPort c fun p => { p with waiting := rest }
    takeArrival c a { u with link := { u.link with pointer := c } }

/-- R169: the next claim, in its order, with what it leaves: a request held for a buffer, the notices (R172), the
re-issues (R90), the grants (R88) and the held-off ports (R168). What stands behind a held request comes when the
event of that request has been served whole. A service of its own follows a PART.RESTART that is taken inside a service,
so that no port is being drained then and port 0 comes first (R168). -/
def nextClaim (m : Claims) (s : State) : Option (Claims × State) :=
  ((if m.request then s.nextRequest else none).map fun i =>
      ({ drain := if takesRestart i then none else m.drain.filter s.drainable, request := false }, s.takeHeld i))
    <|> (s.nextNotice.map fun n => (m, s.buildNotice n))
    <|> (s.nextReissue.map fun k => (m, s.issuePull k))
    <|> (s.nextGrant.map fun k => (m, s.grantPull k))
    <|> ((s.nextPort m.drain).map fun c =>
      ({ drain := some c, request := m.request || decide (s.free = 0) }, s.takeWaiting c))
    <|> (s.nextHeld.map fun i => ({ drain := none, request := false }, s.takeHeld i))

/-- Serves the claims of an event one after another until none is left. -/
def settle : Nat → Claims → State → State
  | 0, _, s => s
  | n + 1, m, s =>
    match nextClaim m s with
    | none => s
    | some (m', s') => settle n m' s'

/-- The frames that wait at the ports. -/
def State.waitingFrames (s : State) : Nat :=
  s.link.held.length + (s.link.ports.toList.map fun p => p.waiting.length).sum

/-- Claims that an event can serve at most: between two frames taken, at most 544 notices (R172) and one pull for
each channel and each way of issuing it. -/
def State.claimBound (s : State) : Nat := 1024 * (s.waitingFrames + 2)

/-- The claims that an event's own effects leave waiting (R169). -/
def State.serveClaims (s : State) (m : Claims) : State := settle s.claimBound m s

/-- One event of the part, whole: its own effects, the claims they leave waiting, and the ports. -/
def runEvent (f : State → State) (s : State) : State := ((f s.newEvent).serveClaims {}).eventEnd

/-! ### The uplink port -/

/-- A frame arrives at the uplink port. Nothing arrives on a line that is down, the failure of a frame cut short by its
loss included (notes/assumptions/15.md, 41.md); frames behind a held one wait; a request is held while free is 0. -/
def arriveUplink (i : Instr) (s : State) : State :=
  if s.link.uplinkUp = false then s
  else if s.link.held ≠ [] ∨ (isRequest i ∧ s.free = 0) then
    { s with link := { s.link with held := s.link.held ++ [i] } }
  else serveUplink i s

/-- A frame at the uplink port, as an event. The service that follows a PART.RESTART is that of the held-off ports,
each frame taken there being an event of its own (R168). -/
def runUplink (i : Instr) (s : State) : State := runEvent (arriveUplink i) s

end Sys2Proof.Machine
end

