-- ==== Sys2Proof/Machine/CellFrames.lean ====
section
/-!
DEFINITION. The meanings of the frames that cells send (chapters 2 to 5, 7):
one definition for each command, an event of the part (Machine/Settle.lean).
-/

namespace Sys2Proof.Machine

/-- READY (R32, R33). -/
def execReady (c : CellNo) (src : CellStation) (lot : Half) (kit temp sites : Byte) (s : State) :
    Host.Outcome State Fault Refusal :=
  .next (runEvent (arriveCell c (.frame src lot (.ready kit temp sites))) s)

/-- TAKE (R68, R71). -/
def execTake (c : CellNo) (src : CellStation) (lot id : Half) (s : State) : Host.Outcome State Fault Refusal :=
  .next (runEvent (arriveCell c (.frame src lot (.take id))) s)

/-- DECLINE (R69, R71). -/
def execDecline (c : CellNo) (src : CellStation) (lot id : Half) (s : State) : Host.Outcome State Fault Refusal :=
  .next (runEvent (arriveCell c (.frame src lot (.decline id))) s)

/-- UNIT (R104 to R121). -/
def execUnit (c : CellNo) (src : CellStation) (lot id : Half) (site bin : Byte) (sequence : BitVec 32) (s : State) :
    Host.Outcome State Fault Refusal :=
  .next (runEvent (arriveCell c (.frame src lot (.unit id site bin sequence))) s)

/-- TALLY (R141 to R146). -/
def execTally (c : CellNo) (src : CellStation) (lot id : Half) (bins : Vector (BitVec 24) 16) (returned missing : BitVec 24) (s : State) :
    Host.Outcome State Fault Refusal :=
  .next (runEvent (arriveCell c (.frame src lot (.tally id bins returned missing))) s)

/-- PAUSED (R39). -/
def execPaused (c : CellNo) (src : CellStation) (lot id : Half) (s : State) : Host.Outcome State Fault Refusal :=
  .next (runEvent (arriveCell c (.frame src lot (.paused id))) s)

/-- STATE (R34 to R38). -/
def execState (c : CellNo) (src : CellStation) (lot : Half) (mode : Byte) (alarm : Half) (s : State) :
    Host.Outcome State Fault Refusal :=
  .next (runEvent (arriveCell c (.frame src lot (.state mode alarm))) s)

/-- LOADED (R96, R97). -/
def execLoaded (c : CellNo) (src : CellStation) (lot program : Half) (revision slot result : Byte) (s : State) :
    Host.Outcome State Fault Refusal :=
  .next (runEvent (arriveCell c (.frame src lot (.loaded program revision slot result))) s)

/-- TSTATE (R79 to R81). -/
def execTstate (c : CellNo) (src : CellStation) (lot : Half) (code slot : Byte) (s : State) :
    Host.Outcome State Fault Refusal :=
  .next (runEvent (arriveCell c (.frame src lot (.tstate code slot))) s)

end Sys2Proof.Machine
end

