-- ==== Sys2Proof/Machine/Deadlines.lean ====
section
/-!
DEFINITION. The six kinds of deadline (R195): which expiry of a kind is taken next, and what taking it does (R45,
R46, R55, R70, R94, R95, R98, R153).
-/

namespace Sys2Proof.Machine

/-- The earlier of two candidates; between equal deadlines the one that stands first. -/
def earlier {ι : Type} (best : Option (ι × Nat)) (e : ι × Nat) : Option (ι × Nat) :=
  match best with
  | none => some e
  | some a => if e.2 < a.2 then some e else some a

/-- R195: of the deadlines a kind holds, in index order, the next one due at a clock. -/
def firstDue {ι : Type} (clock : Nat) (ds : List (ι × Nat)) : Option ι :=
  ((ds.filter fun e => decide (e.2 ≤ clock)).foldl earlier none).map (·.1)

/-- The deadlines of one kind held in the cell records. -/
def Bay.cellDeadlines (b : Bay) (f : CellRec → Option Nat) : List (CellNo × Nat) :=
  allCells.filterMap fun c => (f (b.cell c)).map fun d => (c, d)

/-- The offer deadlines (R66). -/
def Bay.offerDeadlines (b : Bay) : List (CellNo × Nat) := b.cellDeadlines (·.offerDeadline)

/-- The stall deadlines (R44). -/
def Bay.stallDeadlines (b : Bay) : List (CellNo × Nat) := b.cellDeadlines (·.stallDeadline)

/-- The load deadlines (R92). -/
def Bay.loadDeadlines (b : Bay) : List (CellNo × Nat) := b.cellDeadlines fun r => r.load.bind (·.deadline)

/-- The age deadlines (R54). -/
def Bay.ageDeadlines (b : Bay) : List (LotNo × Nat) :=
  allLots.filterMap fun h => (b.lot h).ageDeadline.map fun d => (h, d)

/-- The quarantine deadlines that are not spent (R152, R153). -/
def Bay.quarantineDeadlines (b : Bay) : List (LotNo × Nat) :=
  allLots.filterMap fun h =>
    if (b.lot h).state = .complete ∧ (b.lot h).quarantineSpent = false then (b.lot h).quarantine.map fun d => (h, d)
    else none

/-- The pull deadlines (R89). -/
def Bay.pullDeadlines (b : Bay) : List (ChanNo × Nat) :=
  allChans.filterMap fun k => (b.chan k).pull.map fun p => (k, p.deadline)

/-! ### What an expiry does -/

/-- R70: expiry of an offer deadline. -/
def Bay.offerExpiry (x : Ctx) (b : Bay) (c : CellNo) : Bay :=
  (b.countCell c fun k => { k with offerTimeouts := bump16 k.offerTimeouts }).withdrawOffer x c .notReady

/-- R45, R46: expiry of a stall deadline. -/
def Bay.stallExpiry (x : Ctx) (b : Bay) (c : CellNo) : Bay :=
  if (b.cell c).stalled then (b.modCell c fun r => { r with stallFinish := true, stallDeadline := none }).finishDue c
  else
    ((b.modCell c fun r =>
      { r with
        stalled := true, stallDeadline := none
        counters := { r.counters with stalls := bump16 r.counters.stalls } }).owe (.cellState c)).armStall x c

/-- R55: expiry of an age deadline. -/
def Bay.ageExpiry (x : Ctx) (b : Bay) (h : LotNo) : Bay := b.promote x h

/-- R153: expiry of a quarantine deadline. -/
def Bay.quarantineExpiry (x : Ctx) (b : Bay) (h : LotNo) : Bay :=
  if 0 < (b.lot h).carried then (b.releaseLot x h).owe (.release h)
  else (b.modLot h fun l => { l with quarantineSpent := true }).owe (.lotState h)

/-! ### Taking the next expiry of a kind -/

/-- Takes the next expiry of one kind, if one is due. -/
def State.expire {ι : Type} (s : State) (ds : Bay → List (ι × Nat)) (take : Ctx → Bay → ι → Bay) : State :=
  match firstDue s.part.clock (ds s.bay) with
  | none => s
  | some i => s.onBay fun x b => take x b i

/-- The next offer expiry. -/
def expireOffer (s : State) : State := s.expire Bay.offerDeadlines Bay.offerExpiry
/-- The next stall expiry. -/
def expireStall (s : State) : State := s.expire Bay.stallDeadlines Bay.stallExpiry
/-- The next age expiry. -/
def expireAge (s : State) : State := s.expire Bay.ageDeadlines Bay.ageExpiry
/-- The next pull expiry. -/
def expirePull (s : State) : State := s.expire Bay.pullDeadlines Bay.pullExpiry
/-- The next load expiry. -/
def expireLoad (s : State) : State := s.expire Bay.loadDeadlines Bay.loadFails
/-- The next quarantine expiry. -/
def expireQuarantine (s : State) : State := s.expire Bay.quarantineDeadlines Bay.quarantineExpiry

/-- The effect of an event at which no command is taken: the next expiry of the first kind, in the order of R195,
that has one due; else one millisecond of the floor clock (R194). The order among kinds is the model's
(notes/assumptions/2.md). -/
def passTime (s : State) : State :=
  let t := s.part.clock
  if (firstDue t s.bay.offerDeadlines).isSome then expireOffer s
  else if (firstDue t s.bay.stallDeadlines).isSome then expireStall s
  else if (firstDue t s.bay.ageDeadlines).isSome then expireAge s
  else if (firstDue t s.bay.pullDeadlines).isSome then expirePull s
  else if (firstDue t s.bay.loadDeadlines).isSome then expireLoad s
  else if (firstDue t s.bay.quarantineDeadlines).isSome then expireQuarantine s
  else { s with part := { s.part with clock := min (t + 1) Config.clockMax } }

end Sys2Proof.Machine
end

