-- ==== Sys2Proof/Machine/ExpiryCommands.lean ====
section
/-!
DEFINITION. The meanings of the expiries of the six kinds of deadline (R195):
one definition for each command, an event of the part (Machine/Settle.lean).
-/

namespace Sys2Proof.Machine

/-- R70: the next expiry of an offer deadline. -/
def execOfferDeadlineExpiry (s : State) : Host.Outcome State Fault Refusal :=
  .next (runEvent expireOffer s)

/-- R45, R46: the next expiry of a stall deadline. -/
def execStallDeadlineExpiry (s : State) : Host.Outcome State Fault Refusal :=
  .next (runEvent expireStall s)

/-- R55: the next expiry of an age deadline. -/
def execAgeDeadlineExpiry (s : State) : Host.Outcome State Fault Refusal :=
  .next (runEvent expireAge s)

/-- R94, R95: the next expiry of a pull deadline. -/
def execPullDeadlineExpiry (s : State) : Host.Outcome State Fault Refusal :=
  .next (runEvent expirePull s)

/-- R98: the next expiry of a load deadline. -/
def execLoadDeadlineExpiry (s : State) : Host.Outcome State Fault Refusal :=
  .next (runEvent expireLoad s)

/-- R153: the next expiry of a quarantine deadline. -/
def execQuarantineExpiry (s : State) : Host.Outcome State Fault Refusal :=
  .next (runEvent expireQuarantine s)

end Sys2Proof.Machine
end

