-- ==== Sys2Proof/Machine/LotCommands.lean ====
section
/-!
DEFINITION. The meanings of the requests on lots and their holds (chapters 1, 6, 7):
one definition for each command, an event of the part (Machine/Settle.lean).
-/

namespace Sys2Proof.Machine

/-- LOT.DEFINE (R17). -/
def execLotDefine (tag : Half) (nameLength : Byte) (name : Vector Byte 16) (start : BitVec 24) (policy stepCount : Byte) (steps : Vector StepImage 6) (s : State) :
    Host.Outcome State Fault Refusal :=
  .next (runUplink (.lotDefine tag nameLength name start policy stepCount steps) s)

/-- LOT.START (R18, R19). -/
def execLotStart (tag handle : Half) (s : State) : Host.Outcome State Fault Refusal :=
  .next (runUplink (.lotStart tag handle) s)

/-- LOT.READ (R24). -/
def execLotRead (tag handle : Half) (s : State) : Host.Outcome State Fault Refusal :=
  .next (runUplink (.lotRead tag handle) s)

/-- LOT.ABORT (R20, R21). -/
def execLotAbort (tag handle : Half) (s : State) : Host.Outcome State Fault Refusal :=
  .next (runUplink (.lotAbort tag handle) s)

/-- LOT.RETIRE (R23). -/
def execLotRetire (tag handle : Half) (s : State) : Host.Outcome State Fault Refusal :=
  .next (runUplink (.lotRetire tag handle) s)

/-- HOLD.SET (R133). -/
def execHoldSet (tag handle : Half) (detail : BitVec 32) (s : State) : Host.Outcome State Fault Refusal :=
  .next (runUplink (.holdSet tag handle detail) s)

/-- HOLD.RELEASE (R134 to R138). -/
def execHoldRelease (tag handle : Half) (kind mode : Byte) (stamp : Stamp) (s : State) :
    Host.Outcome State Fault Refusal :=
  .next (runUplink (.holdRelease tag handle kind mode stamp) s)

/-- LOT.SHIP (R155). -/
def execLotShip (tag handle : Half) (stamp : Stamp) (s : State) : Host.Outcome State Fault Refusal :=
  .next (runUplink (.lotShip tag handle stamp) s)

end Sys2Proof.Machine
end

