-- ==== Sys2Proof/Machine/PartCommands.lean ====
section
/-!
DEFINITION. The meanings of the requests on cells and on the part (chapters 2, 10):
one definition for each command, an event of the part (Machine/Settle.lean).
-/

namespace Sys2Proof.Machine

/-- CELL.CLAIM (R40, R41). -/
def execCellClaim (tag : Half) (cell : Byte) (s : State) : Host.Outcome State Fault Refusal :=
  .next (runUplink (.cellClaim tag cell) s)

/-- CELL.RESTORE (R42). -/
def execCellRestore (tag : Half) (cell : Byte) (s : State) : Host.Outcome State Fault Refusal :=
  .next (runUplink (.cellRestore tag cell) s)

/-- CELL.READ (R43). -/
def execCellRead (tag : Half) (cell : Byte) (s : State) : Host.Outcome State Fault Refusal :=
  .next (runUplink (.cellRead tag cell) s)

/-- TIME.SET (R196). -/
def execTimeSet (tag : Half) (clock : BitVec 48) (s : State) : Host.Outcome State Fault Refusal :=
  .next (runUplink (.timeSet tag clock) s)

/-- PART.READ (R193). -/
def execPartRead (tag : Half) (s : State) : Host.Outcome State Fault Refusal :=
  .next (runUplink (.partRead tag) s)

/-- A request of an unknown code or a wrong length (R190, R201). -/
def execRequestUnknownCode (code : Byte) (tag : Half) (s : State) : Host.Outcome State Fault Refusal :=
  .next (runUplink (.requestUnknownCode code tag) s)

end Sys2Proof.Machine
end

