-- ==== Sys2Proof/Machine/LineAndSending.lean ====
section
/-!
DEFINITION. Line-state loss and recovery at the ports (R48, R174, R175, R186) and the ends and beginnings of sendings
(R92, R165, R170, R184, R185); the effects of the claims that the table lists as rows of their own.
-/

namespace Sys2Proof.Machine

/-! ### Line state -/

/-- R186: a cell port as its line is lost: what it sends, what waits at it and its downlink queue are gone. -/
def CellPort.lost (p : CellPort) : CellPort := { p with up := false, waiting := [], downlink := [], tx := {} }

/-- R48, R186: line-state loss at a cell port. DESIGN CHOICE, notes/assumptions/41.md: the loss itself counts no frame
check failure for the frame that it cuts short (R178). -/
def loseCellLine (c : CellNo) (s : State) : State := (s.modPort c CellPort.lost).onBay fun x b => b.linkLost x c

/-- R48, R186: recovery at a cell port. -/
def recoverCellLine (c : CellNo) (s : State) : State := s.modPort c fun p => { p with up := true }

/-- R174: loss of the uplink's line state. It counts no frame check failure: notes/assumptions/41.md. -/
def Link.lostUplink (l : Link) : Link :=
  { l with uplinkUp := false, headCut := l.headSending, held := [] }

/-- R175: recovery of the uplink's line state. -/
def Link.recoveredUplink (l : Link) : Link := { l with uplinkUp := true, headCut := false }

/-- R174. -/
def loseUplink (s : State) : State := { s with link := s.link.lostUplink }

/-- R175. -/
def recoverUplink (s : State) : State := { s with link := s.link.recoveredUplink }

/-! ### Sendings -/

/-- R170: the end of the sending of the uplink queue's head entry. -/
def endUplinkSending (s : State) : State :=
  if s.link.uplinkUp then { s with link := { s.link with uplink := s.link.uplink.tail } } else s

/-- R184, R185: the sending of the command at the head of a cell's queue begins. -/
def beginCommand (c : CellNo) (s : State) : State :=
  let p := s.link.ports[c]
  match (s.bay.cell c).commands with
  | [] => s
  | k :: rest =>
    if p.up && p.tx.maybeFree then
      (s.onBay fun _ b => b.modCell c fun r => { r with commands := rest }).modPort c fun p =>
        { p with tx := { command := some (commandFrame s.part.station c k) } }
    else s

/-- R92, R185: the end of the sending of a segment copy. A copy of a target that has gone counts for nothing. -/
def endSegmentCopy (c : CellNo) (s : State) : State :=
  match s.link.ports[c].tx.segment with
  | none => s
  | some g =>
    let t := s.modPort c fun p => { p with tx := {} }
    if g.live then t.onBay fun x b => b.delivered x g.chan c else t

/-- R165, R185: the end of the sending of a downlink copy. -/
def endDownlinkCopy (c : CellNo) (s : State) : State :=
  if s.link.ports[c].tx.copy then s.modPort c fun p => { p with downlink := p.downlink.tail, tx := {} } else s

/-! ### Claims -/

/-- The owed notice that is served next, if it is of the kind the row names (R172). -/
def buildIf (f : Notice → Bool) (s : State) : State :=
  match s.nextNotice with
  | none => s
  | some n => if f n then s.buildNotice n else s

/-- Whether a notice is a LOT.STATE. -/
def Notice.isLotState : Notice → Bool
  | .lotState _ => true
  | _ => false

/-- Whether a notice is a CELL.STATE. -/
def Notice.isCellState : Notice → Bool
  | .cellState _ => true
  | _ => false

/-- Whether a notice is a RELEASE. -/
def Notice.isRelease : Notice → Bool
  | .release _ => true
  | _ => false

/-- R88, R89: the next grant of the pull arbiter. -/
def grantNext (s : State) : State :=
  match s.nextGrant with
  | none => s
  | some k => s.grantPull k

/-- R90: the next pull of a WHOLE channel that keeps its slot. -/
def reissueNext (s : State) : State :=
  match s.nextReissue with
  | none => s
  | some k => s.issuePull k

end Sys2Proof.Machine
end

