-- ==== Sys2Proof/Machine/PortCommands.lean ====
section
/-!
DEFINITION. The meanings of what else arrives at the ports, and their line states (chapters 4, 8, 9):
one definition for each command, an event of the part (Machine/Settle.lean).
-/

namespace Sys2Proof.Machine

/-- A SEGMENT frame (R91). -/
def execSegment (lot : Half) (channel slot : Byte) (program : Half) (revision : Byte) (number : Half) (image : List Byte) (s : State) :
    Host.Outcome State Fault Refusal :=
  .next (runUplink (.segment lot channel slot program revision number image) s)

/-- A through-frame (R165, R182). -/
def execThroughFrame (dst : Half) (kind : Byte) (lot : Half) (payload : List Byte) (s : State) :
    Host.Outcome State Fault Refusal :=
  .next (runUplink (.throughFrame dst kind lot payload) s)

/-- A frame the uplink port discards as a stray (R180). -/
def execUplinkStray (s : State) : Host.Outcome State Fault Refusal :=
  .next (runUplink .uplinkStray s)

/-- R178: a frame whose check does not match. -/
def execFrameCheckFailure (port : Port) (s : State) : Host.Outcome State Fault Refusal :=
  match port with
  | .cell c => .next (runEvent (arriveCell c .checkFailure) s)
  | .uplink => .next (runUplink (.frameCheckFailure .uplink) s)

/-- R179: a frame whose source is no station of the port. -/
def execSourceCheckFailure (c : CellNo) (s : State) : Host.Outcome State Fault Refusal :=
  .next (runEvent (arriveCell c .badSource) s)

/-- R179: a frame whose destination is not the floor server. -/
def execDestinationError (c : CellNo) (s : State) : Host.Outcome State Fault Refusal :=
  .next (runEvent (arriveCell c .badDestination) s)

/-- R201: a frame whose kind or length no cell sends. -/
def execWrongKindOrLength (c : CellNo) (s : State) : Host.Outcome State Fault Refusal :=
  .next (runEvent (arriveCell c .badKindOrLength) s)

/-- R48, R186: line-state loss at a cell port. -/
def execCellLineStateLoss (c : CellNo) (s : State) : Host.Outcome State Fault Refusal :=
  .next (runEvent (loseCellLine c) s)

/-- R48, R186: line-state recovery at a cell port. -/
def execCellLineStateRecovery (c : CellNo) (s : State) : Host.Outcome State Fault Refusal :=
  .next (runEvent (recoverCellLine c) s)

/-- R174: line-state loss at the uplink port. -/
def execUplinkLineStateLoss (s : State) : Host.Outcome State Fault Refusal :=
  .next (runEvent loseUplink s)

/-- R175: line-state recovery at the uplink port. -/
def execUplinkLineStateRecovery (s : State) : Host.Outcome State Fault Refusal :=
  .next (runEvent recoverUplink s)

end Sys2Proof.Machine
end

