-- ==== Sys2Proof/Machine/ResetCommands.lean ====
section
/-!
DEFINITION. The meanings of the two resets:
one definition for each command, an event of the part (Machine/Settle.lean).
-/

namespace Sys2Proof.Machine

/-- R177, R197: power-on. No frame is caused by it, and no claim is left waiting. -/
def execPowerOn (strap : BitVec 9) (cellLines : BitVec 32) (uplinkLine : Bool) (s : State) :
    Host.Outcome State Fault Refusal :=
  .next (s.poweredOn strap cellLines uplinkLine)

/-- PART.RESTART (R198). -/
def execPartRestart (tag : Half) (s : State) : Host.Outcome State Fault Refusal :=
  .next (runUplink (.partRestart tag) s)

end Sys2Proof.Machine
end

