-- ==== Sys2Proof/Machine/SendCommands.lean ====
section
/-!
DEFINITION. The meanings of sendings, notices, pulls and the service of held-off ports (chapters 8, 9):
one definition for each command, an event of the part (Machine/Settle.lean).
-/

namespace Sys2Proof.Machine

/-- R170: the end of the sending of the head entry on the uplink. -/
def execUplinkSendingEnd (s : State) : Host.Outcome State Fault Refusal :=
  .next (runEvent endUplinkSending s)

/-- R184: the sending of the command at the head of a cell's queue begins. -/
def execCommandSendingBegins (c : CellNo) (s : State) : Host.Outcome State Fault Refusal :=
  .next (runEvent (beginCommand c) s)

/-- R92: the end of the sending of a segment copy. -/
def execSegmentCopySent (c : CellNo) (s : State) : Host.Outcome State Fault Refusal :=
  .next (runEvent (endSegmentCopy c) s)

/-- R165: the end of the sending of a downlink copy. -/
def execDownlinkCopySent (c : CellNo) (s : State) : Host.Outcome State Fault Refusal :=
  .next (runEvent (endDownlinkCopy c) s)

/-- R172: a LOT.STATE notice is built. -/
def execLotStateNotice (s : State) : Host.Outcome State Fault Refusal :=
  .next (runEvent (buildIf Notice.isLotState) s)

/-- R172: a CELL.STATE notice is built. -/
def execCellStateNotice (s : State) : Host.Outcome State Fault Refusal :=
  .next (runEvent (buildIf Notice.isCellState) s)

/-- R158, R172: a RELEASE notice is built. -/
def execReleaseNotice (s : State) : Host.Outcome State Fault Refusal :=
  .next (runEvent (buildIf Notice.isRelease) s)

/-- R88, R89: the pull arbiter grants. -/
def execPullGrant (s : State) : Host.Outcome State Fault Refusal :=
  .next (runEvent grantNext s)

/-- R90: a WHOLE channel issues its next pull. -/
def execPullReissue (s : State) : Host.Outcome State Fault Refusal :=
  .next (runEvent reissueNext s)

/-- R168: the service of the held-off ports. -/
def execHeldOffPortService (s : State) : Host.Outcome State Fault Refusal :=
  .next (runEvent id s)

end Sys2Proof.Machine
end

