-- ==== Sys2Proof/Machine/TableCommands.lean ====
section
/-!
DEFINITION. The meanings of TABLE.WRITE and TABLE.READ (chapter 10):
one definition for each command, an event of the part (Machine/Settle.lean).
-/

namespace Sys2Proof.Machine

/-- TABLE.WRITE of a gate profile (R101). -/
def execTableWriteGateProfile (tag : Half) (index : Byte) (entry : ProfileImage) (s : State) :
    Host.Outcome State Fault Refusal :=
  .next (runUplink (.tableWriteGateProfile tag index entry) s)

/-- TABLE.WRITE of a catalogue entry (R75, R76). -/
def execTableWriteCatalogue (tag : Half) (index : Byte) (program : Half) (revision : Byte) (segsLessOne : Half) (noRetain : Byte) (s : State) :
    Host.Outcome State Fault Refusal :=
  .next (runUplink (.tableWriteCatalogue tag index program revision segsLessOne noRetain) s)

/-- TABLE.WRITE of a cell configuration (R27). -/
def execTableWriteCellConfiguration (tag : Half) (index : Byte) (cap : Half) (stall : Byte) (soak : Half) (s : State) :
    Host.Outcome State Fault Refusal :=
  .next (runUplink (.tableWriteCellConfiguration tag index cap stall soak) s)

/-- TABLE.WRITE of a group entry (R181). -/
def execTableWriteGroupTable (tag : Half) (index inUse value mask : Byte) (s : State) :
    Host.Outcome State Fault Refusal :=
  .next (runUplink (.tableWriteGroupTable tag index inUse value mask) s)

/-- TABLE.WRITE of the forwarding table (R166, R183). -/
def execTableWriteForwardingTable (tag : Half) (entry : ForwardImage) (s : State) : Host.Outcome State Fault Refusal :=
  .next (runUplink (.tableWriteForwardingTable tag entry) s)

/-- TABLE.WRITE of the settings of a load channel (R86). -/
def execTableWriteLoadChannelSettings (tag : Half) (index mode round enable : Byte) (s : State) :
    Host.Outcome State Fault Refusal :=
  .next (runUplink (.tableWriteLoadChannelSettings tag index mode round enable) s)

/-- TABLE.WRITE of the age limit (R56). -/
def execTableWriteAgeLimit (tag value : Half) (s : State) : Host.Outcome State Fault Refusal :=
  .next (runUplink (.tableWriteAgeLimit tag value) s)

/-- TABLE.WRITE of the rotation mode (R63). -/
def execTableWriteRotationMode (tag value : Half) (s : State) : Host.Outcome State Fault Refusal :=
  .next (runUplink (.tableWriteRotationMode tag value) s)

/-- TABLE.WRITE of the offer timeout (R192). -/
def execTableWriteOfferTimeout (tag value : Half) (s : State) : Host.Outcome State Fault Refusal :=
  .next (runUplink (.tableWriteOfferTimeout tag value) s)

/-- TABLE.WRITE of the pull limit (R88). -/
def execTableWritePullLimit (tag value : Half) (s : State) : Host.Outcome State Fault Refusal :=
  .next (runUplink (.tableWritePullLimit tag value) s)

/-- TABLE.WRITE of the grant order (R192). -/
def execTableWriteGrantOrder (tag value : Half) (s : State) : Host.Outcome State Fault Refusal :=
  .next (runUplink (.tableWriteGrantOrder tag value) s)

/-- TABLE.WRITE of the credit window (R192). -/
def execTableWriteCreditWindow (tag value : Half) (s : State) : Host.Outcome State Fault Refusal :=
  .next (runUplink (.tableWriteCreditWindow tag value) s)

/-- TABLE.WRITE of the load timeout (R89). -/
def execTableWriteLoadTimeout (tag value : Half) (s : State) : Host.Outcome State Fault Refusal :=
  .next (runUplink (.tableWriteLoadTimeout tag value) s)

/-- TABLE.WRITE of the load watermark (R164). -/
def execTableWriteLoadWatermark (tag value : Half) (s : State) : Host.Outcome State Fault Refusal :=
  .next (runUplink (.tableWriteLoadWatermark tag value) s)

/-- TABLE.WRITE of the cell share limit (R164). -/
def execTableWriteCellShareLimit (tag value : Half) (s : State) : Host.Outcome State Fault Refusal :=
  .next (runUplink (.tableWriteCellShareLimit tag value) s)

/-- TABLE.WRITE of the quarantine delay (R152). -/
def execTableWriteQuarantineDelay (tag value : Half) (s : State) : Host.Outcome State Fault Refusal :=
  .next (runUplink (.tableWriteQuarantineDelay tag value) s)

/-- TABLE.READ (R191). -/
def execTableRead (tag : Half) (table index : Byte) (s : State) : Host.Outcome State Fault Refusal :=
  .next (runUplink (.tableRead tag table index) s)

end Sys2Proof.Machine
end

