-- ==== Sys2Proof/Machine/Dispatch.lean ====
section
/-!
DEFINITION. The meaning of every command: one arm per constructor of `Instr`, in the table's order.
-/

namespace Sys2Proof.Machine

def exec (i : Instr) (s : State) : Host.Outcome State Fault Refusal :=
  match i with
  | .powerOn strap cellLines uplinkLine => Sys2Proof.Machine.execPowerOn strap cellLines uplinkLine s
  | .partRestart tag => Sys2Proof.Machine.execPartRestart tag s
  | .tableWriteGateProfile tag index entry => Sys2Proof.Machine.execTableWriteGateProfile tag index entry s
  | .tableWriteCatalogue tag index program revision segsLessOne noRetain => Sys2Proof.Machine.execTableWriteCatalogue tag index program revision segsLessOne noRetain s
  | .tableWriteCellConfiguration tag index cap stall soak => Sys2Proof.Machine.execTableWriteCellConfiguration tag index cap stall soak s
  | .tableWriteGroupTable tag index inUse value mask => Sys2Proof.Machine.execTableWriteGroupTable tag index inUse value mask s
  | .tableWriteForwardingTable tag entry => Sys2Proof.Machine.execTableWriteForwardingTable tag entry s
  | .tableWriteLoadChannelSettings tag index mode round enable => Sys2Proof.Machine.execTableWriteLoadChannelSettings tag index mode round enable s
  | .tableWriteAgeLimit tag value => Sys2Proof.Machine.execTableWriteAgeLimit tag value s
  | .tableWriteRotationMode tag value => Sys2Proof.Machine.execTableWriteRotationMode tag value s
  | .tableWriteOfferTimeout tag value => Sys2Proof.Machine.execTableWriteOfferTimeout tag value s
  | .tableWritePullLimit tag value => Sys2Proof.Machine.execTableWritePullLimit tag value s
  | .tableWriteGrantOrder tag value => Sys2Proof.Machine.execTableWriteGrantOrder tag value s
  | .tableWriteCreditWindow tag value => Sys2Proof.Machine.execTableWriteCreditWindow tag value s
  | .tableWriteLoadTimeout tag value => Sys2Proof.Machine.execTableWriteLoadTimeout tag value s
  | .tableWriteLoadWatermark tag value => Sys2Proof.Machine.execTableWriteLoadWatermark tag value s
  | .tableWriteCellShareLimit tag value => Sys2Proof.Machine.execTableWriteCellShareLimit tag value s
  | .tableWriteQuarantineDelay tag value => Sys2Proof.Machine.execTableWriteQuarantineDelay tag value s
  | .tableRead tag table index => Sys2Proof.Machine.execTableRead tag table index s
  | .lotDefine tag nameLength name start policy stepCount steps => Sys2Proof.Machine.execLotDefine tag nameLength name start policy stepCount steps s
  | .lotStart tag handle => Sys2Proof.Machine.execLotStart tag handle s
  | .lotRead tag handle => Sys2Proof.Machine.execLotRead tag handle s
  | .lotAbort tag handle => Sys2Proof.Machine.execLotAbort tag handle s
  | .lotRetire tag handle => Sys2Proof.Machine.execLotRetire tag handle s
  | .holdSet tag handle detail => Sys2Proof.Machine.execHoldSet tag handle detail s
  | .holdRelease tag handle kind mode stamp => Sys2Proof.Machine.execHoldRelease tag handle kind mode stamp s
  | .lotShip tag handle stamp => Sys2Proof.Machine.execLotShip tag handle stamp s
  | .cellClaim tag cell => Sys2Proof.Machine.execCellClaim tag cell s
  | .cellRestore tag cell => Sys2Proof.Machine.execCellRestore tag cell s
  | .cellRead tag cell => Sys2Proof.Machine.execCellRead tag cell s
  | .timeSet tag clock => Sys2Proof.Machine.execTimeSet tag clock s
  | .partRead tag => Sys2Proof.Machine.execPartRead tag s
  | .requestUnknownCode code tag => Sys2Proof.Machine.execRequestUnknownCode code tag s
  | .ready c src lot kit temp sites => Sys2Proof.Machine.execReady c src lot kit temp sites s
  | .take c src lot id => Sys2Proof.Machine.execTake c src lot id s
  | .decline c src lot id => Sys2Proof.Machine.execDecline c src lot id s
  | .unit c src lot id site bin sequence => Sys2Proof.Machine.execUnit c src lot id site bin sequence s
  | .tally c src lot id bins returned missing => Sys2Proof.Machine.execTally c src lot id bins returned missing s
  | .paused c src lot id => Sys2Proof.Machine.execPaused c src lot id s
  | .state c src lot mode alarm => Sys2Proof.Machine.execState c src lot mode alarm s
  | .loaded c src lot program revision slot result => Sys2Proof.Machine.execLoaded c src lot program revision slot result s
  | .tstate c src lot code slot => Sys2Proof.Machine.execTstate c src lot code slot s
  | .segment lot channel slot program revision number image => Sys2Proof.Machine.execSegment lot channel slot program revision number image s
  | .throughFrame dst kind lot payload => Sys2Proof.Machine.execThroughFrame dst kind lot payload s
  | .uplinkStray => Sys2Proof.Machine.execUplinkStray s
  | .frameCheckFailure port => Sys2Proof.Machine.execFrameCheckFailure port s
  | .sourceCheckFailure c => Sys2Proof.Machine.execSourceCheckFailure c s
  | .destinationError c => Sys2Proof.Machine.execDestinationError c s
  | .wrongKindOrLength c => Sys2Proof.Machine.execWrongKindOrLength c s
  | .cellLineStateLoss c => Sys2Proof.Machine.execCellLineStateLoss c s
  | .cellLineStateRecovery c => Sys2Proof.Machine.execCellLineStateRecovery c s
  | .uplinkLineStateLoss => Sys2Proof.Machine.execUplinkLineStateLoss s
  | .uplinkLineStateRecovery => Sys2Proof.Machine.execUplinkLineStateRecovery s
  | .offerDeadlineExpiry => Sys2Proof.Machine.execOfferDeadlineExpiry s
  | .stallDeadlineExpiry => Sys2Proof.Machine.execStallDeadlineExpiry s
  | .ageDeadlineExpiry => Sys2Proof.Machine.execAgeDeadlineExpiry s
  | .pullDeadlineExpiry => Sys2Proof.Machine.execPullDeadlineExpiry s
  | .loadDeadlineExpiry => Sys2Proof.Machine.execLoadDeadlineExpiry s
  | .quarantineExpiry => Sys2Proof.Machine.execQuarantineExpiry s
  | .uplinkSendingEnd => Sys2Proof.Machine.execUplinkSendingEnd s
  | .commandSendingBegins c => Sys2Proof.Machine.execCommandSendingBegins c s
  | .segmentCopySent c => Sys2Proof.Machine.execSegmentCopySent c s
  | .downlinkCopySent c => Sys2Proof.Machine.execDownlinkCopySent c s
  | .lotStateNotice => Sys2Proof.Machine.execLotStateNotice s
  | .cellStateNotice => Sys2Proof.Machine.execCellStateNotice s
  | .releaseNotice => Sys2Proof.Machine.execReleaseNotice s
  | .pullGrant => Sys2Proof.Machine.execPullGrant s
  | .pullReissue => Sys2Proof.Machine.execPullReissue s
  | .heldOffPortService => Sys2Proof.Machine.execHeldOffPortService s

end Sys2Proof.Machine
end

