-- ==== Sys2Proof/Safety.lean ====
section
/-!
DEFINITION. The terms in which claims about the D32 are made: what the waiting claims of an event never change
(`Records`), the states in which a frame or a request is taken at once, and the laws that the manual says hold of
the part's state at all times.
-/

namespace Sys2Proof.Machine

/-! ### What the claims of an event leave as they are -/

/-- A load channel less what an issued pull changes (R89). -/
structure ChannelView where
  modeInForce : ChannelMode
  image : Option Image
  base : Nat
  targets : List Target
  nextRound : List (CellNo × SlotNo)
  segs : List SegBuf
  faults : Nat
  lastFault : Option FaultCause
  deriving DecidableEq, Repr

/-- The view of a channel. -/
def Channel.view (ch : Channel) : ChannelView :=
  { modeInForce := ch.modeInForce, image := ch.image, base := ch.base, targets := ch.targets, nextRound := ch.nextRound
    segs := ch.segs, faults := ch.faults, lastFault := ch.lastFault }

/-- A cell port less what waits at it and what it sends. -/
structure PortView where
  up : Bool
  downlink : List Frame
  checkFailures : Nat
  destinationErrors : Nat
  deriving DecidableEq, Repr

/-- The view of a cell port. -/
def CellPort.view (p : CellPort) : PortView :=
  { up := p.up, downlink := p.downlink, checkFailures := p.checkFailures, destinationErrors := p.destinationErrors }

/-- Everything in the state but the uplink queue, the notice list, the pulls of the channels, the arbiter's
last-granted channel, the frames waiting at ports and the frames being sent. -/
structure Records where
  part : Part
  tables : Tables
  lots : Vector LotRec 256
  cells : Vector CellRec 32
  queue : List LotNo
  rotation : List CellNo
  nextSublot : Half
  waitQueue : List CellNo
  releaseCounter : Stamp
  channels : Vector ChannelView 8
  ports : Vector PortView 32
  uplinkUp : Bool
  headCut : Bool
  uplinkCheckFailures : Nat
  strays : Nat
  pointer : CellNo
  pending : List Instr
  deriving DecidableEq, Repr

/-- The records of a state. -/
def State.records (s : State) : Records :=
  { part := s.part, tables := s.tables, lots := s.bay.lots, cells := s.bay.cells, queue := s.bay.queue
    rotation := s.bay.rotation, nextSublot := s.bay.nextSublot, waitQueue := s.bay.waitQueue
    releaseCounter := s.bay.releaseCounter, channels := s.bay.channels.map Channel.view
    ports := s.link.ports.map CellPort.view, uplinkUp := s.link.uplinkUp, headCut := s.link.headCut
    uplinkCheckFailures := s.link.uplinkCheckFailures, strays := s.link.strays, pointer := s.link.pointer
    pending := s.pending }

/-- The records with another lot record at a handle. -/
def Records.setLot (r : Records) (h : LotNo) (l : LotRec) : Records := { r with lots := r.lots.set h l }

/-- The records with another cell record. -/
def Records.setCell (r : Records) (c : CellNo) (k : CellRec) : Records := { r with cells := r.cells.set c k }

/-- Whether an entry is a forwarded frame or a RESPONSE: what commands, and not claims, put into the uplink queue. -/
def UpEntry.traffic (e : UpEntry) : Bool :=
  match e.origin with
  | .forwarded _ => true
  | .response => true
  | _ => false

/-- The forwarded frames and the RESPONSEs in the uplink queue, in its order. -/
def State.traffic (s : State) : List UpEntry := s.link.uplink.filter UpEntry.traffic

/-! ### States in which an arrival is taken at once -/

/-- No frame waits at any port. -/
def State.Quiet (s : State) : Prop := s.link.held = [] ∧ ∀ c : CellNo, s.link.ports[c].waiting = []

/-- The uplink port takes a request at once: its line is up, a buffer is free and nothing waits (R188). -/
def State.TakesRequests (s : State) : Prop := s.Quiet ∧ s.link.uplinkUp = true ∧ 1 ≤ s.free

/-- The uplink port takes a frame that is no request. -/
def State.TakesUplink (s : State) : Prop := s.Quiet ∧ s.link.uplinkUp = true

/-- Cell port `c` takes a frame of a kind at once: its line is up and nothing waits, and the kind is absorbed or
its claim is granted (R166). -/
def State.TakesFrame (s : State) (c : CellNo) (k : CellKind) : Prop :=
  s.Quiet ∧ s.link.ports[c].up = true ∧ (s.forwarding k = .absorb ∨ s.cellClaimGranted c = true)

/-! ### What a command answers -/

/-- Nothing waits at a port, and no event is half taken. -/
def State.Settled (s : State) : Prop := s.Quiet ∧ s.bay.stamped = []

/-- A notice is owed, or stands in the uplink queue. -/
def State.Reported (s : State) (n : Notice) : Prop := n ∈ s.bay.notices ∨ ∃ e ∈ s.link.uplink, e.origin = n.origin

/-- The command answers a next state with the given records, which puts the given entries last into the traffic; the
notices named are owed or built. -/
def Gives (i : Instr) (s : State) (r : Records) (entries : List UpEntry) (reported : List Notice) : Prop :=
  ∃ t, exec i s = .next t ∧ t.records = r ∧ t.traffic = s.traffic ++ entries ∧ t.Settled ∧ ∀ n ∈ reported, t.Reported n

/-- The command answers a next state with the given records, its RESPONSE joining the traffic last. -/
def Answers (i : Instr) (s : State) (r : Records) (lot : Option LotNo) (code : Byte) (tag : Half) (reply : Reply)
    (reported : List Notice := []) : Prop :=
  Gives i s r [responseEntry s.part.station (handleField lot) code tag reply.status reply.data] reported

/-- The answer of a TABLE.WRITE or TABLE.READ that is carried out: table code, index and the entry as held (Table
11-10). -/
def writeDone (table index : Byte) (entry : List Byte) : Reply := { status := .done, data := [table, index] ++ entry }

/-- The uplink entries that a cell frame leaves: itself under FORWARD, none under ABSORB (R166). -/
def State.forwards (s : State) (c : CellNo) (src : CellStation) (lot : Half) (m : CellMsg) : List UpEntry :=
  if s.forwarding m.kind = .forward then
    [{ origin := .forwarded c, frame := cellFrame s.part.station c src lot m }]
  else []

/-- A cell frame answers a next state with the given records and goes where its kind's setting sends it. -/
def Takes (s : State) (c : CellNo) (src : CellStation) (lot : Half) (m : CellMsg) (r : Records)
    (reported : List Notice := []) : Prop :=
  Gives (m.instr c src lot) s r (s.forwards c src lot m) reported

/-- A command that puts nothing into the traffic answers a next state with the given records. -/
def Leaves (i : Instr) (s : State) (r : Records) (reported : List Notice := []) : Prop := Gives i s r [] reported

/-- As `Gives`, the answered state having a further property, of what the records leave out. -/
def GivesAnd (i : Instr) (s : State) (r : Records) (entries : List UpEntry) (reported : List Notice) (also : State → Prop) :
    Prop :=
  ∃ t, exec i s = .next t ∧ t.records = r ∧ t.traffic = s.traffic ++ entries ∧ t.Settled ∧ (∀ n ∈ reported, t.Reported n)
    ∧ also t

/-- As `Takes`, with a further property of the answered state. -/
def TakesAnd (s : State) (c : CellNo) (src : CellStation) (lot : Half) (m : CellMsg) (r : Records) (also : State → Prop) : Prop :=
  GivesAnd (m.instr c src lot) s r (s.forwards c src lot m) [] also

/-- As `Leaves`, with a further property of the answered state. -/
def LeavesAnd (i : Instr) (s : State) (r : Records) (reported : List Notice) (also : State → Prop) : Prop :=
  GivesAnd i s r [] reported also

/-- No notice is owed in `t` that was not owed in `s`, and none about a cell is owed or waiting there that was not here. -/
def State.OwesNoMore (s t : State) : Prop :=
  (∀ n ∈ t.bay.notices, n ∈ s.bay.notices) ∧ ∀ c : CellNo, t.Reported (.cellState c) → s.Reported (.cellState c)

/-- No notice is owed and no channel has a pull to issue, so that an event that frees a buffer builds nothing (R169). -/
def State.Unclaimed (s : State) : Prop :=
  s.bay.notices = [] ∧ ∀ k : ChanNo, (s.bay.chan k).current = 0 ∨ (s.bay.chan k).pull.isSome = true

/-- The uplink queue of `t` keeps every entry of `q` in its order, and is `q` itself where nothing was to be built in `s`. -/
def State.UplinkKept (s : State) (q : List UpEntry) (t : State) : Prop :=
  q.Sublist t.link.uplink ∧ (s.Unclaimed → t.link.uplink = q)

/-- The cells of a lot (R29). -/
def State.NamedBy (s : State) (h : LotNo) (c : CellNo) : Prop := ∃ a, (s.bay.cell c).assignment = some a ∧ a.lot = h

/-- No cell is IDLE, so that no match can cut a sublot (R58). -/
def State.NoIdle (s : State) : Prop := ∀ c : CellNo, (s.bay.cell c).state ≠ .idle

/-! ### Terms of the rules -/

/-- Table 11-10: lot state and change stamp. -/
def LotRec.answer (l : LotRec) : List Byte := l.state.code :: bytes32 l.stamp

/-- Section 4.4, R195: the deadline a number of milliseconds after a clock value. -/
def dueAt (clock ms : Nat) : Nat := min (clock + ms) 281474976710655

/-- R51: whether a lot stands ahead of another in the dispatch queue. -/
def queuedBefore (l : LotRec) (h : LotNo) (l' : LotRec) (h' : LotNo) : Bool :=
  if l.cls = l'.cls then decide (l.queuedAt < l'.queuedAt ∨ (l.queuedAt = l'.queuedAt ∧ h < h')) else l.cls = .expedited

/-- R51: the queue `q` with lot `h` at the place that its record `l` gives it among the other lots of the state. -/
def State.placed (s : State) (q : List LotNo) (h : LotNo) (l : LotRec) : List LotNo :=
  let others := q.filter (· ≠ h)
  let ahead (h' : LotNo) : Bool := queuedBefore (s.bay.lot h') h' l h
  others.takeWhile ahead ++ h :: others.dropWhile ahead

/-- R54: the age deadline of a lot that joins the queue. -/
def State.ageOf (s : State) (l : LotRec) : Option Nat :=
  if l.cls = .normal ∧ s.tables.settings.ageLimit ≠ 0 then
    some (dueAt l.queuedAt (s.tables.settings.ageLimit * 60000))
  else none

/-- R44: the stall deadline of a RUNNING cell after it has been armed where it may be. -/
def State.stallArmed (s : State) (c : CellNo) (r : CellRec) : Option Nat :=
  if r.pause = .none ∧ r.stallFinish = false then
    match s.tables.cellConfig[c].stall with
    | .off => r.stallDeadline
    | .s120 => some (dueAt s.part.clock 120000)
    | .s300 => some (dueAt s.part.clock 300000)
    | .s900 => some (dueAt s.part.clock 900000)
  else r.stallDeadline

/-- R28: a cell record with one more protocol error. -/
def CellRec.erred (r : CellRec) : CellRec :=
  { r with counters := { r.counters with protocolErrors := min (r.counters.protocolErrors + 1) 65535 } }

/-- R72: a cell record after a withdrawal has become due for a sublot id. -/
def CellRec.withdrawn (r : CellRec) (id : Half) (lot : Option LotNo) : CellRec :=
  let q := placeWithdraw r.commands id lot
  if q.2 then { r with commands := q.1 }.erred else { r with commands := q.1 }

/-- R41, R46, R108: a cell record after FINISH has become due for its sublot. -/
def CellRec.finished (r : CellRec) : CellRec :=
  match r.assignment with
  | none => r
  | some a =>
    if a.finishSent = true ∨ r.commands.any (·.finishes a.id) = true then r
    else
      { r with
        assignment := some { a with finishSent := true }
        commands := r.commands.filter (!·.isFinish) ++ [.finish a.id a.lot] }

/-- Table 3-3 at an open sublot of the lot that ends with `amount` to return: the lot's record and the dispatch queue, in a
state without IDLE cells, where the close of the step is not reached. -/
def State.returned (s : State) (h : LotNo) (amount : Nat) : LotRec × List LotNo :=
  let l := s.bay.lot h
  let l' := { l with remaining := l.remaining + amount, openSublots := l.openSublots - 1 }
  match l.state with
  | .closing =>
    if 0 < l'.remaining then
      let n := { l' with state := .active, stamp := l.stamp + 1, ageDeadline := s.ageOf l }
      (n, s.placed s.bay.queue h n)
    else (l', s.bay.queue)
  | .held =>
    if l.saved = some .closing ∧ 0 < l'.remaining then
      ({ l' with saved := some .active, stamp := l.stamp + 1 }, s.bay.queue)
    else (l', s.bay.queue)
  | .aborting => (if l'.openSublots = 0 then { l' with state := .aborted, stamp := l.stamp + 1 } else l', s.bay.queue)
  | _ => (l', s.bay.queue)

/-- The return of `amount` does not reach the close of the step (R6, R147). -/
def State.KeepsOpen (s : State) (h : LotNo) (amount : Nat) : Prop :=
  0 < (s.bay.lot h).remaining + amount ∨ 1 < (s.bay.lot h).openSublots

/-- The records after a sublot of lot `h` has ended with `amount` to return. -/
def State.afterReturn (s : State) (h : LotNo) (amount : Nat) : Records :=
  { s.records.setLot h (s.returned h amount).1 with queue := (s.returned h amount).2 }

/-- A program id has an entry in the catalogue (R75). -/
def State.Catalogued (s : State) (program : Half) (e : CatalogueEntry) : Prop :=
  e.program = program ∧ (∃ j : Fin 128, s.tables.catalogue[j] = some e)
    ∧ ∀ j : Fin 128, ∀ o, s.tables.catalogue[j] = some o → o.program = program → o = e

/-- R129: a RUNNING cell of a held lot. -/
def CellRec.pausedFor (r : CellRec) (h : LotNo) : CellRec :=
  match r.assignment with
  | none => r
  | some a =>
    if a.lot = h ∧ r.pause = .none then
      { r with commands := placePause r.commands a.id h, pause := .sent, stallDeadline := none }
    else r

/-- R7, R125: the record of a lot in ACTIVE, CLOSING or COMPLETE that becomes HELD with a hold set. -/
def LotRec.heldWith (l : LotRec) (holds : List HoldEntry) : LotRec :=
  { l with
    state := .held, holds := holds, stamp := l.stamp + 1, completedAt := none, quarantine := none
    quarantineSpent := false, ageDeadline := none
    saved := if l.state = .active then some .active else if l.state = .closing then some .closing else some .complete }

/-- Every cell of a lot is RUNNING. -/
def State.AllRunning (s : State) (h : LotNo) : Prop := ∀ c, s.NamedBy h c → (s.bay.cell c).state = .running

/-- R156: the record of a lot released with a number. -/
def LotRec.shipped (l : LotRec) (h : LotNo) (number : Stamp) (clock : Nat) : LotRec :=
  { l with
    state := .released, stamp := l.stamp + 1, completedAt := none, quarantine := none, quarantineSpent := false
    release :=
      some
        { number := number, lot := h, name := l.name, shipped := l.carried, time := clock
          steps := l.steps.map fun r => { input := r.input, good := r.good, loss := r.loss, missing := r.missing } } }

/-- Cell `c` stands in no list of a load channel. -/
def State.Unlisted (s : State) (c : CellNo) : Prop :=
  ∀ k : ChanNo, (∀ t ∈ (s.bay.chan k).targets, t.cell ≠ c) ∧ ∀ e ∈ (s.bay.chan k).nextRound, e.1 ≠ c

/-- R93: the view of a channel that has become IDLE. -/
def State.idleView (s : State) (k : ChanNo) : ChannelView :=
  { modeInForce := s.tables.channels[k].mode, image := none, base := 0, targets := [], nextRound := [], segs := []
    faults := (s.bay.chan k).faults, lastFault := (s.bay.chan k).lastFault }

/-- R93, R94: a channel that is IDLE, with no pull outstanding and no slot held. -/
def Channel.AtRest (ch : Channel) : Prop := ch.state = .idle ∧ ch.current = 0 ∧ ch.pull = none ∧ ch.slotHeld = false

/-- R93: the records after the round of a channel has ended, with no load waiting: it is IDLE, or starts the next round
with a mode in force. -/
def State.roundEnded (s : State) (k : ChanNo) (mode : ChannelMode) : Records :=
  let ch := s.bay.chan k
  if ch.nextRound = [] then { s.records with channels := s.records.channels.set k (s.idleView k) }
  else
    { s.records with
      channels := s.records.channels.set k
        { ch.view with
          modeInForce := mode, targets := ch.nextRound.map fun e => { cell := e.1, slot := e.2 }, nextRound := [], segs := [] }
      cells := Vector.ofFn fun c =>
        let r := s.bay.cell c
        if c ∈ ch.nextRound.map (·.1) then { r with load := r.load.map fun x => { x with place := .target } } else r }

/-- R93: what the end of a channel's round, `ch` before it, leaves of the rest of the channel: at rest, or PULLING its image
anew, every segment either not yet asked for or in the pull that may have been granted since. -/
def Channel.RoundEnded (ch ch' : Channel) : Prop :=
  (ch.nextRound = [] → ch'.AtRest)
    ∧ (ch.nextRound ≠ [] → ch'.state = .pulling ∧ ch'.current + (ch'.pull.map (·.n)).getD 0 = ch.base)

/-- R98: a cell without an assignment whose second load in a row has failed. -/
def CellRec.faultedBy (r : CellRec) (ld : LoadRec) : CellRec :=
  { r with
    state := .faulted, loadFailures := 2, load := none
    slots := r.slots.set ld.slot { r.slots[ld.slot] with state := .empty, image := none } }

/-! ### Loads that start, end and leave (chapter 4) -/

/-- R78: slot `v` is the victim for a load of a program at a revision, by the first of the four tests that finds one. -/
def CellRec.Victim (r : CellRec) (program : Half) (revision : Byte) (v : SlotNo) : Prop :=
  let holds (k : SlotNo) : Prop := r.slots[k].state ≠ .empty ∧ r.slots[k].image = some (program, revision)
  let spent (k : SlotNo) : Prop := r.slots[k].state = .stale ∨ r.slots[k].state = .altered
  let lowest (p : SlotNo → Prop) : Prop := p v ∧ ∀ k : SlotNo, k < v → ¬p k
  lowest holds
    ∨ ((∀ k : SlotNo, ¬holds k)
      ∧ (lowest (fun k : SlotNo => r.slots[k].state = .empty)
        ∨ ((∀ k : SlotNo, r.slots[k].state ≠ .empty)
          ∧ (lowest spent
            ∨ ((∀ k : SlotNo, ¬spent k) ∧ r.slots[v].state = .resident ∧ (∀ a, r.assignment = some a → a.slot ≠ some v)
              ∧ ∀ k : SlotNo, r.slots[k].state = .resident → (∀ a, r.assignment = some a → a.slot ≠ some k) →
                r.slots[v].lastUse < r.slots[k].lastUse ∨ (r.slots[v].lastUse = r.slots[k].lastUse ∧ v ≤ k))))))

/-- R87: the view of a channel that loads start, the written mode in force. -/
def State.startedView (s : State) (j : ChanNo) (im : Image) (targets : List Target) : ChannelView :=
  { modeInForce := s.tables.channels[j].mode, image := some im, base := im.segs, targets := targets, nextRound := []
    segs := [], faults := (s.bay.chan j).faults, lastFault := (s.bay.chan j).lastFault }

/-- R84: the place of a new load of an image, for slot `v` of cell `c`, and the records with its channel or the load
wait queue as it leaves them: a GATHERING channel of the image, the next round of a ROLLING one that is PULLING it, an
IDLE channel, each enabled and the lowest-numbered, or the tail of the wait queue. -/
def State.loadPlaced (s : State) (c : CellNo) (im : Image) (v : SlotNo) : LoadPlace × Records :=
  let ch (j : ChanNo) : Channel := s.bay.chan j
  let usable (j : ChanNo) : Bool := s.tables.channels[j].enabled
  let channel (j : ChanNo) (n : ChannelView) : Records := { s.records with channels := s.records.channels.set j n }
  match allChans.find? fun j =>
    usable j && decide ((ch j).image = some im ∧ (ch j).state = .gathering ∧ (ch j).targets.length < 8) with
  | some j => (.target, channel j { (ch j).view with targets := (ch j).targets ++ [{ cell := c, slot := v }] })
  | none =>
    match allChans.find? fun j =>
      usable j && decide (s.tables.channels[j].round = .rolling ∧ (ch j).image = some im ∧ (ch j).state = .pulling
        ∧ (ch j).nextRound.length < 8) with
    | some j => (.nextRound, channel j { (ch j).view with nextRound := (ch j).nextRound ++ [(c, v)] })
    | none =>
      match allChans.find? fun j => usable j && decide ((ch j).state = .idle) with
      | some j => (.target, channel j (s.startedView j im [{ cell := c, slot := v }]))
      | none => (.waiting, { s.records with waitQueue := s.bay.waitQueue ++ [c] })

/-- R83: the records after a load of a catalogue entry's image has been started into slot `v` of cell `c`, whose record
is `r` before it and which holds assignment `a`. -/
def State.loadStarted (s : State) (c : CellNo) (r : CellRec) (a : Assignment) (e : CatalogueEntry) (v : SlotNo) : Records :=
  let im : Image := { program := e.program, revision := e.revision, segs := e.segs }
  let p := s.loadPlaced c im v
  p.2.setCell c
    { r with
      state := .loading, assignment := some { a with slot := some v }
      slots := r.slots.set v { r.slots[v] with state := .loading, image := some (e.program, e.revision) }
      load := some { image := im, slot := v, place := p.1 } }

/-- R83: a cell record whose load record has ended, the slot that was loading EMPTY. -/
def CellRec.unloaded (r : CellRec) (ld : LoadRec) : CellRec :=
  { r with load := none, slots := r.slots.set ld.slot { r.slots[ld.slot] with state := .empty, image := none } }

/-- R99: a cell has joined the failed-cell set of a step, unless it is a member. -/
def LotRec.failedOn (l : LotRec) (step : Nat) (c : CellNo) : LotRec :=
  { l with
    steps := l.steps.modify (step - 1) fun r =>
      { r with failedCells := if c ∈ r.failedCells then r.failedCells else r.failedCells ++ [c] } }

/-- R99: a cell that joins the failed-cell set of a step leaves it with fewer than three members, or is a member. -/
def LotRec.FewFailed (l : LotRec) (step : Nat) (c : CellNo) : Prop :=
  c ∈ (l.stepRec step).failedCells ∨ (l.stepRec step).failedCells.length < 2

/-- R98, R99: the records after the first failure in a row of the load of a cell that holds assignment `a`: the load is
started again under it, into slot `v`. -/
def State.retried (s : State) (c : CellNo) (ld : LoadRec) (a : Assignment) (e : CatalogueEntry) (v : SlotNo) : Records :=
  (s.loadStarted c { (s.bay.cell c).unloaded ld with loadFailures := 1 } a e v).setLot a.lot
    ((s.bay.lot a.lot).failedOn a.step c)

/-- R98, R99: the records after the second failure in a row of the load of a cell that holds assignment `a`. -/
def State.failedTwice (s : State) (c : CellNo) (ld : LoadRec) (a : Assignment) : Records :=
  ((s.afterReturn a.lot a.qty).setLot a.lot ((s.returned a.lot a.qty).1.failedOn a.step c)).setCell c
    { (s.bay.cell c).faultedBy ld with assignment := none }

/-- R94: a state in which a channel has faulted: it is IDLE, and the fault is counted with its cause. -/
def State.faultedChannel (s : State) (k : ChanNo) (cause : FaultCause) : State :=
  let ch : Channel :=
    { modeInForce := s.tables.channels[k].mode, faults := min ((s.bay.chan k).faults + 1) 65535, lastFault := some cause }
  { s with bay := { s.bay with channels := s.bay.channels.set k ch } }

/-- R95: the view of a channel when the load of cell `c` has left its lists. -/
def State.leftView (s : State) (k : ChanNo) (c : CellNo) : ChannelView :=
  let ch := s.bay.chan k
  let targets := ch.targets.filter (·.cell ≠ c)
  let v : ChannelView := { ch.view with targets := targets, nextRound := ch.nextRound.filter (·.1 ≠ c) }
  if ch.targets.all (·.cell ≠ c) then v
  else if targets ≠ [] then { v with segs := ch.segs.filter fun sg => targets.any fun t => decide (t.pos ≤ sg.number) }
  else if ch.pull.isSome then { v with segs := [] }
  else s.idleView k

/-- R93, R95: when the load of cell `c` leaves, no channel starts another round or takes a waiting load. -/
def State.EndsNoRound (s : State) (c : CellNo) : Prop :=
  ∀ k : ChanNo, (s.bay.chan k).targets ≠ [] → (∀ t ∈ (s.bay.chan k).targets, t.cell = c) → (s.bay.chan k).pull = none →
    (∀ e ∈ (s.bay.chan k).nextRound, e.1 = c) ∧ ∀ w ∈ s.bay.waitQueue, w = c

/-- R83, R95: records from which the load of cell `c` has left the wait queue and the lists of every channel. -/
def State.leftBy (s : State) (c : CellNo) (r : Records) : Records :=
  { r with waitQueue := s.bay.waitQueue.filter (· ≠ c), channels := Vector.ofFn fun k => s.leftView k c }

/-- R58, R59: a cell does not qualify for the open step of a lot, its spread apart. -/
def CellRec.FitsNot (r : CellRec) (t : Tables) (l : LotRec) (h : LotNo) : Prop :=
  let st := l.routeStep (l.stepIndex.getD 0)
  r.kit = 0#8 ∨ r.kit ≠ st.kit ∨ r.sites.getD 0 < st.minSites ∨ r.excluded = some h
    ∨ (r.temp ≠ some st.temp ∧ l.cls = .normal)
    ∨ ∀ (j : Fin 128) (e : CatalogueEntry), t.catalogue[j] = some e → e.program ≠ st.program

/-- R58, R61: a cell qualifies for none of a list of lots, so that as an IDLE cell it is cut nothing of them. -/
def State.FitsNone (s : State) (c : CellNo) (q : List LotNo) : Prop :=
  ∀ h ∈ q, (s.bay.cell c).FitsNot s.tables (s.bay.lot h) h

/-! ### A step that closes and the next one (sections 1.6 and 7.2) -/

/-- R47: the state that a RUNNING cell takes at its closing TALLY. -/
def CellRec.afterTally (r : CellRec) : CellState :=
  if r.claimPending = true then .claimed
  else if r.localPending = true then .localMode
  else if r.suspect = true ∨ r.stallFinish = true then .faulted
  else .idle

/-- R47, R61: the cell goes IDLE at its closing TALLY only if it is cut nothing of a list of lots. -/
def State.RestsAfterTally (s : State) (c : CellNo) (q : List LotNo) : Prop :=
  (s.bay.cell c).afterTally ≠ .idle ∨ s.FitsNone c q

/-- R12: the record of a lot as its step `k`, with a record of it, has advanced. -/
def LotRec.advancedFrom (l : LotRec) (k : Nat) (r : StepRec) : LotRec :=
  { l with
    stamp := l.stamp + 1
    carried := if (l.routeStep k).kind = .test then min r.good r.input else l.carried + min r.good r.input
    steps := l.steps.set (k - 1) { r with state := .closed, loss := (r.input : Int) - r.tested, waivers := {} } }

/-- R12, R152: the record of a lot that becomes COMPLETE. -/
def State.completed (s : State) (l : LotRec) : LotRec :=
  { l with
    state := .complete, quarantineSpent := false
    completedAt := if l.policy = .auto then some s.part.clock else none
    quarantine := if l.policy = .auto then some (dueAt s.part.clock (s.tables.settings.quarantineDelay * 60000)) else none }

/-- R13: the input of the step behind step `k`, whose record is `r`, of the lot as `k` has advanced. -/
def State.nextInput (s : State) (l : LotRec) (k : Nat) (r : StepRec) (next : RouteStep) : Nat :=
  let p := s.tables.profiles[(l.routeStep k).profile]
  let retests :=
    (((List.finRange 16).filter fun b => p.retestBins.getLsbD b.val && !p.goodBins.getLsbD b.val).map fun b => r.bins[b]).sum
  if next.kind = .test then l.carried else min retests (r.input - l.carried)

/-- R11: the record of a lot as step `k`, whose record is `n`, opens with an input. -/
def LotRec.openedAt (l : LotRec) (k input clock : Nat) (n : StepRec) : LotRec :=
  { l with
    state := .active, stepIndex := some k, remaining := input, openSublots := 0, queuedAt := clock
    steps := l.steps.set (k - 1) { n with state := .opened, input := input } }

/-- R11, R125: the record of a lot whose step has opened with a program that the catalogue has not. -/
def State.programHeld (s : State) (l : LotRec) (k : Nat) (program : Half) : LotRec :=
  { l with
    state := .held, saved := some .active, completedAt := none, quarantine := none, quarantineSpent := false
    ageDeadline := none
    holds :=
      [{ kind := .program, origin := .program, raisedAt := s.part.clock, stepIndex := k, occurrences := 1
         detail := .program program none }] }

/-! ### The service of held-off ports (section 8.3) -/

/-- The frames of a cell that the wrong station sends (R26), by their lot handle: each is a protocol error when it is taken. -/
def misdirectedOf : Arrival → Option (Half × CellMsg)
  | .frame .tester lot m => if m.kind = .loaded ∨ m.kind = .tstate then none else some (lot, m)
  | _ => none

/-- R168: the ports in the order of a round. -/
def State.roundOrder (s : State) : List CellNo :=
  (List.finRange 32).filter (s.link.pointer < ·) ++ (List.finRange 32).filter (· ≤ s.link.pointer)

/-- R166, R168: the frame at the head of a held-off port would be taken: it is absorbed, or the cell has a share left. -/
def State.Served (s : State) (c : CellNo) : Prop :=
  ∃ a rest x, s.link.ports[c].waiting = a :: rest ∧ misdirectedOf a = some x
    ∧ (s.forwarding x.2.kind = .absorb ∨ s.share c < s.tables.settings.cellShareLimit)

/-- R168: the frames at the ports leave one round to do: what stands at the head of a port is any misdirected frame, and
what stands behind one that is taken is of ABSORB kinds. -/
def State.OneRound (s : State) : Prop :=
  ∀ (c : CellNo) (a : Arrival) (rest : List Arrival), s.link.ports[c].waiting = a :: rest →
    (misdirectedOf a).isSome = true ∧ ∀ b ∈ rest, (misdirectedOf b).any (fun x => decide (s.forwarding x.2.kind = .absorb)) = true

/-- R166: the uplink entries that frames taken at a port leave: those of FORWARD kinds. -/
def State.forwardsOf (s : State) (c : CellNo) (frames : List Arrival) : List UpEntry :=
  (frames.filterMap misdirectedOf).flatMap fun x => s.forwards c .tester x.1 x.2

/-- A field of an answer's data stands at a place of it. -/
def FieldAt (data : List Byte) (place : Nat) (field : List Byte) : Prop := (data.drop place).take field.length = field

/-! ### Laws of the state -/

/-- Table 10-4: every setting is in its range. -/
def Settings.InRange (k : Settings) : Prop :=
  k.ageLimit ≤ 1440 ∧ (1 ≤ k.offerTimeout ∧ k.offerTimeout ≤ 600) ∧ (1 ≤ k.pullLimit ∧ k.pullLimit ≤ 4)
    ∧ (1 ≤ k.creditWindow ∧ k.creditWindow ≤ 16) ∧ (10 ≤ k.loadTimeout ∧ k.loadTimeout ≤ 3600)
    ∧ (128 ≤ k.loadWatermark ∧ k.loadWatermark ≤ 1536) ∧ (8 ≤ k.cellShareLimit ∧ k.cellShareLimit ≤ 256)
    ∧ k.quarantineDelay ≤ 1440

/-- Table 5-1: every field of a profile is in its range. -/
def GateProfile.InRange (p : GateProfile) : Prop :=
  p.yieldFloor ≤ 10000 ∧ (1 ≤ p.minSample ∧ p.minSample ≤ 65535) ∧ (∀ b : BinNo, p.ceilings[b] ≤ 10000)
    ∧ p.siteDelta ≤ 10000 ∧ (1 ≤ p.siteMin ∧ p.siteMin ≤ 65535) ∧ p.runLimit ≤ 255 ∧ p.lossLimit ≤ 65535
    ∧ p.tolerance ≤ 255 ∧ (1 ≤ p.sublotSize ∧ p.sublotSize ≤ 65535) ∧ (1 ≤ p.spread ∧ p.spread ≤ 8)

/-- Table 2-2: every field of a cell configuration is in its range. -/
def CellConfig.InRange (k : CellConfig) : Prop := 1 ≤ k.cap ∧ k.cap ≤ 65535 ∧ k.soak ≤ 3600

/-- R75: a used catalogue entry names a program by an id other than 0, which no other entry has, and 1 to 65,536 segments. -/
def Tables.CatalogueLaw (t : Tables) : Prop :=
  ∀ (i : Fin 128) (e : CatalogueEntry), t.catalogue[i] = some e →
    e.program ≠ 0#16 ∧ (1 ≤ e.segs ∧ e.segs ≤ 65536)
      ∧ ∀ (j : Fin 128) (o : CatalogueEntry), t.catalogue[j] = some o → o.program = e.program → j = i

/-- The tables that hold numbers are in their ranges (R27, R101, R192), and the catalogue keeps its law (R75). -/
def Tables.InRange (t : Tables) : Prop :=
  t.settings.InRange ∧ (∀ i : Fin 64, t.profiles[i].InRange) ∧ (∀ c : CellNo, t.cellConfig[c].InRange) ∧ t.CatalogueLaw

/-- R89, R90: an outstanding pull has a segment still to come. -/
def Bay.PullsOpen (b : Bay) : Prop := ∀ k : ChanNo, ∀ p : Pull, (b.chan k).pull = some p → p.arrived < p.n

/-- R161: the pool's counts sum to its size, with pulls that wait for something and a watermark that leaves room. -/
def State.PoolLaw (s : State) : Prop :=
  s.free + s.occupied + s.reserved = Config.poolSize ∧ s.bay.PullsOpen ∧ 128 ≤ s.tables.settings.loadWatermark

/-- R123, R7: a lot is HELD exactly when its hold set is not empty and exactly when it has a saved state, and its
entries stand in strict priority order, so that no kind has two. -/
def LotRec.HoldLaw (l : LotRec) : Prop :=
  (l.state = .held ↔ l.holds ≠ []) ∧ (l.state = .held ↔ l.saved.isSome = true)
    ∧ l.holds.Pairwise fun a b => a.kind.priority < b.kind.priority

/-- R6, R51: an ACTIVE lot, or one held from ACTIVE, has quantity to cut; a CLOSING lot, or one held from CLOSING, has
none; a route has at most 6 steps. -/
def LotRec.QuantityLaw (l : LotRec) : Prop :=
  (l.state = .active → 0 < l.remaining) ∧ (l.state = .closing → l.remaining = 0)
    ∧ (l.saved = some .active → 0 < l.remaining) ∧ (l.saved = some .closing → l.remaining = 0) ∧ l.route.length ≤ 6

/-- R51: the dispatch queue holds exactly the ACTIVE lots, each once, in its order. -/
def State.QueueLaw (s : State) : Prop :=
  (∀ h : LotNo, h ∈ s.bay.queue ↔ (s.bay.lot h).state = .active)
    ∧ s.bay.queue.Pairwise fun h h' => queuedBefore (s.bay.lot h) h (s.bay.lot h') h' = true

/-- The laws of the lot table and the dispatch queue. -/
def State.LotLaw (s : State) : Prop :=
  (∀ h : LotNo, (s.bay.lot h).HoldLaw ∧ (s.bay.lot h).QuantityLaw) ∧ s.QueueLaw

/-- R63: the rotation list orders all 32 cells, each once. -/
def State.RotationLaw (s : State) : Prop := s.bay.rotation.Perm allCells

/-- R172: each notice stands in the notice list at most once. -/
def State.NoticeLaw (s : State) : Prop := s.bay.notices.Nodup

/-- R184: a command queue holds at most one command of each kind, and a WITHDRAW names 1 to 8 ids. -/
def CommandLaw (q : List Command) : Prop :=
  q.countP Command.isOffer ≤ 1 ∧ q.countP Command.isWithdraw ≤ 1 ∧ q.countP Command.isFinish ≤ 1
    ∧ q.countP Command.isPause ≤ 1 ∧ q.countP Command.isResume ≤ 1 ∧ q.count .restart ≤ 1
    ∧ ∀ ids, Command.withdraw ids ∈ q → 1 ≤ ids.length ∧ ids.length ≤ 8

/-- The command law of every cell. -/
def State.CommandLaw (s : State) : Prop := ∀ c : CellNo, Machine.CommandLaw (s.bay.cell c).commands

/-- R29, R64, R66: the assignment of an OFFERED or RUNNING cell names its program slot. -/
def State.SlotLaw (s : State) : Prop :=
  ∀ c : CellNo, (s.bay.cell c).state ∈ [.offered, .running] →
    ∃ (a : Assignment) (k : SlotNo), (s.bay.cell c).assignment = some a ∧ a.slot = some k

/-- R194: the floor clock is a 48-bit value. -/
def State.ClockLaw (s : State) : Prop := s.part.clock ≤ Config.clockMax

end Sys2Proof.Machine
end

