-- ==== Sys2Proof/Certificates/Slice0/Obligations.lean ====
section
/-!
DEFINITION. The statements for the provers. `Answers`, `Takes` and `Leaves` (Safety.lean) say that the command answers
a next state, what all its records are and what joins the uplink queue; a record not named is unchanged.
-/

open Sys2Proof Sys2Proof.Machine

/-! ### The block and its resets -/

/-- The step takes the command at the front of the queue, on the state with the queue's rest. -/
def Obligations.StepTakesFrontCommand : Prop :=
  ∀ (c : Instr) (rest : List Instr) (s : State), s.pending = c :: rest → step s = exec c { s with pending := rest }

/-- The model's choice (notes/assumptions/2.md), after R194 and R195: with no command waiting, an offer expiry that is
due is taken, and with nothing due of any kind the clock advances by one, staying at its largest value. -/
def Obligations.IdleStepPassesTime : Prop :=
  ∀ s : State, s.pending = [] → s.Quiet →
    ((firstDue s.part.clock s.bay.offerDeadlines).isSome = true → step s = exec .offerDeadlineExpiry s)
    ∧ ((firstDue s.part.clock s.bay.offerDeadlines = none ∧ firstDue s.part.clock s.bay.stallDeadlines = none
        ∧ firstDue s.part.clock s.bay.ageDeadlines = none ∧ firstDue s.part.clock s.bay.pullDeadlines = none
        ∧ firstDue s.part.clock s.bay.loadDeadlines = none ∧ firstDue s.part.clock s.bay.quarantineDeadlines = none) →
      ∃ t, step s = .next t ∧ t.traffic = s.traffic
        ∧ t.records = { s.records with part := { s.part with clock := min (s.part.clock + 1) 281474976710655 } })

/-- The model's choice (notes/assumptions/34.md): no command stops, so that for every command and every state a next state is
answered. Its queue of waiting commands, the model's own (notes/assumptions/14.md, 36.md), is as it was. -/
def Obligations.EveryCommandAnswersAndKeepsQueue : Prop :=
  ∀ (i : Instr) (s : State), ∃ t, exec i s = .next t ∧ t.pending = s.pending

/-- R25, R50, R74, R100, R122, R160, R176, R187, R197, power-on columns: what power-on leaves, from any state; and
the model's reset state is power-on with the strap at 0 and every line up (notes/assumptions/1.md). -/
def Obligations.PowerOnValues : Prop :=
  (∀ (strap : BitVec 9) (lines : BitVec 32) (up : Bool) (s : State), ∃ t, exec (.powerOn strap lines up) s = .next t
    ∧ t.part.station.toNat = 128 * max strap.toNat 1 ∧ t.part.strap = strap ∧ t.part.clock = 0 ∧ t.part.resetCause = .power
    ∧ (∀ h : LotNo, (t.bay.lot h).state = .free ∧ (t.bay.lot h).stamp = 0#32 ∧ (t.bay.lot h).holds = []
        ∧ (t.bay.lot h).release = none)
    ∧ (∀ c : CellNo, (t.bay.cell c).state = .offline ∧ (t.bay.cell c).kit = 0#8 ∧ (t.bay.cell c).temp = none
        ∧ (t.bay.cell c).sites = none ∧ (t.bay.cell c).alarm = 0#16 ∧ (t.bay.cell c).assignment = none
        ∧ (t.bay.cell c).pause = .none ∧ (t.bay.cell c).suspect = false ∧ (t.bay.cell c).excluded = none
        ∧ (t.bay.cell c).stallDeadline = none ∧ (t.bay.cell c).loadFailures = 0 ∧ (t.bay.cell c).counters = {}
        ∧ (t.bay.cell c).load = none ∧ (t.bay.cell c).commands = []
        ∧ ∀ k : SlotNo, (t.bay.cell c).slots[k] = { state := .empty, image := none, lastUse := 0 })
    ∧ (∀ k : ChanNo, (t.bay.chan k).state = .idle ∧ (t.bay.chan k).image = none ∧ (t.bay.chan k).targets = []
        ∧ (t.bay.chan k).segs = [] ∧ (t.bay.chan k).pull = none ∧ (t.bay.chan k).faults = 0
        ∧ (t.bay.chan k).lastFault = none ∧ t.tables.channels[k] = { mode := .burst, round := .single, enabled := true })
    ∧ t.bay.queue = [] ∧ t.bay.rotation = List.finRange 32 ∧ t.bay.nextSublot = 1#16 ∧ t.bay.releaseCounter = 1#32
    ∧ t.bay.lastGranted = none ∧ t.bay.notices = [] ∧ t.free = 2048 ∧ t.occupied = 0 ∧ t.reserved = 0
    ∧ t.link.uplink = [] ∧ t.link.pointer = 31 ∧ t.link.uplinkUp = up ∧ t.link.strays = 0
    ∧ (∀ c : CellNo, t.link.ports[c].up = lines.getLsbD c.val ∧ t.link.ports[c].downlink = [] ∧ t.link.ports[c].waiting = [])
    ∧ t.tables.settings =
      { ageLimit := 240
        rotationMode := .rotating
        offerTimeout := 20
        pullLimit := 2
        grantOrder := .rotating
        creditWindow := 8
        loadTimeout := 120
        loadWatermark := 512
        cellShareLimit := 48
        quarantineDelay := 30 }
    ∧ (∀ i : Fin 64, t.tables.profiles[i] =
      { yieldFloor := 0
        minSample := 1
        ceilings := Vector.replicate 16 10000
        siteDelta := 10000
        siteMin := 1
        runLimit := 0
        lossLimit := 0
        tolerance := 0
        goodBins := 2#16
        retestBins := 0#16
        sublotSize := 1000
        spread := 1
        finish := .auto })
    ∧ (∀ i : Fin 128, t.tables.catalogue[i] = none)
    ∧ (∀ c : CellNo, t.tables.cellConfig[c] = { cap := 2000, stall := .off, soak := 900 })
    ∧ (∀ i : Fin 4, t.tables.groups[i].inUse = false) ∧ (∀ k : Fin 9, t.tables.forwarding[k] = .forward))
  ∧ ∀ s : State, exec (.powerOn 0#9 (BitVec.allOnes 32) true) s = .next { State.reset with pending := s.pending }

/-- R198, with the values after a floor restart of R25, R50, R74, R100, R176 and R187: what PART.RESTART leaves and
what it keeps. -/
def Obligations.PartRestartValues : Prop :=
  ∀ (tag : Half) (s : State), s.TakesRequests → ∃ t, exec (.partRestart tag) s = .next t
    ∧ (∀ h : LotNo, t.bay.lot h = { stamp := (s.bay.lot h).stamp })
    ∧ (∀ c : CellNo, t.bay.cell c = { counters := (s.bay.cell c).counters, commands := [.restart] })
    ∧ (∀ k : ChanNo, t.bay.chan k =
      { modeInForce := s.tables.channels[k].mode
        faults := (s.bay.chan k).faults
        lastFault := (s.bay.chan k).lastFault })
    ∧ t.bay.queue = [] ∧ t.bay.rotation = List.finRange 32 ∧ t.bay.waitQueue = [] ∧ t.bay.notices = []
    ∧ t.bay.lastGranted = none ∧ t.bay.nextSublot = s.bay.nextSublot ∧ t.bay.releaseCounter = s.bay.releaseCounter
    ∧ t.tables = s.tables ∧ t.part = { s.part with resetCause := .restart }
    ∧ t.free = 2047 ∧ t.occupied = 1 ∧ t.reserved = 0 ∧ t.link.pointer = 31
    ∧ t.link.uplink = [responseEntry s.part.station 0xFFFF#16 0x42#8 tag .done
        ([1#8] ++ beBytes 6 s.part.clock ++ bytes32 s.bay.releaseCounter ++ bytes16 s.bay.nextSublot)]
    ∧ (∀ c : CellNo, t.link.ports[c] = { s.link.ports[c] with downlink := [], tx := {} })
    ∧ t.link.strays = s.link.strays ∧ t.link.uplinkCheckFailures = s.link.uplinkCheckFailures
    ∧ t.link.uplinkUp = true ∧ t.pending = s.pending

/-! ### Tables and settings -/

/-- R101, Table 5-1: a gate profile is replaced whole, each field brought into its range, and the response carries it as held;
a read answers with the fields as held; an index outside 0 to 63 is UNKNOWN. Nothing else changes. -/
def Obligations.GateProfileWrite : Prop :=
  ∀ (tag : Half) (index : Byte) (e : ProfileImage) (s : State), s.TakesRequests →
    let p : GateProfile :=
      { yieldFloor := min e.yieldFloor.toNat 10000, minSample := max e.minSample.toNat 1
        ceilings := Vector.ofFn fun b => min e.ceilings[b].toNat 10000, siteDelta := min e.siteDelta.toNat 10000
        siteMin := max e.siteMin.toNat 1, runLimit := e.runLimit.toNat, lossLimit := e.lossLimit.toNat
        tolerance := e.tolerance.toNat, goodBins := e.goodBins, retestBins := e.retestBins
        sublotSize := max e.sublotSize.toNat 1, spread := max 1 (min e.spread.toNat 8)
        finish := if e.finish = 1#8 then .notify else .auto }
    (∀ h : index.toNat < 64,
      Answers (.tableWriteGateProfile tag index e) s
        { s.records with tables := { s.tables with profiles := s.tables.profiles.set index.toNat p h } }
        none 0x01#8 tag (writeDone 1#8 index (profileBytes p)))
    ∧ (64 ≤ index.toNat →
      Answers (.tableWriteGateProfile tag index e) s s.records none 0x01#8 tag { status := .unknown, data := [] })
    ∧ (∀ h : index.toNat < 64,
      Answers (.tableRead tag 1#8 index) s s.records none 0x02#8 tag
        (writeDone 1#8 index (profileBytes s.tables.profiles[index.toNat])))
    ∧ (64 ≤ index.toNat →
      Answers (.tableRead tag 1#8 index) s s.records none 0x02#8 tag { status := .unknown, data := [] })

/-- R75, R76: a catalogue write is UNKNOWN out of range and STATE for an id that another entry holds; else the entry
is replaced and the RESIDENT slots that hold its former id, if the id went or its revision changed, become STALE
(here in a catalogue that keeps its law, which every write keeps). The zeros
that the answer carries beside program id 0 for an unused entry are the model's choice (notes/assumptions/42.md). -/
def Obligations.CatalogueWrite : Prop :=
  ∀ (tag : Half) (index : Byte) (program : Half) (revision : Byte) (segsLessOne : Half) (noRetain : Byte) (s : State),
    s.TakesRequests → s.tables.CatalogueLaw →
    let i : Instr := .tableWriteCatalogue tag index program revision segsLessOne noRetain
    let e : Option CatalogueEntry :=
      if program = 0#16 then none
      else some { program := program, revision := revision, segs := segsLessOne.toNat + 1, noRetain := decide (noRetain ≠ 0#8) }
    (128 ≤ index.toNat → Answers i s s.records none 0x01#8 tag { status := .unknown, data := [] })
    ∧ ((h : index.toNat < 128) →
      ((program ≠ 0#16 ∧ ∃ j : Fin 128, j.val ≠ index.toNat ∧ ∃ o, s.tables.catalogue[j] = some o ∧ o.program = program) →
        Answers i s s.records none 0x01#8 tag { status := .state, data := [] })
      ∧ (¬(program ≠ 0#16 ∧ ∃ j : Fin 128, j.val ≠ index.toNat ∧ ∃ o, s.tables.catalogue[j] = some o ∧ o.program = program) →
        let stale (x : Slot) : Prop :=
          ∃ o, s.tables.catalogue[index.toNat] = some o ∧ x.state = .resident
            ∧ (if program = o.program then revision ≠ o.revision ∧ x.image = some (o.program, o.revision)
                else ∃ r, x.image = some (o.program, r))
        Answers i s
          { s.records with
            tables := { s.tables with catalogue := s.tables.catalogue.set index.toNat e h }
            cells := s.bay.cells.map fun r =>
              { r with slots := r.slots.map fun x => @ite _ (stale x) (Classical.dec _) { x with state := .stale } x } }
          none 0x01#8 tag (writeDone 2#8 index (catalogueBytes e))))

/-- R27, R181, R183: writes of a cell configuration (a write of OFF cancels the cell's stall deadline), of a group
entry (values modulo 64) and of the forwarding table (one kind, or all nine); UNKNOWN outside each table. The model's
choices: codes other than 0 and 1 of a group's use and of a forwarding setting are accepted, as a free value (notes/assumptions/9.md,
10.md). That an unused group entry holds match and mask 0 is how R191 has it read (24.md). -/
def Obligations.ConfigurationGroupAndForwardingWrites : Prop :=
  ∀ (tag : Half) (index : Byte) (s : State), s.TakesRequests →
    (∀ (cap : Half) (stall : Byte) (soak : Half),
      let k : CellConfig :=
        { cap := max cap.toNat 1, soak := min soak.toNat 3600
          stall := if stall = 1#8 then .s120 else if stall = 2#8 then .s300 else if stall = 3#8 then .s900 else .off }
      let i : Instr := .tableWriteCellConfiguration tag index cap stall soak
      (∀ h : index.toNat < 32,
        let c : CellNo := ⟨index.toNat, h⟩
        let r := s.bay.cell c
        Answers i s
          ({ s.records with tables := { s.tables with cellConfig := s.tables.cellConfig.set c k } }.setCell c
            { r with stallDeadline := if k.stall = StallChoice.off then none else r.stallDeadline })
          none 0x01#8 tag (writeDone 3#8 index (cellConfigBytes k)))
      ∧ (32 ≤ index.toNat → Answers i s s.records none 0x01#8 tag { status := .unknown, data := [] }))
    ∧ (∀ inUse value mask : Byte,
      let g : GroupEntry :=
        if groupUseOf inUse then
          { inUse := true, value := BitVec.ofNat 6 (value.toNat % 64), mask := BitVec.ofNat 6 (mask.toNat % 64) }
        else { inUse := false, value := 0#6, mask := 0#6 }
      let i : Instr := .tableWriteGroupTable tag index inUse value mask
      (∀ h : index.toNat < 4,
        Answers i s { s.records with tables := { s.tables with groups := s.tables.groups.set index.toNat g h } }
          none 0x01#8 tag (writeDone 4#8 index (groupBytes g)))
      ∧ (4 ≤ index.toNat → Answers i s s.records none 0x01#8 tag { status := .unknown, data := [] }))
    ∧ (∀ code : Byte,
      (∀ h : 1 ≤ index.toNat ∧ index.toNat ≤ 9,
        Answers (.tableWriteForwardingTable tag (.one index code)) s
          { s.records with
            tables := { s.tables with
              forwarding := s.tables.forwarding.set (index.toNat - 1) (forwardingOf code) (by omega) } }
          none 0x01#8 tag
          { status := .done, data := [5#8, index] ++ [forwardingByte (forwardingOf code)] })
      ∧ (¬(1 ≤ index.toNat ∧ index.toNat ≤ 9) → index ≠ 0xFF#8 →
        Answers (.tableWriteForwardingTable tag (.one index code)) s s.records none 0x01#8 tag
          { status := .unknown, data := [] }))
    ∧ ∀ codes : Vector Byte 9,
      Answers (.tableWriteForwardingTable tag (.all codes)) s
        { s.records with tables := { s.tables with forwarding := codes.map forwardingOf } } none 0x01#8 tag
        (writeDone 5#8 0xFF#8 (codes.toList.map fun k => forwardingByte (forwardingOf k)))

/-- R85, R86, R87, R191: a write of a channel's settings, a code that names nothing taken as BURST, SINGLE or enabled. The
mode takes force at once on an IDLE channel. A channel that is IDLE and is written enabled takes the head of the load wait
queue, and in queue order up to seven further waiting loads of its image; else nothing more changes. -/
def Obligations.ChannelSettingsWrite : Prop :=
  ∀ (tag : Half) (index mode round enable : Byte) (s : State), s.TakesRequests →
    let i : Instr := .tableWriteLoadChannelSettings tag index mode round enable
    let k : ChannelSettings :=
      { mode := if mode = 0#8 then .whole else if mode = 2#8 then .paced else .burst
        round := if round = 1#8 then .rolling else .single, enabled := decide (enable ≠ 0#8) }
    (8 ≤ index.toNat → Answers i s s.records none 0x01#8 tag { status := .unknown, data := [] })
    ∧ ∀ h : index.toNat < 8,
      let c : ChanNo := ⟨index.toNat, h⟩
      let ch := s.bay.chan c
      let written : Records := { s.records with tables := { s.tables with channels := s.tables.channels.set c k } }
      let answers (r : Records) : Prop := Answers i s r none 0x01#8 tag (writeDone 6#8 index (channelSettingsBytes k))
      (s.bay.waitQueue = [] ∨ ch.state ≠ .idle ∨ enable = 0#8 →
        answers
          { written with
            channels := s.records.channels.set c
              { ch.view with modeInForce := if ch.state = .idle then k.mode else ch.modeInForce } })
      ∧ ∀ (first : CellNo) (rest : List CellNo) (ld : LoadRec), s.bay.waitQueue = first :: rest → s.bay.waitQueue.Nodup →
        (s.bay.cell first).load = some ld → ch.state = .idle → enable ≠ 0#8 →
        let taken := first :: (rest.filter fun w => (s.bay.cell w).load.any (·.image = ld.image)).take 7
        let targets := taken.filterMap fun w => (s.bay.cell w).load.map fun x => { cell := w, slot := x.slot }
        answers
          { written with
            waitQueue := rest.filter (· ∉ taken)
            channels := s.records.channels.set c { s.startedView c ld.image targets with modeInForce := k.mode }
            cells := Vector.ofFn fun w =>
              let r := s.bay.cell w
              if w ∈ taken then { r with load := r.load.map fun x => { x with place := .target } } else r }

/-- R56, R63, R192, Table 10-4: each setting is clamped to its range and answered with the value as held. Offer timeout, pull
limit, grant order, credit window, load timeout, load watermark, cell share limit and quarantine delay act on nothing in
flight. A new age limit forms again, or cancels, the age deadline of every queued NORMAL lot and of no other; a write of
the value held changes nothing. FIXED puts the rotation list in cell number order, ROTATING leaves it. -/
def Obligations.SettingWrites : Prop :=
  (∀ (tag v : Half) (s : State), s.TakesRequests →
    let k := s.tables.settings
    let set (n : Settings) : Records := { s.records with tables := { s.tables with settings := n } }
    let n := v.toNat
    let held (number : Byte) (value : Nat) : Reply := writeDone 7#8 number (beBytes 2 value)
    let order : Turning := if v = 1#16 then .fixed else .rotating
    Answers (.tableWriteOfferTimeout tag v) s (set { k with offerTimeout := max 1 (min n 600) }) none 0x01#8 tag
      (held 2#8 (max 1 (min n 600)))
    ∧ Answers (.tableWritePullLimit tag v) s (set { k with pullLimit := max 1 (min n 4) }) none 0x01#8 tag
      (held 3#8 (max 1 (min n 4)))
    ∧ Answers (.tableWriteGrantOrder tag v) s (set { k with grantOrder := order }) none 0x01#8 tag
      (held 4#8 (if order = .fixed then 1 else 0))
    ∧ Answers (.tableWriteCreditWindow tag v) s (set { k with creditWindow := max 1 (min n 16) }) none 0x01#8 tag
      (held 5#8 (max 1 (min n 16)))
    ∧ Answers (.tableWriteLoadTimeout tag v) s (set { k with loadTimeout := max 10 (min n 3600) }) none 0x01#8 tag
      (held 6#8 (max 10 (min n 3600)))
    ∧ Answers (.tableWriteLoadWatermark tag v) s (set { k with loadWatermark := max 128 (min n 1536) }) none 0x01#8 tag
      (held 7#8 (max 128 (min n 1536)))
    ∧ Answers (.tableWriteCellShareLimit tag v) s (set { k with cellShareLimit := max 8 (min n 256) }) none 0x01#8 tag
      (held 8#8 (max 8 (min n 256)))
    ∧ Answers (.tableWriteQuarantineDelay tag v) s (set { k with quarantineDelay := min n 1440 }) none 0x01#8 tag
      (held 9#8 (min n 1440)))
  ∧ (∀ (tag v : Half) (s : State), s.TakesRequests →
    let limit := min v.toNat 1440
    let aged (h : LotNo) (l : LotRec) : LotRec :=
      if h ∈ s.bay.queue then
        { l with
          ageDeadline :=
            if l.cls = .normal ∧ limit ≠ 0 then some (min (l.queuedAt + limit * 60000) 281474976710655) else none }
      else l
    let order : Turning := if v = 1#16 then .fixed else .rotating
    Answers (.tableWriteAgeLimit tag v) s
      (if limit = s.tables.settings.ageLimit then s.records
        else
          { s.records with
            tables := { s.tables with settings := { s.tables.settings with ageLimit := limit } }
            lots := Vector.ofFn fun h => aged h (s.bay.lot h) })
      none 0x01#8 tag (writeDone 7#8 0#8 (beBytes 2 limit))
    ∧ Answers (.tableWriteRotationMode tag v) s
      { s.records with
        tables := { s.tables with settings := { s.tables.settings with rotationMode := order } }
        rotation := if order = .fixed then List.finRange 32 else s.bay.rotation }
      none 0x01#8 tag (writeDone 7#8 1#8 (beBytes 2 (if order = .fixed then 1 else 0))))

/-- R24, R43, R191, R193: TABLE.READ, LOT.READ, CELL.READ and PART.READ answer and change no record; an address out of range
is UNKNOWN. The data of LOT.READ, CELL.READ and PART.READ has the length of Tables 11-11, 11-15 and 11-16, with these fields at
their places. Whether the free and occupied counts of PART.READ take in the buffer of its own RESPONSE is the model's free
value (notes/assumptions/12.md). -/
def Obligations.ReadsAnswerAndChangeNothing : Prop :=
  (∀ (tag : Half) (s : State), s.TakesRequests →
    (∀ table index : Byte,
      (∀ entry, s.tables.entryBytes table index = some entry →
        Answers (.tableRead tag table index) s s.records none 0x02#8 tag (writeDone table index entry))
      ∧ (s.tables.entryBytes table index = none →
        Answers (.tableRead tag table index) s s.records none 0x02#8 tag { status := .unknown, data := [] }))
    ∧ (∀ handle : Half,
      (∀ h : handle.toNat < 256,
        Answers (.lotRead tag handle) s s.records (some ⟨handle.toNat, h⟩) 0x12#8 tag
          { status := .done, data := lotReadBytes (s.bay.lot ⟨handle.toNat, h⟩) })
      ∧ (256 ≤ handle.toNat →
        Answers (.lotRead tag handle) s s.records none 0x12#8 tag { status := .unknown, data := [] }))
    ∧ (∀ cell : Byte,
      (∀ h : cell.toNat < 32,
        Answers (.cellRead tag cell) s s.records none 0x32#8 tag
          { status := .done, data := cellReadBytes s ⟨cell.toNat, h⟩ })
      ∧ (32 ≤ cell.toNat →
        Answers (.cellRead tag cell) s s.records none 0x32#8 tag { status := .unknown, data := [] }))
    ∧ Answers (.partRead tag) s s.records none 0x41#8 tag { status := .done, data := partReadBytes s })
  ∧ (∀ l : LotRec,
    let data := lotReadBytes l
    data.length = 792 ∧ FieldAt data 1 ([l.state.code, savedCode l.saved] ++ beBytes 1 l.name.length)
    ∧ FieldAt data 22 (beBytes 1 (l.stepIndex.getD 0) ++ beBytes 3 l.startQty ++ beBytes 3 l.carried ++ beBytes 3 l.remaining)
    ∧ FieldAt data 32 (beBytes 1 l.openSublots ++ beBytes 6 l.queuedAt ++ beBytes 6 (l.completedAt.getD 0))
    ∧ FieldAt data 45 (beBytes 6 (l.quarantine.getD 0) ++ bytes32 l.stamp ++ [leadingCode l] ++ beBytes 1 l.route.length)
    ∧ (∀ (k : Fin 6) (r : StepRec), l.steps[k.val]? = some r →
      FieldAt data (99 + 73 * k.val)
        ([r.state.code] ++ beBytes 3 r.input ++ beBytes 3 r.tested ++ beBytes 3 r.good ++ r.bins.toList.flatMap (beBytes 3)
          ++ beBytes 3 r.missing ++ signedBytes 4 r.loss ++ beBytes 2 (if r.tested = 0 then 0 else r.good * 10000 / r.tested)))
    ∧ FieldAt data 537 (beBytes 1 l.holds.length)
    ∧ (∀ (k : Fin 8) (e : HoldEntry), l.holds[k.val]? = some e →
      FieldAt data (538 + 18 * k.val)
        ([e.kind.code, e.origin.code] ++ beBytes 6 e.raisedAt ++ beBytes 1 e.stepIndex ++ beBytes 1 e.occurrences))
    ∧ ∀ r, l.release = some r → FieldAt data 682 (bytes32 r.number ++ beBytes 1 r.lot.val))
  ∧ (∀ (s : State) (c : CellNo),
    let data := cellReadBytes s c
    let r := s.bay.cell c
    let k := r.counters
    data.length = 213 ∧ FieldAt data 0 (beBytes 1 c.val ++ [r.state.code, r.kit])
    ∧ (r.assignment = none → FieldAt data 10 (List.replicate 10 0#8 ++ [0xFF#8, 0xFF#8]))
    ∧ FieldAt data 24 ([if r.stallDeadline = none then 0#8 else 1#8] ++ beBytes 6 (r.stallDeadline.getD 0))
    ∧ FieldAt data 36 (beBytes 2 k.offerTimeouts ++ beBytes 2 k.declines ++ beBytes 2 k.stalls ++ beBytes 2 k.strays
      ++ beBytes 2 k.protocolErrors ++ beBytes 2 k.drops)
    ∧ (∀ a, r.assignment = some a →
      FieldAt data 10
        ([1#8] ++ beBytes 1 a.step ++ bytes16 a.id ++ beBytes 2 a.qty ++ beBytes 3 a.units
          ++ [if a.finishSent = true then 1#8 else 0#8] ++ beBytes 2 a.lot.val)
      ∧ (∀ b : BinNo, FieldAt data (49 + 3 * b.val) (beBytes 3 a.bins[b]))
      ∧ ∀ i : SiteNo, FieldAt data (97 + 9 * i.val)
        (if i.val < r.sites.getD 0 then
          beBytes 3 a.sites[i].tested ++ beBytes 3 a.sites[i].good ++ beBytes 1 a.sites[i].run
            ++ beBytes 2 (if a.sites[i].tested = 0 then 0 else a.sites[i].good * 10000 / a.sites[i].tested)
        else List.replicate 9 0#8))
    ∧ (∀ i : SlotNo, FieldAt data (169 + 10 * i.val)
      ([r.slots[i].state.code] ++ bytes16 ((r.slots[i].image.map (·.1)).getD 0#16)
        ++ [(r.slots[i].image.map (·.2)).getD 0#8] ++ beBytes 6 r.slots[i].lastUse))
    ∧ FieldAt data 209 (beBytes 2 s.link.ports[c].checkFailures ++ beBytes 2 s.link.ports[c].destinationErrors))
  ∧ (∀ s : State,
    let data := partReadBytes s
    data.length = 945 ∧ FieldAt data 0 (bytes16 s.part.station) ∧ FieldAt data 3 (beBytes 6 s.part.clock)
    ∧ FieldAt data 9 (bytes32 s.bay.releaseCounter ++ bytes16 s.bay.nextSublot)
    ∧ (FieldAt data 15 (beBytes 2 s.free ++ beBytes 2 s.occupied)
      ∨ FieldAt data 15 (beBytes 2 (s.free - 1) ++ beBytes 2 (s.occupied + 1)))
    ∧ FieldAt data 19 (beBytes 2 s.reserved ++ beBytes 2 s.link.uplink.length)
    ∧ (∀ c : CellNo, FieldAt data (23 + 2 * c.val) (beBytes 2 (s.share c))
      ∧ FieldAt data (98 + 2 * c.val) (beBytes 2 s.link.ports[c].checkFailures)
      ∧ FieldAt data (164 + 2 * c.val) (beBytes 2 s.link.ports[c].destinationErrors))
    ∧ FieldAt data 91 (beBytes 2 s.bay.notices.length) ∧ FieldAt data 228 (beBytes 2 s.link.strays)
    ∧ (∀ k : ChanNo,
      let ch := s.bay.chan k
      FieldAt data (230 + 73 * k.val)
        (channelSettingsBytes s.tables.channels[k] ++ [ch.modeInForce.code, ch.state.code]
          ++ bytes16 ((ch.image.map (·.program)).getD 0#16) ++ [(ch.image.map (·.revision)).getD 0#8]
          ++ beBytes 3 ch.base ++ beBytes 3 ch.current ++ beBytes 1 ch.targets.length))
    ∧ FieldAt data 814 (beBytes 1 (s.bay.channels.toList.countP (·.slotHeld)))
    ∧ FieldAt data 816 (beBytes 1 s.bay.waitQueue.length))
  ∧ [LotState.free, .defined, .active, .held, .closing, .complete, .aborting, .aborted, .released].map LotState.code
      = [0#8, 1#8, 2#8, 3#8, 4#8, 5#8, 6#8, 7#8, 8#8]
  ∧ [CellState.offline, .notReady, .idle, .loading, .offered, .running, .localMode, .claimed, .faulted].map CellState.code
      = [0#8, 1#8, 2#8, 3#8, 4#8, 5#8, 6#8, 7#8, 8#8]

/-- R1, R26, R190: a request that names a lot outside 0 to 255 or a cell outside 0 to 31, or whose code names no
request, is UNKNOWN without data and changes nothing. -/
def Obligations.OutOfRangeRequestsAreUnknown : Prop :=
  ∀ (tag handle : Half) (cell code : Byte) (detail : BitVec 32) (kind mode : Byte) (stamp : Stamp) (s : State),
    s.TakesRequests →
    let unknown (i : Instr) (code : Byte) : Prop := Answers i s s.records none code tag { status := .unknown, data := [] }
    (256 ≤ handle.toNat →
      unknown (.lotStart tag handle) 0x11#8 ∧ unknown (.lotRead tag handle) 0x12#8
      ∧ unknown (.lotAbort tag handle) 0x13#8 ∧ unknown (.lotRetire tag handle) 0x14#8
      ∧ unknown (.holdSet tag handle detail) 0x20#8 ∧ unknown (.holdRelease tag handle kind mode stamp) 0x21#8
      ∧ unknown (.lotShip tag handle stamp) 0x22#8)
    ∧ (32 ≤ cell.toNat →
      unknown (.cellClaim tag cell) 0x30#8 ∧ unknown (.cellRestore tag cell) 0x31#8
      ∧ unknown (.cellRead tag cell) 0x32#8)
    ∧ unknown (.requestUnknownCode code tag) code

/-- R163, R166, R168, R169, R188: while free is 0 every request is held at the uplink port and nothing else changes; a frame
of a FORWARD kind whose claim fails (free not above 64, or the cell's share at its limit) is not taken: it waits at its
port and no record changes. -/
def Obligations.ClaimsRefusedWait : Prop :=
  (∀ (i : Instr) (s : State), isRequest i = true → s.Quiet → s.link.uplinkUp = true → s.free = 0 →
    ∃ t, exec i s = .next t ∧ t.link.held = [i] ∧ t.records = s.records ∧ t.link.uplink = s.link.uplink
      ∧ t.bay.notices = s.bay.notices ∧ t.bay.channels = s.bay.channels ∧ ∀ c : CellNo, t.link.ports[c].waiting = [])
  ∧ (∀ (c : CellNo) (src : CellStation) (lot : Half) (m : CellMsg) (s : State), s.Quiet → s.link.ports[c].up = true →
    s.forwarding m.kind = .forward → (s.free ≤ 64 ∨ s.tables.settings.cellShareLimit ≤ s.share c) →
    ∃ t, exec (m.instr c src lot) s = .next t ∧ t.link.ports[c].waiting = [.frame src lot m]
      ∧ t.records = s.records ∧ t.traffic = s.traffic ∧ t.link.held = []
      ∧ ∀ c' : CellNo, c' ≠ c → t.link.ports[c'].waiting = [])

/-! ### Lots -/

/-- R3, R4, R17, Table 1-2: LOT.DEFINE refuses a step at fault by its position (0 for the start quantity or the step
count), is FULL with no FREE record, and else takes the lowest FREE one. A start quantity of 0 or a step count above 6 beside
a step at fault answers a free value (notes/assumptions/11.md); a policy that names nothing or a name length above 16 answers UNKNOWN
without data, the model's choice (notes/assumptions/13.md). -/
def Obligations.LotDefine : Prop :=
  ∀ (tag : Half) (nameLength : Byte) (name : Vector Byte 16) (start : BitVec 24) (policy stepCount : Byte)
    (steps : Vector StepImage 6) (s : State), s.TakesRequests →
    let i : Instr := .lotDefine tag nameLength name start policy stepCount steps
    let n := stepCount.toNat
    let wrong (k : Fin 6) : Prop :=
      1 < steps[k].kind.toNat ∨ 2 < steps[k].temp.toNat ∨ steps[k].kit = 0#8 ∨ steps[k].program = 0#16
        ∨ 63 < steps[k].profile.toNat
        ∨ (steps[k].kind = 1#8 ∧ ∀ j : Fin 6, j.val + 1 = k.val → steps[j].kind ≠ 0#8)
    let refused (data : List Byte) : Prop := Answers i s s.records none 0x10#8 tag { status := .unknown, data := data }
    (1 < policy.toNat ∨ 16 < nameLength.toNat → refused [])
    ∧ (policy.toNat ≤ 1 → nameLength.toNat ≤ 16 →
      (∀ k : Fin 6, k.val < n → wrong k → (∀ j, j < k → ¬wrong j) →
        refused
          [if (6 < n ∧ Config.countFaultFirst = true) ∨ (start = 0#24 ∧ Config.startFaultFirst = true) then 0#8
            else BitVec.ofNat 8 (k.val + 1)])
      ∧ ((∀ k : Fin 6, k.val < n → ¬wrong k) →
        ((n = 0 ∨ 6 < n ∨ start = 0#24) → refused [0#8])
        ∧ (1 ≤ n → n ≤ 6 → start ≠ 0#24 →
          ((∀ h : LotNo, (s.bay.lot h).state ≠ .free) →
            Answers i s s.records none 0x10#8 tag { status := .full, data := [] })
          ∧ ∀ h : LotNo, (s.bay.lot h).state = .free → (∀ h' < h, (s.bay.lot h').state ≠ .free) →
            let step (e : StepImage) : RouteStep :=
              { kind := if e.kind = 1#8 then .retest else .test
                temp := if e.temp = 0#8 then .cold else if e.temp = 1#8 then .room else .hot
                kit := e.kit, program := e.program, profile := Fin.ofNat 64 e.profile.toNat
                minSites := max 1 (min e.minSites.toNat 8) }
            let l : LotRec :=
              { state := .defined, stamp := (s.bay.lot h).stamp + 1, name := name.toList.take nameLength.toNat
                route := (steps.toList.take n).map step, steps := List.replicate n {}, startQty := start.toNat
                policy := if policy = 1#8 then .auto else .manual }
            Answers i s (s.records.setLot h l) none 0x10#8 tag
              { status := .done, data := beBytes 2 h.val ++ bytes32 l.stamp } [.lotState h])))

/-- R16, R19, R57: LOT.START is refused with STATE on a lot that cannot be started, and on a started lot takes class
EXPEDITED, moving a queued lot to its place; on an EXPEDITED lot it changes nothing. -/
def Obligations.LotStartRefusesOrPromotes : Prop :=
  ∀ (tag handle : Half) (s : State), s.TakesRequests → ∀ hh : handle.toNat < 256,
    let h : LotNo := ⟨handle.toNat, hh⟩
    let l := s.bay.lot h
    let l' : LotRec := { l with cls := .expedited, ageDeadline := none, stamp := l.stamp + 1 }
    let i : Instr := .lotStart tag handle
    (l.state ∈ [.free, .complete, .aborting, .aborted, .released] ∨ (l.state = .held ∧ l.saved = some .complete) →
      Answers i s s.records (some h) 0x11#8 tag { status := .state, data := l.answer })
    ∧ (l.state ∈ [.active, .closing] ∨ (l.state = .held ∧ (l.saved = some .active ∨ l.saved = some .closing)) →
      (l.cls = .expedited → Answers i s s.records (some h) 0x11#8 tag { status := .done, data := l.answer })
      ∧ (l.cls = .normal → h ∉ s.bay.queue →
        Answers i s (s.records.setLot h l') (some h) 0x11#8 tag { status := .done, data := l'.answer } [.lotState h])
      ∧ (l.cls = .normal → h ∈ s.bay.queue → s.NoIdle →
        Answers i s { s.records.setLot h l' with queue := s.placed s.bay.queue h l' } (some h) 0x11#8 tag
          { status := .done, data := l'.answer } [.lotState h]))

/-- R11, R18, R54, R62, R64, R66: LOT.START on a DEFINED lot opens step 1 with the start quantity. With the step's program in the
catalogue the lot is ACTIVE and queued, and its lot-initiated match cuts for the IDLE cells that qualify: here for none, or
for one at tier 1, ahead of every other in the rotation where it takes the whole quantity. Else the lot is HELD with a PROGRAM
entry. -/
def Obligations.LotStartOpensStepOne : Prop :=
  ∀ (tag handle : Half) (s : State), s.TakesRequests → ∀ hh : handle.toNat < 256,
    let h : LotNo := ⟨handle.toNat, hh⟩
    let l := s.bay.lot h
    let opened : LotRec :=
      { l with
        state := .active, stepIndex := some 1, remaining := l.startQty, openSublots := 0, queuedAt := s.part.clock
        stamp := l.stamp + 1, steps := l.steps.modify 0 fun r => { r with state := .opened, input := l.startQty } }
    l.state = .defined → l.cls = .normal → 0 < l.startQty → l.holds = [] → h ∉ s.bay.queue →
    ∀ (first : RouteStep) (rest : List RouteStep), l.route = first :: rest →
      (∀ e, s.Catalogued first.program e → s.NoIdle →
        let l' : LotRec := { opened with ageDeadline := s.ageOf opened }
        Answers (.lotStart tag handle) s { s.records.setLot h l' with queue := s.placed s.bay.queue h l' } (some h) 0x11#8
          tag { status := .done, data := l'.answer } [.lotState h])
      ∧ (∀ (e : CatalogueEntry) (c : CellNo) (k : SlotNo), s.Catalogued first.program e → s.RotationLaw →
        let r := s.bay.cell c
        let p := s.tables.profiles[first.profile]
        let kept := s.tables.settings
        let hit (j : SlotNo) : Prop := r.slots[j].state = .resident ∧ r.slots[j].image = some (e.program, e.revision)
        let qty := min l.startQty (min s.tables.cellConfig[c].cap p.sublotSize)
        r.state = .idle → r.localPending = false → first.kit ≠ 0#8 → r.kit = first.kit → r.temp = some first.temp →
        first.minSites ≤ r.sites.getD 0 → r.excluded ≠ some h → 0 < p.spread → hit k → (∀ j : SlotNo, j < k → ¬hit j) →
        s.bay.nextSublot ≠ 0#16 → (∀ c' a, (s.bay.cell c').assignment = some a → a.id ≠ s.bay.nextSublot) →
        (∀ c', c' ≠ c → (s.bay.cell c').state = .idle →
          (s.bay.cell c').kit ≠ first.kit
            ∨ (qty = l.startQty ∧ s.bay.rotation.idxOf c < s.bay.rotation.idxOf c')) →
        let a : Assignment := { lot := h, step := 1, id := s.bay.nextSublot, qty := qty, slot := some k }
        let offer : Offer :=
          { id := a.id, lot := h, step := 1, qty := qty, program := first.program, revision := e.revision, slot := k
            temp := first.temp }
        let left := l.startQty - qty
        let l' : LotRec :=
          { opened with
            remaining := left, openSublots := 1, state := if left = 0 then .closing else .active
            ageDeadline := if left = 0 then none else s.ageOf opened }
        Answers (.lotStart tag handle) s
          { (s.records.setLot h l').setCell c
              { r with
                state := .offered, assignment := some a
                offerDeadline := some (dueAt s.part.clock (kept.offerTimeout * 1000))
                commands := r.commands.filter (!·.isOffer) ++ [.offer offer] } with
            queue := if left = 0 then s.bay.queue else s.placed s.bay.queue h l'
            rotation := if kept.rotationMode = .rotating then s.bay.rotation.filter (· ≠ c) ++ [c] else s.bay.rotation
            nextSublot := if s.bay.nextSublot = 0xFFFF#16 then 1#16 else s.bay.nextSublot + 1 }
          (some h) 0x11#8 tag { status := .done, data := l'.answer } [.lotState h, .cellState c])
      ∧ ((∀ (j : Fin 128) (e : CatalogueEntry), s.tables.catalogue[j] = some e → e.program ≠ first.program) →
        let l' : LotRec :=
          { opened with
            state := .held, saved := some .active, completedAt := none, quarantine := none, quarantineSpent := false
            ageDeadline := none
            holds :=
              [{ kind := .program, origin := .program, raisedAt := s.part.clock, stepIndex := 1, occurrences := 1
                 detail := .program first.program none }] }
        Answers (.lotStart tag handle) s (s.records.setLot h l') (some h) 0x11#8 tag
          { status := .done, data := l'.answer } [.lotState h])

/-- R16, R20, R21, R72, R73: LOT.ABORT by lot state, on a lot whose cells are all RUNNING: their sublots are to finish, and
the lot is ABORTING while one is open, else ABORTED. On an ACTIVE lot whose one cell is OFFERED or LOADING the offer is
withdrawn and the cell IDLE, or the load goes on without an assignment; the quantity returns and the lot is ABORTED at
once. -/
def Obligations.LotAbort : Prop :=
  (∀ (tag handle : Half) (s : State), s.TakesRequests → ∀ hh : handle.toNat < 256,
    let h : LotNo := ⟨handle.toNat, hh⟩
    let l := s.bay.lot h
    let i : Instr := .lotAbort tag handle
    (l.state ∈ [.free, .aborting, .aborted, .released] →
      Answers i s s.records (some h) 0x13#8 tag { status := .state, data := l.answer })
    ∧ (l.state = .defined →
      let l' : LotRec := { l with state := .aborted, stamp := l.stamp + 1 }
      Answers i s (s.records.setLot h l') (some h) 0x13#8 tag { status := .done, data := l'.answer } [.lotState h])
    ∧ (l.state ∈ [.active, .held, .closing, .complete] → s.AllRunning h →
      let l' : LotRec :=
        { l with
          state := if l.openSublots = 0 then .aborted else .aborting
          saved := none, holds := [], completedAt := none, quarantine := none, quarantineSpent := false
          ageDeadline := none, stamp := l.stamp + 1 }
      Answers i s
        { s.records.setLot h l' with
          queue := s.bay.queue.filter (· ≠ h)
          cells := s.bay.cells.map fun r => if r.assignment.any (·.lot = h) = true then r.finished else r }
        (some h) 0x13#8 tag { status := .done, data := l'.answer } [.lotState h]))
  ∧ (∀ (tag handle : Half) (c : CellNo) (a : Assignment) (s : State), s.TakesRequests → ∀ hh : handle.toNat < 256,
    let h : LotNo := ⟨handle.toNat, hh⟩
    let l := s.bay.lot h
    let r := s.bay.cell c
    l.state = .active → l.openSublots = 1 → r.assignment = some a → a.lot = h → (∀ c', s.NamedBy h c' → c' = c) →
    (∀ h' ∈ s.bay.queue, h' = h) →
    let l' : LotRec :=
      { l with
        state := .aborted, saved := none, holds := [], completedAt := none, quarantine := none, quarantineSpent := false
        ageDeadline := none, stamp := l.stamp + 1, remaining := l.remaining + a.qty, openSublots := 0 }
    let ends (r' : CellRec) : Prop :=
      Answers (.lotAbort tag handle) s { (s.records.setLot h l').setCell c r' with queue := [] } (some h) 0x13#8 tag
        { status := .done, data := l'.answer } [.lotState h, .cellState c]
    (r.state = .offered → ends { r.withdrawn a.id (some h) with state := .idle, offerDeadline := none, assignment := none })
    ∧ (r.state = .loading → ends { r with assignment := none }))

/-- R16, R23, R158, R173: LOT.RETIRE frees a RELEASED, ABORTED or DEFINED record, its stamp advanced and kept, and clears
the lot's RELEASE mark; on any other lot it is refused with STATE. -/
def Obligations.LotRetire : Prop :=
  ∀ (tag handle : Half) (s : State), s.TakesRequests → ∀ hh : handle.toNat < 256,
    let h : LotNo := ⟨handle.toNat, hh⟩
    let l := s.bay.lot h
    (l.state ∈ [.free, .active, .held, .closing, .complete, .aborting] →
      Answers (.lotRetire tag handle) s s.records (some h) 0x14#8 tag { status := .state, data := l.answer })
    ∧ (l.state ∈ [.released, .aborted, .defined] →
      ∃ t, exec (.lotRetire tag handle) s = .next t ∧ t.records = s.records.setLot h { stamp := l.stamp + 1 }
        ∧ t.traffic = s.traffic ++ [responseEntry s.part.station handle 0x14#8 tag .done (0#8 :: bytes32 (l.stamp + 1))]
        ∧ t.Reported (.lotState h) ∧ .release h ∉ t.bay.notices)

/-! ### Holds and release -/

/-- R7, R16, R73, R123, R125 to R129, R133: HOLD.SET is refused with STATE on a lot that cannot be held, and else raises
QUALITY: a new entry ahead of all others or one more occurrence; the lot is HELD, out of the queue, and its cells, here
all RUNNING, are paused. On an ACTIVE or CLOSING lot whose one cell is OFFERED or LOADING the offer is withdrawn and the cell
IDLE, or the load goes on without an assignment; the quantity returns and the saved state is ACTIVE. -/
def Obligations.HoldSet : Prop :=
  (∀ (tag handle : Half) (detail : BitVec 32) (s : State), s.TakesRequests → ∀ hh : handle.toNat < 256,
    let h : LotNo := ⟨handle.toNat, hh⟩
    let l := s.bay.lot h
    let i : Instr := .holdSet tag handle detail
    let shows (x : LotRec) : List Byte := x.answer ++ [leadingCode x]
    (l.state ∈ [.free, .defined, .aborting, .aborted, .released] →
      Answers i s s.records (some h) 0x20#8 tag { status := .state, data := shows l })
    ∧ (l.state ∈ [.active, .closing, .complete, .held] → s.AllRunning h →
      let e : HoldEntry :=
        { kind := .quality, origin := .floor, raisedAt := s.part.clock, stepIndex := l.stepIndex.getD 0, occurrences := 1
          detail := .word detail }
      let again (o : HoldEntry) : HoldEntry :=
        if o.kind = .quality then { o with occurrences := min (o.occurrences + 1) 255 } else o
      let holds := if l.holds.any (·.kind = .quality) = true then l.holds.map again else e :: l.holds
      let l' : LotRec :=
        if l.state = .held then
          { l with holds := holds, stamp := if holds = l.holds then l.stamp else l.stamp + 1 }
        else l.heldWith holds
      Answers i s
        { s.records.setLot h l' with
          queue := if l.state = .held then s.bay.queue else s.bay.queue.filter (· ≠ h)
          cells := s.bay.cells.map fun r => r.pausedFor h }
        (some h) 0x20#8 tag { status := .done, data := shows l' } (if l'.stamp = l.stamp then [] else [.lotState h])))
  ∧ (∀ (tag handle : Half) (detail : BitVec 32) (c : CellNo) (a : Assignment) (s : State), s.TakesRequests →
    ∀ hh : handle.toNat < 256,
    let h : LotNo := ⟨handle.toNat, hh⟩
    let l := s.bay.lot h
    let r := s.bay.cell c
    (l.state = .active ∨ (l.state = .closing ∧ 0 < l.remaining + a.qty)) → l.holds = [] → r.assignment = some a → a.lot = h →
    (∀ c', s.NamedBy h c' → c' = c) → (∀ h' ∈ s.bay.queue, h' = h) →
    let e : HoldEntry :=
      { kind := .quality, origin := .floor, raisedAt := s.part.clock, stepIndex := l.stepIndex.getD 0, occurrences := 1
        detail := .word detail }
    let l' : LotRec :=
      { l.heldWith [e] with saved := some .active, remaining := l.remaining + a.qty, openSublots := l.openSublots - 1 }
    let ends (r' : CellRec) : Prop :=
      Answers (.holdSet tag handle detail) s { (s.records.setLot h l').setCell c r' with queue := [] } (some h) 0x20#8 tag
        { status := .done, data := l'.answer ++ [leadingCode l'] } [.lotState h, .cellState c]
    (r.state = .offered → ends { r.withdrawn a.id (some h) with state := .idle, offerDeadline := none, assignment := none })
    ∧ (r.state = .loading → ends { r with assignment := none }))

/-- R134, R135, R136: HOLD.RELEASE checks its codes, its stamp and its kind in that order; accepted on a set that keeps
other entries it removes the one, adds a waivable kind to the waiver set in WAIVE mode, and leaves the lot HELD. -/
def Obligations.HoldReleaseRefusedOrPartial : Prop :=
  ∀ (tag handle : Half) (kind mode : Byte) (stamp : Stamp) (s : State), s.TakesRequests → ∀ hh : handle.toNat < 256,
    let h : LotNo := ⟨handle.toNat, hh⟩
    let l := s.bay.lot h
    let i : Instr := .holdRelease tag handle kind mode stamp
    let known : Prop := 1 ≤ kind.toNat ∧ kind.toNat ≤ 9 ∧ mode.toNat ≤ 1
    let named (k : HoldKind) : Prop :=
      if kind = 9#8 then l.holds.head?.map (·.kind) = some k else k.priority = kind.toNat ∧ k ∈ l.holds.map (·.kind)
    let shows (x : LotRec) (k m : Byte) : List Byte := x.answer ++ [leadingCode x] ++ [k, m]
    (¬known → Answers i s s.records (some h) 0x21#8 tag { status := .unknown, data := [] })
    ∧ (known → stamp ≠ l.stamp → Answers i s s.records (some h) 0x21#8 tag { status := .stale, data := shows l 0#8 0#8 })
    ∧ (known → stamp = l.stamp → (∀ k, ¬named k) →
      Answers i s s.records (some h) 0x21#8 tag { status := .notHeld, data := shows l 0#8 0#8 })
    ∧ (known → stamp = l.stamp → ∀ k, named k → (∃ e ∈ l.holds, e.kind ≠ k) →
      let plain : LotRec := { l with holds := l.holds.filter (·.kind ≠ k), stamp := l.stamp + 1 }
      let waive : Prop :=
        mode = 1#8 ∧ k ∈ [.yield, .bin, .site, .run] ∧ (l.saved = some .active ∨ l.saved = some .closing)
      (¬waive →
        Answers i s (s.records.setLot h plain) (some h) 0x21#8 tag
          { status := .done, data := shows plain (BitVec.ofNat 8 k.priority) 0#8 } [.lotState h])
      ∧ (waive →
        let l' : LotRec :=
          { plain with
            steps := l.steps.modify (l.stepIndex.getD 0 - 1) fun r =>
              { r with
                waivers :=
                  { yield := r.waivers.yield || decide (k = .yield), bin := r.waivers.bin || decide (k = .bin)
                    site := r.waivers.site || decide (k = .site), run := r.waivers.run || decide (k = .run) } } }
        Answers i s (s.records.setLot h l') (some h) 0x21#8 tag
          { status := .done, data := shows l' (BitVec.ofNat 8 k.priority) 1#8 } [.lotState h]))

/-- R8, R136, R137: a release of the last entry restores the saved state: COMPLETE with a fresh quarantine under AUTO; CLOSING
not yet evaluated, or ACTIVE (queued again while quantity remains, here with no cell IDLE), with RESUME for each paused
cell. In WAIVE mode a waivable kind also joins the waiver set, unless the saved state is COMPLETE. -/
def Obligations.HoldReleaseLastRestores : Prop :=
  ∀ (tag handle : Half) (mode : Byte) (s : State), s.TakesRequests → mode.toNat ≤ 1 → ∀ hh : handle.toNat < 256,
    let h : LotNo := ⟨handle.toNat, hh⟩
    let l := s.bay.lot h
    let resumed (c : CellNo) (r : CellRec) : CellRec :=
      match r.assignment with
      | none => r
      | some a =>
        if a.lot = h ∧ r.state = .running ∧ r.pause ≠ .none then
          let r' : CellRec := { r with commands := placeResume r.commands a.id h, pause := .none }
          { r' with stallDeadline := s.stallArmed c r' }
        else r
    let cells : Vector CellRec 32 := Vector.ofFn fun c => resumed c (s.bay.cell c)
    ∀ e : HoldEntry, l.state = .held → l.holds = [e] →
    let waived : Bool := decide (mode = 1#8 ∧ e.kind ∈ [.yield, .bin, .site, .run] ∧ l.saved ≠ some .complete)
    let free : LotRec :=
      { l with
        holds := [], saved := none, stamp := l.stamp + 1
        steps :=
          if waived then
            l.steps.modify (l.stepIndex.getD 0 - 1) fun r =>
              { r with
                waivers :=
                  { yield := r.waivers.yield || decide (e.kind = .yield), bin := r.waivers.bin || decide (e.kind = .bin)
                    site := r.waivers.site || decide (e.kind = .site), run := r.waivers.run || decide (e.kind = .run) } }
          else l.steps }
    let restores (l' : LotRec) (queue : List LotNo) (cells : Vector CellRec 32) : Prop :=
      Answers (.holdRelease tag handle (BitVec.ofNat 8 e.kind.priority) mode l.stamp) s
        { s.records.setLot h l' with queue := queue, cells := cells } (some h) 0x21#8 tag
        { status := .done
          data := l'.answer ++ [leadingCode l'] ++ [BitVec.ofNat 8 e.kind.priority, if waived then 1#8 else 0#8] }
        [.lotState h]
    (l.saved = some .complete →
      restores
        { free with
          state := .complete, quarantineSpent := false
          completedAt := if l.policy = .auto then some s.part.clock else none
          quarantine :=
            if l.policy = .auto then some (dueAt s.part.clock (s.tables.settings.quarantineDelay * 60000)) else none }
        s.bay.queue s.bay.cells)
    ∧ (l.saved = some .closing → (l.stepRec (l.stepIndex.getD 0)).closeEvaluated = false →
      restores { free with state := .closing } s.bay.queue cells)
    ∧ (l.saved = some .active → l.remaining = 0 → restores { free with state := .active } s.bay.queue cells)
    ∧ (l.saved = some .active → 0 < l.remaining → s.NoIdle →
      let l' : LotRec := { free with state := .active, ageDeadline := s.ageOf l }
      restores l' (s.placed s.bay.queue h l') cells)

/-- R8, R12, R13, R15, R136, R137, R151: a release of the last entry of a lot held at an evaluated close advances its step, in
either mode: the last step leaves the lot COMPLETE. A step that follows opens with the carried quantity (TEST) or the retest
count within what the step before left (RETEST): queued, here with no cell IDLE; HELD again with a PROGRAM entry where the
catalogue has no entry; and with input 0 closed at once, which as the last step leaves the lot COMPLETE. -/
def Obligations.HeldCloseAdvances : Prop :=
  ∀ (tag handle : Half) (mode : Byte) (s : State), s.TakesRequests → mode.toNat ≤ 1 → ∀ hh : handle.toNat < 256,
    let h : LotNo := ⟨handle.toNat, hh⟩
    let l := s.bay.lot h
    ∀ (e : HoldEntry) (k : Nat) (r : StepRec) (st : RouteStep), l.state = .held → l.holds = [e] →
    l.saved = some .closing → l.stepIndex = some (k + 1) → l.steps[k]? = some r → l.route[k]? = some st →
    r.closeEvaluated = true →
    let carried := if st.kind = .test then min r.good r.input else l.carried + min r.good r.input
    let advanced : LotRec :=
      { l with
        holds := [], saved := none, stamp := l.stamp + 1, carried := carried
        steps := l.steps.set k { r with state := .closed, loss := (r.input : Int) - r.tested, waivers := {} } }
    let complete (l' : LotRec) : LotRec :=
      { l' with
        state := .complete, quarantineSpent := false
        completedAt := if l.policy = .auto then some s.part.clock else none
        quarantine :=
          if l.policy = .auto then some (dueAt s.part.clock (s.tables.settings.quarantineDelay * 60000)) else none }
    let waived : Bool := decide (mode = 1#8 ∧ e.kind ∈ [.yield, .bin, .site, .run])
    let answers (l' : LotRec) (queue : List LotNo) : Prop :=
      Answers (.holdRelease tag handle (BitVec.ofNat 8 e.kind.priority) mode l.stamp) s
        { s.records.setLot h l' with queue := queue } (some h) 0x21#8 tag
        { status := .done
          data := l'.answer ++ [leadingCode l'] ++ [BitVec.ofNat 8 e.kind.priority, if waived then 1#8 else 0#8] }
        [.lotState h]
    (l.route.length = k + 1 → answers (complete advanced) s.bay.queue)
    ∧ ∀ (next : RouteStep) (n : StepRec), l.route[k + 1]? = some next → l.steps[k + 1]? = some n →
      let p := s.tables.profiles[st.profile]
      let retests :=
        (((List.finRange 16).filter fun b => p.retestBins.getLsbD b.val && !p.goodBins.getLsbD b.val).map fun b => r.bins[b]).sum
      let input := if next.kind = .test then carried else min retests (r.input - carried)
      let opened : LotRec :=
        { advanced with
          state := .active, stepIndex := some (k + 2), remaining := input, openSublots := 0, queuedAt := s.part.clock
          steps := advanced.steps.set (k + 1) { n with state := .opened, input := input } }
      (0 < input → (∃ e, s.Catalogued next.program e) → s.NoIdle →
        let l' : LotRec := { opened with ageDeadline := s.ageOf { l with queuedAt := s.part.clock } }
        answers l' (s.placed s.bay.queue h l'))
      ∧ (0 < input → (∀ (j : Fin 128) (x : CatalogueEntry), s.tables.catalogue[j] = some x → x.program ≠ next.program) →
        answers
          { opened with
            state := .held, saved := some .active, completedAt := none, quarantine := none, quarantineSpent := false
            ageDeadline := none
            holds :=
              [{ kind := .program, origin := .program, raisedAt := s.part.clock, stepIndex := k + 2, occurrences := 1
                 detail := .program next.program none }] }
          (s.bay.queue.filter (· ≠ h)))
      ∧ (input = 0 → l.route.length = k + 2 →
        answers
          (complete
            { opened with
              carried := if next.kind = .test then 0 else carried
              steps := advanced.steps.set (k + 1)
                { n with
                  state := .closed, input := 0, closeEvaluated := true, loss := (0 : Int) - n.tested, waivers := {} } })
          s.bay.queue)

/-- R155, with the release of R156 and R157: LOT.SHIP by its checks in their order, a refusal changing nothing, and the
release of a COMPLETE lot with its record and number; the lot's RELEASE mark is not set by it. -/
def Obligations.LotShip : Prop :=
  ∀ (tag handle : Half) (stamp : Stamp) (s : State), s.TakesRequests →
    (256 ≤ handle.toNat →
      Answers (.lotShip tag handle stamp) s s.records none 0x22#8 tag { status := .unknown, data := [] })
    ∧ ∀ hh : handle.toNat < 256,
    let h : LotNo := ⟨handle.toNat, hh⟩
    let l := s.bay.lot h
    let i : Instr := .lotShip tag handle stamp
    (l.state ≠ .complete →
      Answers i s s.records (some h) 0x22#8 tag
        { status := .state
          data := l.answer
            ++ bytes32 (if l.state = .released then (l.release.map (·.number)).getD 0#32 else 0#32) })
    ∧ (l.state = .complete → stamp ≠ l.stamp →
      Answers i s s.records (some h) 0x22#8 tag { status := .stale, data := l.answer })
    ∧ (l.state = .complete → stamp = l.stamp → l.carried = 0 →
      Answers i s s.records (some h) 0x22#8 tag { status := .empty, data := l.answer })
    ∧ (l.state = .complete → stamp = l.stamp → 0 < l.carried →
      let l' := l.shipped h s.bay.releaseCounter s.part.clock
      Answers i s
        { s.records.setLot h l' with
          releaseCounter := if s.bay.releaseCounter = 0xFFFFFFFF#32 then 1#32 else s.bay.releaseCounter + 1 }
        (some h) 0x22#8 tag
        { status := .done, data := l'.answer ++ (l'.release.map releaseBytes).getD [] } [.lotState h]
      ∧ ∃ t, exec i s = .next t ∧ (.release h ∉ s.bay.notices → .release h ∉ t.bay.notices))

/-! ### Requests on cells and the part -/

/-- R40, R41, R83, R95: CELL.CLAIM by cell state. With no cell IDLE an OFFERED cell's offer is withdrawn and its quantity
returned; a LOADING cell gives up its load, which leaves its channel (here with no round to start by it), and its assignment if
it holds one; a RUNNING cell is to finish its sublot first. -/
def Obligations.CellClaim : Prop :=
  ∀ (tag : Half) (cell : Byte) (s : State), s.TakesRequests → ∀ hc : cell.toNat < 32,
    let c : CellNo := ⟨cell.toNat, hc⟩
    let r := s.bay.cell c
    let claims (rec : Records) (state : Byte) (reported : List Notice) : Prop :=
      Answers (.cellClaim tag cell) s rec none 0x30#8 tag { status := .done, data := [state] } reported
    (r.state ∈ [.idle, .notReady, .localMode, .offline, .faulted, .claimed] →
      claims (s.records.setCell c { r with state := .claimed }) 7#8 (if r.state = .claimed then [] else [.cellState c]))
    ∧ (r.state = .running →
      (r.claimPending = true → claims s.records 5#8 [])
      ∧ (r.claimPending = false →
        claims (s.records.setCell c { r with claimPending := true }.finished) 5#8 [.cellState c]))
    ∧ (r.state = .offered → ∀ a, r.assignment = some a → s.NoIdle → s.KeepsOpen a.lot a.qty →
      claims
        ((s.afterReturn a.lot a.qty).setCell c
          { r.withdrawn a.id (some a.lot) with state := .claimed, offerDeadline := none, assignment := none })
        7#8 [.cellState c])
    ∧ (r.state = .loading → ∀ ld, r.load = some ld → s.EndsNoRound c →
      let gone (rec : Records) : Prop :=
        claims ((s.leftBy c rec).setCell c { r.unloaded ld with state := .claimed, assignment := none }) 7#8 [.cellState c]
      (r.assignment = none → gone s.records)
      ∧ ∀ a, r.assignment = some a → s.NoIdle → s.KeepsOpen a.lot a.qty → gone (s.afterReturn a.lot a.qty))

/-- R42: CELL.RESTORE gives a CLAIMED or FAULTED cell back and is refused with STATE on any other. -/
def Obligations.CellRestore : Prop :=
  ∀ (tag : Half) (cell : Byte) (s : State), s.TakesRequests → ∀ hc : cell.toNat < 32,
    let c : CellNo := ⟨cell.toNat, hc⟩
    let r := s.bay.cell c
    (r.state = .claimed ∨ r.state = .faulted →
      Answers (.cellRestore tag cell) s
        (s.records.setCell c { r with state := .notReady, suspect := false, loadFailures := 0 }) none 0x31#8 tag
        { status := .done, data := [1#8] } [.cellState c])
    ∧ (r.state ≠ .claimed → r.state ≠ .faulted →
      Answers (.cellRestore tag cell) s s.records none 0x31#8 tag { status := .state, data := [r.state.code] })

/-- R196: TIME.SET sets the clock, answers with the clock before and after, and changes no other record: every deadline
and every recorded time keeps its value. -/
def Obligations.TimeSet : Prop :=
  ∀ (tag : Half) (clock : BitVec 48) (s : State), s.TakesRequests →
    Answers (.timeSet tag clock) s { s.records with part := { s.part with clock := clock.toNat } } none 0x40#8 tag
      { status := .done, data := beBytes 6 s.part.clock ++ beBytes 6 clock.toNat }

/-! ### Frames from cells -/

/-- R26, R33, R71, R80, R96, R141: the frames refused as protocol errors change nothing but the count of their cell: a kind
from the wrong station, READY out of range or with work in hand, a repeated reply, a TALLY, LOADED or TSTATE that does
not match. -/
def Obligations.CellFrameProtocolErrors : Prop :=
  ∀ (c : CellNo) (src : CellStation) (lot : Half) (m : CellMsg) (s : State), s.TakesFrame c m.kind →
    let r := s.bay.cell c
    let refused : Prop := Takes s c src lot m (s.records.setCell c r.erred)
    ((src = .tester ↔ m.kind ≠ .loaded ∧ m.kind ≠ .tstate) → refused)
    ∧ (src = .handler →
      (∀ kit temp sites : Byte, m = .ready kit temp sites →
        2 < temp.toNat ∨ sites = 0#8 ∨ r.state ∈ [.loading, .offered, .running] → refused)
      ∧ (∀ id : Half, m = .take id ∨ m = .decline id → r.state = .running → (∃ a, r.assignment = some a ∧ a.id = id) →
        refused)
      ∧ (∀ (id : Half) (bins : Vector (BitVec 24) 16) (returned missing : BitVec 24), m = .tally id bins returned missing →
        (r.state ≠ .running ∨ ∀ a, r.assignment = some a → a.id ≠ id) → refused))
    ∧ (src = .tester →
      (∀ (program : Half) (revision slot result : Byte) (ld : LoadRec), m = .loaded program revision slot result →
        r.state = .loading → r.load = some ld →
        (slot.toNat ≠ ld.slot.val ∨ program ≠ ld.image.program ∨ revision ≠ ld.image.revision) → refused)
      ∧ ∀ code slot : Byte, m = .tstate code slot →
        (code ≠ 1#8 ∧ code ≠ 2#8) ∨ (code = 2#8 ∧ 4 ≤ slot.toNat) → refused)

/-- R39: PAUSED by cell state, pause state and sublot id. -/
def Obligations.PausedAcknowledges : Prop :=
  ∀ (c : CellNo) (lot id : Half) (s : State), s.TakesFrame c .paused →
    let r := s.bay.cell c
    let mine : Prop := r.state = .running ∧ ∃ a, r.assignment = some a ∧ a.id = id
    (mine → r.pause = .sent →
      Takes s c .handler lot (.paused id) (s.records.setCell c { r with pause := .paused }) [.cellState c])
    ∧ (mine → r.pause ≠ .sent → Takes s c .handler lot (.paused id) s.records)
    ∧ (¬mine → Takes s c .handler lot (.paused id) (s.records.setCell c r.erred))

/-- R79, R80, R81, R96, R98: LOADED on a cell not LOADING, ALTERED naming an EMPTY or ALTERED slot or the slot of a load not yet
delivered, and MEMORY_LOST with every slot EMPTY change nothing. ALTERED on a RESIDENT or STALE slot marks it, and MEMORY_LOST
on a cell not LOADING empties every slot that holds a program. Where the slot that the assignment names is lost, the lot of a
running sublot is held (here an ACTIVE lot with this one cell), and an offer is withdrawn, its quantity returned and the cell
IDLE (here fitting no lot, no other cell IDLE). Both fail a load that is being delivered (here the second in a row of a cell
without an assignment, with no round to start by it). -/
def Obligations.TesterFrames : Prop :=
  (∀ (c : CellNo) (lot : Half) (s : State),
    let r := s.bay.cell c
    (∀ (program : Half) (revision slot result : Byte), s.TakesFrame c .loaded → r.state ≠ .loading →
      Takes s c .tester lot (.loaded program revision slot result) s.records)
    ∧ (s.TakesFrame c .tstate →
      (∀ (slot : Byte) (k : SlotNo), slot.toNat = k.val →
        r.slots[k].state ∈ [.empty, .altered]
          ∨ (r.slots[k].state = .loading ∧ ∀ ld, r.load = some ld → ld.place = .waiting ∨ ld.place = .nextRound) →
        Takes s c .tester lot (.tstate 2#8 slot) s.records)
      ∧ ∀ slot : Byte, r.state ≠ .loading → (∀ k : SlotNo, r.slots[k].state = .empty) →
        Takes s c .tester lot (.tstate 1#8 slot) s.records))
  ∧ (∀ (c : CellNo) (lot : Half) (s : State), s.TakesFrame c .tstate →
    let r := s.bay.cell c
    let keeps (x : Slot) : Bool := decide (x.state ∈ [.resident, .stale, .altered])
    let cleared (slots : Vector Slot 4) : Vector Slot 4 :=
      slots.map fun x => if keeps x then { x with state := .empty, image := none } else x
    let lost (frame : CellMsg) (k : SlotNo) (slots : Vector Slot 4) : Prop :=
      ∀ (a : Assignment) (program : Half) (revision : Byte), r.assignment = some a → a.slot = some k →
        r.slots[k].image = some (program, revision) →
        (r.state = .running → r.pause = .none → (s.bay.lot a.lot).state = .active → (s.bay.lot a.lot).holds = [] →
          (∀ c', s.NamedBy a.lot c' → c' = c) →
          let l := s.bay.lot a.lot
          let e : HoldEntry :=
            { kind := .program, origin := .program, raisedAt := s.part.clock, stepIndex := l.stepIndex.getD 0
              occurrences := 1, detail := .program program (some c) }
          Takes s c .tester lot frame
            { (s.records.setLot a.lot (l.heldWith [e])).setCell c (CellRec.pausedFor { r with slots := slots } a.lot) with
              queue := s.bay.queue.filter (· ≠ a.lot) }
            [.lotState a.lot, .cellState c])
        ∧ (r.state = .offered → s.NoIdle → s.KeepsOpen a.lot a.qty → s.FitsNone c (a.lot :: s.bay.queue) →
          Takes s c .tester lot frame
            ((s.afterReturn a.lot a.qty).setCell c
              { r.withdrawn a.id (some a.lot) with
                slots := slots, state := .idle, offerDeadline := none, assignment := none })
            [.cellState c])
    (∀ k : SlotNo, r.slots[k].state ∈ [.resident, .stale] →
      let frame : CellMsg := .tstate 2#8 (BitVec.ofNat 8 k.val)
      let slots := r.slots.set k { r.slots[k] with state := .altered }
      (((∀ a, r.assignment = some a → a.slot ≠ some k) ∨ r.state ∉ [.offered, .running]) →
        Takes s c .tester lot frame (s.records.setCell c { r with slots := slots }))
      ∧ lost frame k slots)
    ∧ (∀ slot : Byte, r.state ≠ .loading →
      ((∀ a k, r.assignment = some a → a.slot = some k → keeps r.slots[k] = false) ∨ r.state ∉ [.offered, .running] →
        Takes s c .tester lot (.tstate 1#8 slot) (s.records.setCell c { r with slots := cleared r.slots }))
      ∧ ∀ k : SlotNo, keeps r.slots[k] = true → lost (.tstate 1#8 slot) k (cleared r.slots))
    ∧ ∀ ld, r.state = .loading → r.load = some ld → ld.place = .target ∨ ld.place = .awaiting → r.assignment = none →
      r.loadFailures = 1 → s.EndsNoRound c →
      let failed (frame : CellMsg) (slots : Vector Slot 4) : Prop :=
        Takes s c .tester lot frame ((s.leftBy c s.records).setCell c { r.faultedBy ld with slots := slots }) [.cellState c]
      (∀ k : SlotNo, r.slots[k].state = .loading → failed (.tstate 2#8 (BitVec.ofNat 8 k.val)) (r.faultedBy ld).slots)
      ∧ ∀ slot : Byte, failed (.tstate 1#8 slot) (cleared (r.faultedBy ld).slots))

/-- R32, R33: READY in range records the capability, the site count at most 8; on a CLAIMED or FAULTED cell nothing more;
else the cell is IDLE, and with no lot queued holds no decline-excluded lot. -/
def Obligations.ReadyRecordsCapability : Prop :=
  ∀ (c : CellNo) (lot : Half) (kit temp sites : Byte) (cls : TempClass) (s : State), s.TakesFrame c .ready →
    (cls, temp) ∈ [(TempClass.cold, 0#8), (.room, 1#8), (.hot, 2#8)] → sites ≠ 0#8 →
    let r := s.bay.cell c
    let r' : CellRec := { r with kit := kit, temp := some cls, sites := some (min sites.toNat 8) }
    (r.state ∈ [.claimed, .faulted] → Takes s c .handler lot (.ready kit temp sites) (s.records.setCell c r'))
    ∧ (r.state ∈ [.offline, .notReady, .idle, .localMode] → s.bay.queue = [] →
      Takes s c .handler lot (.ready kit temp sites)
        (s.records.setCell c { r' with state := .idle, excluded := none })
        (if r.state = .idle then [] else [.cellState c]))

/-- R32, R58, R59, R61, R63, R64, R66, R78, R83, R84, R87: READY from a cell that qualifies for the head of the dispatch queue: a
sublot of the least of the three quantities is cut, and the cell moves in the rotation; a lot with nothing left is CLOSING and
leaves the queue. At tier 1, and at tier 3 on a resident program, its OFFER is queued on the resident slot and the cell is
OFFERED with its deadline; at tier 2, and at tier 3 without one, a load is started into the victim slot. -/
def Obligations.ReadyCutsAndOffers : Prop :=
  (∀ (c : CellNo) (lot : Half) (sites : Byte) (s : State) (h : LotNo) (rest : List LotNo) (k : SlotNo) (e : CatalogueEntry),
    s.TakesFrame c .ready →
    let r := s.bay.cell c
    let l := s.bay.lot h
    let step := l.stepIndex.getD 0
    let st := l.routeStep step
    let p := s.tables.profiles[st.profile]
    let kept := s.tables.settings
    s.bay.queue = h :: rest → l.state = .active → r.state ∈ [.offline, .notReady, .idle, .localMode] → r.localPending = false →
    r.excluded ≠ some h → st.kit ≠ 0#8 → sites ≠ 0#8 → st.minSites ≤ min sites.toNat 8 → l.openSublots < p.spread →
    s.Catalogued st.program e → r.slots[k].state = .resident → r.slots[k].image = some (e.program, e.revision) →
    (∀ j : SlotNo, j < k → ¬(r.slots[j].state = .resident ∧ r.slots[j].image = some (e.program, e.revision))) →
    s.bay.nextSublot ≠ 0#16 → (∀ c' a, (s.bay.cell c').assignment = some a → a.id ≠ s.bay.nextSublot) →
    0 < l.remaining →
    let qty := min l.remaining (min s.tables.cellConfig[c].cap p.sublotSize)
    let a : Assignment := { lot := h, step := step, id := s.bay.nextSublot, qty := qty, slot := some k }
    let offer : Offer :=
      { id := a.id, lot := h, step := step, qty := qty, program := st.program, revision := e.revision, slot := k
        temp := st.temp }
    let temp : Byte := match st.temp with | .cold => 0#8 | .room => 1#8 | .hot => 2#8
    let r' : CellRec :=
      { r with
        kit := st.kit, temp := some st.temp, sites := some (min sites.toNat 8), state := .offered, excluded := none
        assignment := some a, offerDeadline := some (dueAt s.part.clock (kept.offerTimeout * 1000))
        commands := r.commands.filter (!·.isOffer) ++ [.offer offer] }
    let left := l.remaining - qty
    let cut : LotRec := { l with remaining := left, openSublots := l.openSublots + 1 }
    let l' : LotRec :=
      if left = 0 then { cut with state := .closing, ageDeadline := none, stamp := l.stamp + 1 } else cut
    Takes s c .handler lot (.ready st.kit temp sites)
      { (s.records.setLot h l').setCell c r' with
        queue := if left = 0 then rest.filter (· ≠ h) else h :: rest
        rotation := if kept.rotationMode = .rotating then s.bay.rotation.filter (· ≠ c) ++ [c] else s.bay.rotation
        nextSublot := if s.bay.nextSublot = 0xFFFF#16 then 1#16 else s.bay.nextSublot + 1 }
      [.cellState c])
  ∧ (∀ (c : CellNo) (lot : Half) (sites temp : Byte) (cls : TempClass) (s : State) (h : LotNo) (rest : List LotNo)
    (e : CatalogueEntry), s.TakesFrame c .ready →
    let l := s.bay.lot h
    let step := l.stepIndex.getD 0
    let st := l.routeStep step
    let p := s.tables.profiles[st.profile]
    let kept := s.tables.settings
    let r := s.bay.cell c
    let ready : CellRec :=
      { r with kit := st.kit, temp := some cls, sites := some (min sites.toNat 8), state := .idle, excluded := none }
    let hit (j : SlotNo) : Prop := r.slots[j].state = .resident ∧ r.slots[j].image = some (e.program, e.revision)
    (cls, temp) ∈ [(TempClass.cold, 0#8), (.room, 1#8), (.hot, 2#8)] → (cls = st.temp ∨ l.cls = .expedited) →
    s.bay.queue = h :: rest → l.state = .active → r.state ∈ [.offline, .notReady, .idle, .localMode] → r.localPending = false →
    r.excluded ≠ some h → st.kit ≠ 0#8 → sites ≠ 0#8 → st.minSites ≤ min sites.toNat 8 → l.openSublots < p.spread →
    s.Catalogued st.program e → s.bay.nextSublot ≠ 0#16 →
    (∀ c' a, (s.bay.cell c').assignment = some a → a.id ≠ s.bay.nextSublot) → 0 < l.remaining →
    let qty := min l.remaining (min s.tables.cellConfig[c].cap p.sublotSize)
    let a : Assignment := { lot := h, step := step, id := s.bay.nextSublot, qty := qty }
    let left := l.remaining - qty
    let cut : LotRec := { l with remaining := left, openSublots := l.openSublots + 1 }
    let l' : LotRec :=
      if left = 0 then { cut with state := .closing, ageDeadline := none, stamp := l.stamp + 1 } else cut
    let takes (rec : Records) : Prop :=
      Takes s c .handler lot (.ready st.kit temp sites)
        { rec.setLot h l' with
          queue := if left = 0 then rest.filter (· ≠ h) else h :: rest
          rotation := if kept.rotationMode = .rotating then s.bay.rotation.filter (· ≠ c) ++ [c] else s.bay.rotation
          nextSublot := if s.bay.nextSublot = 0xFFFF#16 then 1#16 else s.bay.nextSublot + 1 }
        [.cellState c]
    (∀ k : SlotNo, hit k → (∀ j : SlotNo, j < k → ¬hit j) →
      let soak := if cls = st.temp then 0 else s.tables.cellConfig[c].soak
      let offer : Offer :=
        { id := a.id, lot := h, step := step, qty := qty, program := st.program, revision := e.revision, slot := k
          temp := st.temp }
      takes
        (s.records.setCell c
          { ready with
            state := .offered, assignment := some { a with slot := some k }
            offerDeadline := some (dueAt s.part.clock ((kept.offerTimeout + soak) * 1000))
            commands := r.commands.filter (!·.isOffer) ++ [.offer offer] }))
    ∧ ((∀ k : SlotNo, ¬hit k) → ∀ v : SlotNo, ({ ready with assignment := none } : CellRec).Victim e.program e.revision v →
      takes (s.loadStarted c ready a e v)))

/-- R44, R68, R69, R71, R72, R73, R200: TAKE of the open offer: the cell is RUNNING with its counts at 0, the slot's last use is the
clock and the stall watch is armed where it may be. DECLINE of the open offer, with no cell IDLE. The late reply: a TAKE or
DECLINE whose id meets no open offer and no running sublot of its own makes a WITHDRAW due, with the lot of the sublot of that
id where a cell holds one, and changes nothing else. -/
def Obligations.OfferReplies : Prop :=
  (∀ (c : CellNo) (lot : Half) (a : Assignment) (k : SlotNo) (s : State), s.TakesFrame c .take →
    let r := s.bay.cell c
    r.state = .offered → r.assignment = some a → a.slot = some k →
    let r' : CellRec :=
      { r with
        state := .running, pause := .none, offerDeadline := none
        assignment := some { a with units := 0, bins := Vector.replicate 16 0, sites := Vector.replicate 8 {} }
        slots := r.slots.set k { r.slots[k] with lastUse := s.part.clock } }
    Takes s c .handler lot (.take a.id) (s.records.setCell c { r' with stallDeadline := s.stallArmed c r' }) [.cellState c])
  ∧ (∀ (c : CellNo) (lot id : Half) (s : State),
    let r := s.bay.cell c
    (s.TakesFrame c .decline → s.NoIdle → ∀ a, r.state = .offered → r.assignment = some a → a.id = id →
      s.KeepsOpen a.lot a.qty →
      Takes s c .handler lot (.decline id)
        ((s.afterReturn a.lot a.qty).setCell c
          { r with
            state := .notReady, offerDeadline := none, excluded := some a.lot, assignment := none
            counters := { r.counters with declines := min (r.counters.declines + 1) 65535 } })
        [.cellState c])
    ∧ ((r.state ≠ .offered ∧ r.state ≠ .running) ∨ (∀ a, r.assignment = some a → a.id ≠ id) → ∀ named : Option LotNo,
      (∀ c' a, (s.bay.cell c').assignment = some a → a.id = id → named = some a.lot) →
      (named = none ∨ ∃ c' a, (s.bay.cell c').assignment = some a ∧ a.id = id) →
      (s.TakesFrame c .take → Takes s c .handler lot (.take id) (s.records.setCell c (r.withdrawn id named)))
      ∧ (s.TakesFrame c .decline → Takes s c .handler lot (.decline id) (s.records.setCell c (r.withdrawn id named)))))

/-- R104, R105: a UNIT that fails one of the three conditions of a match counts as a stray of its cell and changes nothing
else, and no notice becomes owed by it. -/
def Obligations.UnitStray : Prop :=
  ∀ (c : CellNo) (lot id : Half) (site bin : Byte) (sequence : BitVec 32) (s : State), s.TakesFrame c .unit →
    let r := s.bay.cell c
    (r.state ≠ .running ∨ (∀ a, r.assignment = some a → a.id ≠ id) ∨ r.sites.getD 0 ≤ site.toNat ∨ 8 ≤ site.toNat) →
    TakesAnd s c .handler lot (.unit id site bin sequence)
      (s.records.setCell c { r with counters := { r.counters with strays := min (r.counters.strays + 1) 65535 } })
      s.OwesNoMore

/-- R104, R106, R108, R109, R110: a matched UNIT of a step whose checks are off, or none of whose armed checks fails, or of a
lot that is not gated, is counted in the step, the sublot and its site (a bin code above 15 in bin 15); the unit that reaches
the quantity finishes the sublot; the stall watch moves. -/
def Obligations.UnitCounted : Prop :=
  ∀ (c : CellNo) (lot : Half) (site : SiteNo) (bin : Byte) (sequence : BitVec 32) (a : Assignment) (s : State),
    s.TakesFrame c .unit →
    let r := s.bay.cell c
    let l := s.bay.lot a.lot
    let p := s.tables.profiles[(l.routeStep a.step).profile]
    let b : BinNo := Fin.ofNat 16 (min bin.toNat 15)
    let good : Bool := p.goodBins.getLsbD b.val
    ∀ rec : StepRec, r.state = .running → r.assignment = some a → site.val < r.sites.getD 0 →
    1 ≤ a.step → l.steps[a.step - 1]? = some rec →
    rec.tested < 16777215 → rec.bins[b] < 16777215 → (good = true → rec.good < 16777215) →
    let up (n : Nat) : Nat := min (n + 1) 16777215
    let rec' : StepRec :=
      { rec with
        tested := rec.tested + 1, bins := rec.bins.set b (rec.bins[b] + 1), good := if good then rec.good + 1 else rec.good }
    let t := a.sites[site]
    let a' : Assignment :=
      { a with
        units := up a.units, bins := a.bins.set b (up a.bins[b])
        sites :=
          a.sites.set site
            { tested := up t.tested, good := if good then up t.good else t.good
              run := if good then 0 else min (t.run + 1) 255 } }
    (l.state ∉ [.active, .closing, .held]
      ∨ (p.yieldFloor = 0 ∧ (∀ k : BinNo, p.ceilings[k] = 10000) ∧ p.siteDelta = 10000 ∧ p.runLimit = 0)
      ∨ unitRaises p rec' c (r.sites.getD 0) a' site = []) →
    let full := a'.units = a.qty
    let counted : CellRec := { r with assignment := some a' }
    let sent : CellRec := if full ∧ p.finish = .auto then counted.finished else counted
    let watched : CellRec := { sent with stalled := false }
    let r' : CellRec :=
      { watched with stallDeadline := if r.stallDeadline.isSome = true then s.stallArmed c watched else none }
    Takes s c .handler lot (.unit a.id (BitVec.ofNat 8 site.val) bin sequence)
      ((s.records.setLot a.lot { l with steps := l.steps.set (a.step - 1) rec' }).setCell c r')
      (if full ∧ p.finish = .notify then [.cellState c] else [])

/-- R111 to R115, R121: the checks of a counted unit, as exact comparisons of whole numbers: YIELD and BIN from the minimum
sample on, SITE on the spread of the rounded site yields of the sites with enough units, RUN on the site's run; each
only while its kind is not waived. -/
def Obligations.GateChecksAreExactComparisons : Prop :=
  ∀ (p : GateProfile) (r : StepRec) (c : CellNo) (sites : Nat) (a : Assignment) (site : SiteNo),
    let raises := (unitRaises p r c sites a site).map (·.1)
    let qualifies (k : SiteNo) : Prop := k.val < sites ∧ p.siteMin ≤ a.sites[k].tested
    let yieldOf (k : SiteNo) : Nat := a.sites[k].good * 10000 / a.sites[k].tested
    (.yield ∈ raises ↔
      r.waivers.yield = false ∧ p.minSample ≤ r.tested ∧ 0 < p.yieldFloor ∧ r.good * 10000 < p.yieldFloor * r.tested)
    ∧ (.bin ∈ raises ↔
      r.waivers.bin = false ∧ p.minSample ≤ r.tested
        ∧ ∃ b : BinNo, p.goodBins.getLsbD b.val = false ∧ p.ceilings[b] < 10000
          ∧ p.ceilings[b] * r.tested < r.bins[b] * 10000)
    ∧ (.site ∈ raises ↔
      r.waivers.site = false ∧ p.siteDelta < 10000
        ∧ ∃ hi lo : SiteNo, qualifies hi ∧ qualifies lo ∧ p.siteDelta < yieldOf hi - yieldOf lo)
    ∧ (.run ∈ raises ↔ r.waivers.run = false ∧ 0 < p.runLimit ∧ p.runLimit ≤ a.sites[site].run)

/-- R7, R107, R110, R115, R118, R125, R129: a matched UNIT on an ACTIVE lot without holds whose one cell is this cell, with
no sublot to finish: where its count would pass the bound it raises COUNT and is not counted; else the kinds that its
checks raise hold the lot and pause the cell, and a failing RUN marks the cell suspect. -/
def Obligations.UnitRaisesHolds : Prop :=
  ∀ (c : CellNo) (lot : Half) (site : SiteNo) (bin : Byte) (sequence : BitVec 32) (a : Assignment) (s : State),
    s.TakesFrame c .unit →
    let r := s.bay.cell c
    let l := s.bay.lot a.lot
    let p := s.tables.profiles[(l.routeStep a.step).profile]
    let b : BinNo := Fin.ofNat 16 (min bin.toNat 15)
    let good : Bool := p.goodBins.getLsbD b.val
    ∀ rec : StepRec, r.state = .running → r.assignment = some a → site.val < r.sites.getD 0 → r.pause = .none →
    1 ≤ a.step → l.stepIndex = some a.step → l.steps[a.step - 1]? = some rec → l.state = .active → l.holds = [] →
    (∀ c', s.NamedBy a.lot c' → c' = c) →
    let entry (kind : HoldKind) (origin : HoldOrigin) (detail : HoldDetail) : HoldEntry :=
      { kind := kind, origin := origin, raisedAt := s.part.clock, stepIndex := a.step, occurrences := 1, detail := detail }
    let frame : CellMsg := .unit a.id (BitVec.ofNat 8 site.val) bin sequence
    let queue := s.bay.queue.filter (· ≠ a.lot)
    ((16777215 ≤ rec.tested ∨ 16777215 ≤ rec.bins[b] ∨ (good = true ∧ 16777215 ≤ rec.good)) →
      Takes s c .handler lot frame
        { (s.records.setLot a.lot (l.heldWith [entry .count .count (.saturated c)])).setCell c (r.pausedFor a.lot) with
          queue := queue }
        [.lotState a.lot, .cellState c])
    ∧ (rec.tested < 16777215 → rec.bins[b] < 16777215 → (good = true → rec.good < 16777215) →
      a.units + 1 ≠ a.qty → a.units < 16777215 →
      let rec' := rec.counted b good
      let a' := a.counted site b good
      let raises := unitRaises p rec' c (r.sites.getD 0) a' site
      raises ≠ [] →
      let holds := raises.foldl (fun q x => raiseIn q (entry x.1 .gate x.2)) []
      let r' : CellRec :=
        { r with
          assignment := some a', stalled := false, stallDeadline := none, pause := .sent
          commands := placePause r.commands a.id a.lot
          suspect := r.suspect || raises.any (·.1 = .run) }
      Takes s c .handler lot frame
        { (s.records.setLot a.lot { l.heldWith holds with steps := l.steps.set (a.step - 1) rec' }).setCell c r' with
          queue := queue }
        [.lotState a.lot, .cellState c])

/-- R47, R82, R141 to R146: a closing TALLY of a cell that goes to CLAIMED, LOCAL or FAULTED, or goes IDLE and is cut nothing
(it qualifies for no lot then in the queue): the missing units are added, the unsent FINISH is removed, a NO_RETAIN slot is
emptied, the cell takes its next state and the uncounted quantity returns. Within the tolerance, with no cell IDLE before it,
nothing is raised; out of it in some bin a TALLY hold names the lowest such bin and comes before the return (here on an
ACTIVE or CLOSING lot with this one cell). -/
def Obligations.TallyClosesSublot : Prop :=
  (∀ (c : CellNo) (lot : Half) (bins : Vector (BitVec 24) 16) (returned missing : BitVec 24) (a : Assignment) (k : SlotNo)
    (s : State), s.TakesFrame c .tally → s.NoIdle →
    let r := s.bay.cell c
    let l := s.bay.lot a.lot
    let p := s.tables.profiles[(l.routeStep a.step).profile]
    r.state = .running → r.assignment = some a → a.slot = some k →
    s.RestsAfterTally c (s.returned a.lot (a.qty - a.units)).2 →
    (∀ b : BinNo, bins[b].toNat ≤ a.bins[b] + p.tolerance ∧ a.bins[b] ≤ bins[b].toNat + p.tolerance) →
    s.KeepsOpen a.lot (a.qty - a.units) →
    let l' : LotRec :=
      let l' := (s.returned a.lot (a.qty - a.units)).1
      { l' with
        steps := l.steps.modify (a.step - 1) fun r => { r with missing := min (r.missing + missing.toNat) 16777215 } }
    let drop : Prop :=
      r.slots[k].state ≠ .empty
        ∧ ∃ program revision, r.slots[k].image = some (program, revision)
          ∧ ∃ e, s.tables.entryOf program = some e ∧ e.noRetain = true
    let r' : CellRec :=
      { r with
        state := r.afterTally
        pause := .none, stallDeadline := none, localPending := false, claimPending := false, stalled := false
        stallFinish := false, assignment := none, commands := r.commands.filter (!·.finishes a.id) }
    let takes (r' : CellRec) : Prop :=
      Takes s c .handler lot (.tally a.id bins returned missing)
        ((({ s.afterReturn a.lot (a.qty - a.units) with lots := s.bay.lots }).setLot a.lot l').setCell c r') [.cellState c]
    (drop → takes { r' with slots := r.slots.set k { r.slots[k] with state := .empty, image := none } })
    ∧ (¬drop → takes r'))
  ∧ (∀ (c : CellNo) (lot : Half) (bins : Vector (BitVec 24) 16) (returned missing : BitVec 24) (a : Assignment) (k : SlotNo)
    (b : BinNo) (s : State), s.TakesFrame c .tally →
    let r := s.bay.cell c
    let l := s.bay.lot a.lot
    let p := s.tables.profiles[(l.routeStep a.step).profile]
    let differs (j : BinNo) : Prop := a.bins[j] + p.tolerance < bins[j].toNat ∨ bins[j].toNat + p.tolerance < a.bins[j]
    r.state = .running → r.assignment = some a → a.slot = some k →
    s.RestsAfterTally c (s.bay.queue.filter (· ≠ a.lot)) →
    differs b → (∀ j : BinNo, j < b → ¬differs j) →
    (l.state = .active ∨ (l.state = .closing ∧ 0 < l.remaining + (a.qty - a.units))) → l.holds = [] →
    (∀ c', s.NamedBy a.lot c' → c' = c) →
    let e : HoldEntry :=
      { kind := .tally, origin := .count, raisedAt := s.part.clock, stepIndex := l.stepIndex.getD 0, occurrences := 1
        detail := .tally c (some b) }
    let l' : LotRec :=
      { l.heldWith [e] with
        saved := some .active, remaining := l.remaining + (a.qty - a.units), openSublots := l.openSublots - 1
        steps := l.steps.modify (a.step - 1) fun r => { r with missing := min (r.missing + missing.toNat) 16777215 } }
    let drop : Prop :=
      r.slots[k].state ≠ .empty
        ∧ ∃ program revision, r.slots[k].image = some (program, revision)
          ∧ ∃ e, s.tables.entryOf program = some e ∧ e.noRetain = true
    let r' : CellRec :=
      { r with
        state := r.afterTally
        pause := .none, stallDeadline := none, localPending := false, claimPending := false, stalled := false
        stallFinish := false, assignment := none, commands := r.commands.filter (!·.finishes a.id) }
    let takes (r' : CellRec) : Prop :=
      Takes s c .handler lot (.tally a.id bins returned missing)
        { (s.records.setLot a.lot l').setCell c r' with queue := s.bay.queue.filter (· ≠ a.lot) }
        [.lotState a.lot, .cellState c]
    (drop → takes { r' with slots := r.slots.set k { r.slots[k] with state := .empty, image := none } })
    ∧ (¬drop → takes r'))

/-- R11, R12, R13, R15, R47, R82, R142, R145, R147 to R150, R152: the TALLY that closes the last sublot of a step, nothing
returning, runs the step-close evaluation: COUNT for a loss above the limit or a surplus, YIELD and BIN as exact comparisons
where they are not waived. A CLOSING lot for which something is raised is HELD; else its step closes: the last leaves the lot
COMPLETE, and one that follows opens, queued, or HELD without its program, or, as the last, closed at once with input 0
(here a lot that is not in the queue, as no CLOSING lot is). A lot that is HELD already keeps its set, where nothing is raised,
and has been evaluated. The cell takes its next state (if IDLE, qualifying for no lot then in the queue). -/
def Obligations.LastTallyEvaluatesStep : Prop :=
  ∀ (c : CellNo) (lot : Half) (bins : Vector (BitVec 24) 16) (returned missing : BitVec 24) (a : Assignment) (k : SlotNo)
    (rec : StepRec) (s : State), s.TakesFrame c .tally →
    let r := s.bay.cell c
    let l := s.bay.lot a.lot
    let p := s.tables.profiles[(l.routeStep a.step).profile]
    r.state = .running → r.assignment = some a → a.slot = some k →
    (∀ b : BinNo, bins[b].toNat = a.bins[b]) → 1 ≤ a.step → l.stepIndex = some a.step →
    l.steps[a.step - 1]? = some rec → l.remaining = 0 → l.openSublots = 1 → a.qty ≤ a.units → rec.closeEvaluated = false →
    (∀ c', s.NamedBy a.lot c' → c' = c) →
    let drop : Bool :=
      decide (r.slots[k].state ≠ .empty) && r.slots[k].image.any fun x => (s.tables.entryOf x.1).any (·.noRetain)
    let r' : CellRec :=
      { r with
        state := r.afterTally, pause := .none, stallDeadline := none, localPending := false, claimPending := false
        stalled := false, stallFinish := false, assignment := none
        slots := if drop then r.slots.set k { r.slots[k] with state := .empty, image := none } else r.slots
        commands := r.commands.filter (!·.finishes a.id) }
    let takes (l' : LotRec) (queue : List LotNo) (reported : List Notice) : Prop :=
      Takes s c .handler lot (.tally a.id bins returned missing)
        { (s.records.setLot a.lot l').setCell c r' with queue := queue } reported
    let entry (kind : HoldKind) (origin : HoldOrigin) (detail : HoldDetail) : HoldEntry :=
      { kind := kind, origin := origin, raisedAt := s.part.clock, stepIndex := a.step, occurrences := 1, detail := detail }
    let count : List HoldEntry :=
      if rec.input < rec.tested then [entry .count .count (.surplus (rec.tested - rec.input))]
      else if rec.tested + p.lossLimit < rec.input then [entry .count .count (.loss (rec.input - rec.tested))]
      else []
    let bad (b : BinNo) : Bool :=
      decide (p.goodBins.getLsbD b.val = false ∧ p.ceilings[b] < 10000 ∧ p.ceilings[b] * rec.tested < rec.bins[b] * 10000)
    let bin : List HoldEntry :=
      if rec.waivers.bin = false ∧ 0 < rec.tested then
        (((List.finRange 16).filter bad).take 1).map fun b => entry .bin .gate (.bin b)
      else []
    let yield : List HoldEntry :=
      if rec.waivers.yield = false ∧ 0 < rec.tested ∧ 0 < p.yieldFloor ∧ rec.good * 10000 < p.yieldFloor * rec.tested then
        [entry .yield .gate (.yield rec.tested rec.good (rec.good * 10000 / rec.tested))]
      else []
    let holds := count ++ bin ++ yield
    let rec' : StepRec := { rec with missing := min (rec.missing + missing.toNat) 16777215, closeEvaluated := true }
    let out := s.bay.queue.filter (· ≠ a.lot)
    let both : List Notice := [.lotState a.lot, .cellState c]
    (l.state = .closing → l.saved = none → l.holds = [] →
      (holds ≠ [] → s.RestsAfterTally c out →
        takes { l.heldWith holds with openSublots := 0, steps := l.steps.set (a.step - 1) rec' } out both)
      ∧ (holds = [] →
        let closed := { l with openSublots := 0 }.advancedFrom a.step rec'
        (l.route.length = a.step → s.RestsAfterTally c s.bay.queue → takes (s.completed closed) s.bay.queue both)
        ∧ ∀ (next : RouteStep) (n : StepRec), l.route[a.step]? = some next → l.steps[a.step]? = some n →
          let input := s.nextInput closed a.step rec' next
          let opened := closed.openedAt (a.step + 1) input s.part.clock n
          (0 < input → (∃ e, s.Catalogued next.program e) → s.NoIdle → s.RestsAfterTally c s.bay.queue →
            (r.afterTally = .idle → r.FitsNot s.tables opened a.lot) →
            let l' : LotRec := { opened with ageDeadline := s.ageOf opened }
            takes l' (s.placed s.bay.queue a.lot l') both)
          ∧ (0 < input → (∀ (j : Fin 128) (x : CatalogueEntry), s.tables.catalogue[j] = some x → x.program ≠ next.program) →
            s.RestsAfterTally c out → takes (s.programHeld opened (a.step + 1) next.program) out both)
          ∧ (input = 0 → l.route.length = a.step + 1 → a.lot ∉ s.bay.queue → s.RestsAfterTally c s.bay.queue →
            takes
              (s.completed
                { opened with
                  carried := if next.kind = .test then 0 else closed.carried
                  steps := closed.steps.set a.step
                    { n with
                      state := .closed, input := 0, closeEvaluated := true, loss := (0 : Int) - n.tested, waivers := {} } })
              s.bay.queue both)))
    ∧ (l.state = .held → l.saved = some .closing → holds = [] → s.RestsAfterTally c s.bay.queue →
      takes { l with openSublots := 0, steps := l.steps.set (a.step - 1) rec' } s.bay.queue [.cellState c])

/-- R34, R35, R36, R37, R38, R83, R95: STATE records the alarm code in every state; LOCAL and REMOTE by cell state, with no cell
IDLE where an offer or an assignment is given up; a load given up leaves the wait queue and the lists of its channel (here with
no round to start by it); another mode is a protocol error. -/
def Obligations.StateFrames : Prop :=
  ∀ (c : CellNo) (lot : Half) (mode : Byte) (alarm : Half) (s : State), s.TakesFrame c .state →
    let r : CellRec := { s.bay.cell c with alarm := alarm }
    let takes (r' : CellRec) : Prop := Takes s c .handler lot (.state mode alarm) (s.records.setCell c r')
    (mode ≠ 0#8 → mode ≠ 1#8 → takes r.erred)
    ∧ (mode = 0#8 ∨ mode = 1#8 → r.state ∈ [.claimed, .faulted] → takes r)
    ∧ (mode = 0#8 →
      (r.state ∈ [.offline, .notReady, .idle, .localMode] → takes { r with state := .localMode })
      ∧ (r.state = .running → takes { r with localPending := true })
      ∧ (s.NoIdle → ∀ a, r.assignment = some a → s.KeepsOpen a.lot a.qty →
        (r.state = .offered →
          Takes s c .handler lot (.state mode alarm)
            ((s.afterReturn a.lot a.qty).setCell c
              { r.withdrawn a.id (some a.lot) with state := .localMode, offerDeadline := none, assignment := none })
            [.cellState c])
        ∧ (r.state = .loading → ∀ ld, r.load = some ld → s.EndsNoRound c →
          Takes s c .handler lot (.state mode alarm)
            ((s.leftBy c (s.afterReturn a.lot a.qty)).setCell c
              { r.unloaded ld with state := .localMode, assignment := none })
            [.cellState c]))
      ∧ (r.state = .loading → r.assignment = none → ∀ ld, r.load = some ld → s.EndsNoRound c →
        Takes s c .handler lot (.state mode alarm)
          ((s.leftBy c s.records).setCell c { r.unloaded ld with state := .localMode }) [.cellState c]))
    ∧ (mode = 1#8 →
      (r.state = .localMode → takes { r with state := .notReady })
      ∧ (r.state = .running → takes { r with localPending := false })
      ∧ (r.state ∈ [.offline, .notReady, .idle, .loading, .offered] → takes r))

/-- R66, R78, R83, R84, R96 to R99: LOADED for an AWAITING load: good at the current revision it makes the slot RESIDENT and the
offer, or the cell IDLE; at a revision no longer current it leaves the slot STALE and starts a fresh load, or the cell is IDLE. A
REJECT fails the load. The first failure in a row starts it again under the assignment, and the cell joins the failed-cell set
of the step, a third member holding the lot (here an ACTIVE lot with this one cell); the second makes the cell FAULTED, an
assignment being returned with no cell IDLE. -/
def Obligations.LoadedEndsLoad : Prop :=
  ∀ (c : CellNo) (lot : Half) (result : Byte) (ld : LoadRec) (s : State), s.TakesFrame c .loaded →
    let r := s.bay.cell c
    let program := ld.image.program
    let revision := ld.image.revision
    let ends (rec : Records) (reported : List Notice) : Prop :=
      Takes s c .tester lot (.loaded program revision (BitVec.ofNat 8 ld.slot.val) result) rec reported
    let takes (r' : CellRec) : Prop :=
      ends { s.records.setCell c r' with waitQueue := s.bay.waitQueue.filter (· ≠ c) } [.cellState c]
    let good (state : SlotState) : CellRec :=
      { r with
        loadFailures := 0, load := none
        slots := r.slots.set ld.slot { r.slots[ld.slot] with state := state, lastUse := s.part.clock } }
    let current : Prop := ∃ e, s.Catalogued program e ∧ e.revision = revision
    let gone : Prop :=
      ∀ (j : Fin 128) (e : CatalogueEntry), s.tables.catalogue[j] = some e → e.program ≠ program ∨ e.revision ≠ revision
    r.state = .loading → r.load = some ld → ld.place = .awaiting → s.Unlisted c →
    (result = 0#8 → current →
      (∀ a, r.assignment = some a → r.slots[ld.slot].image = some (program, revision) →
        let st := (s.bay.lot a.lot).routeStep a.step
        let soak := if r.temp = some st.temp then 0 else s.tables.cellConfig[c].soak
        let offer : Offer :=
          { id := a.id, lot := a.lot, step := a.step, qty := a.qty, program := st.program, revision := revision
            slot := ld.slot, temp := st.temp }
        takes
          { good .resident with
            state := .offered, assignment := some { a with slot := some ld.slot }
            offerDeadline := some (dueAt s.part.clock ((s.tables.settings.offerTimeout + soak) * 1000))
            commands := r.commands.filter (!·.isOffer) ++ [.offer offer] })
      ∧ (r.assignment = none → s.bay.queue = [] → takes { good .resident with state := .idle }))
    ∧ (result = 0#8 → r.assignment = none → s.bay.queue = [] → gone → takes { good .stale with state := .idle })
    ∧ (result ≠ 0#8 → r.assignment = none → r.loadFailures = 1 → takes (r.faultedBy ld))
    ∧ (result ≠ 0#8 → r.assignment = none → r.loadFailures = 0 → s.bay.queue = [] →
      takes { r.faultedBy ld with state := .idle, loadFailures := 1 })
    ∧ ∀ a, r.assignment = some a → c ∉ s.bay.waitQueue →
      let l := s.bay.lot a.lot
      let st := l.routeStep a.step
      (∀ (e : CatalogueEntry) (v : SlotNo), s.Catalogued st.program e →
        (result = 0#8 → gone → (good .stale).Victim e.program e.revision v →
          ends (s.loadStarted c (good .stale) a e v) [])
        ∧ (result ≠ 0#8 → r.loadFailures = 0 → (r.unloaded ld).Victim e.program e.revision v →
          (l.FewFailed a.step c → ends (s.retried c ld a e v) [.cellState c])
          ∧ (c ∉ (l.stepRec a.step).failedCells → 2 ≤ (l.stepRec a.step).failedCells.length → l.state = .active → l.holds = [] →
            (∀ c', s.NamedBy a.lot c' → c' = c) →
            let hold : HoldEntry :=
              { kind := .program, origin := .program, raisedAt := s.part.clock, stepIndex := l.stepIndex.getD 0
                occurrences := 1, detail := .program st.program none }
            let t := s.retried c ld a e v
            ends
              { (t.setLot a.lot
                  { (l.failedOn a.step c).heldWith [hold] with
                    remaining := l.remaining + a.qty, openSublots := l.openSublots - 1 }).setCell c
                  { t.cells[c] with assignment := none } with
                queue := s.bay.queue.filter (· ≠ a.lot) }
              [.lotState a.lot, .cellState c])))
      ∧ (result ≠ 0#8 → r.loadFailures = 1 → s.NoIdle → s.KeepsOpen a.lot a.qty → l.FewFailed a.step c →
        ends (s.failedTwice c ld a) [.cellState c])

/-- R91, R95, R178, R179, R180, R201: a frame that a port's check refuses changes nothing but its count: frame check failures
and destination errors of the port, protocol errors of the cell, uplink strays. A SEGMENT without image bytes, for no
channel, for no outstanding pull or for another image is a stray, and so is one of wrong number on a DRAINING channel. -/
def Obligations.RefusedFramesAndSegmentStrays : Prop :=
  (∀ (c : CellNo) (s : State), s.Quiet →
    let r := s.bay.cell c
    let p := s.link.ports[c]
    let port (v : PortView) : Records := { s.records with ports := s.records.ports.set c v }
    (p.up = true →
      Leaves (.frameCheckFailure (.cell c)) s (port { p.view with checkFailures := min (p.checkFailures + 1) 65535 })
      ∧ Leaves (.destinationError c) s (port { p.view with destinationErrors := min (p.destinationErrors + 1) 65535 })
      ∧ Leaves (.sourceCheckFailure c) s (s.records.setCell c r.erred)
      ∧ Leaves (.wrongKindOrLength c) s (s.records.setCell c r.erred))
    ∧ (s.link.uplinkUp = true →
      Leaves (.frameCheckFailure .uplink) s
        { s.records with uplinkCheckFailures := min (s.link.uplinkCheckFailures + 1) 65535 }
      ∧ Leaves .uplinkStray s { s.records with strays := min (s.link.strays + 1) 65535 }))
  ∧ (∀ (lot : Half) (channel slot : Byte) (program : Half) (revision : Byte) (number : Half) (image : List Byte) (s : State),
    s.TakesUplink → image.length ≤ 1024 →
    (image = [] ∨ 8 ≤ channel.toNat
      ∨ ∃ k : ChanNo, k.val = channel.toNat
        ∧ ((s.bay.chan k).pull = none
          ∨ (∃ im, (s.bay.chan k).image = some im ∧ (im.program ≠ program ∨ im.revision ≠ revision))
          ∨ (s.bay.chan k).state = .draining
            ∧ ∃ p, (s.bay.chan k).pull = some p ∧ number.toNat ≠ p.first + p.arrived)) →
    Leaves (.segment lot channel slot program revision number image) s
      { s.records with strays := min (s.link.strays + 1) 65535 })

/-! ### Frames from the floor server -/

/-- R86, R90, R91, R93, R94, R95, R98, R99: the expected SEGMENT joins the tail of its channel's segment queue and counts as
arrived; the one that completes the pull puts the written mode into force, and the channel (here with no next pull to issue,
or no room for one) has no pull and keeps its slot only in mode WHOLE with segments still to ask for; a DRAINING channel ends
its round. One of wrong number faults its channel with cause SEQUENCE: the channel is IDLE, without a pull and a slot, unless a
load that starts again starts it, and its targets' loads have failed, here one target's, with no load waiting: the second in a
row makes the cell FAULTED, an assignment being returned with no cell IDLE, and the first starts again under the assignment. -/
def Obligations.SegmentTakenOrChannelFaulted : Prop :=
  (∀ (k : ChanNo) (lot : Half) (slot : Byte) (number : Half) (image : List Byte) (im : Image) (p : Pull) (s : State),
    s.TakesUplink → image ≠ [] → image.length ≤ 1024 →
    let ch := s.bay.chan k
    ch.image = some im → ch.pull = some p → number.toNat = p.first + p.arrived →
    let i : Instr := .segment lot (BitVec.ofNat 8 k.val) slot im.program im.revision number image
    let v : ChannelView := { ch.view with segs := ch.segs ++ [{ number := number.toNat, lot := lot, image := image }] }
    let channels (v : ChannelView) : Records := { s.records with channels := s.records.channels.set k v }
    let kept : Bool := decide (s.tables.channels[k].mode = .whole ∧ 0 < ch.current) && ch.slotHeld
    (p.arrived + 1 < p.n →
      ∃ t, exec i s = .next t ∧ t.records = channels (if ch.state = .draining then ch.view else v)
        ∧ t.traffic = s.traffic ∧ (t.bay.chan k).pull = some { p with arrived := p.arrived + 1 }
        ∧ (t.bay.chan k).state = ch.state)
    ∧ (p.arrived + 1 = p.n → ch.state ≠ .draining → ch.targets ≠ [] →
      LeavesAnd i s (channels { v with modeInForce := s.tables.channels[k].mode }) [] fun t =>
        ch.current = 0 ∨ s.free ≤ s.tables.settings.loadWatermark →
          (t.bay.chan k).state = ch.state ∧ (t.bay.chan k).current = ch.current ∧ (t.bay.chan k).pull = none
            ∧ (t.bay.chan k).slotHeld = kept)
    ∧ (p.arrived + 1 = p.n → ch.state = .draining → s.bay.waitQueue = [] →
      LeavesAnd i s (s.roundEnded k s.tables.channels[k].mode) [] fun t => ch.RoundEnded (t.bay.chan k)))
  ∧ (∀ (k : ChanNo) (c : CellNo) (lot : Half) (slot : Byte) (number : Half) (image : List Byte) (im : Image) (p : Pull)
    (t : Target) (ld : LoadRec) (s : State), s.TakesUplink → image ≠ [] → image.length ≤ 1024 →
    let ch := s.bay.chan k
    let r := s.bay.cell c
    ch.image = some im → ch.pull = some p → number.toNat ≠ p.first + p.arrived → ch.state ≠ .draining →
    ch.targets = [t] → t.cell = c → ch.nextRound = [] → s.bay.waitQueue = [] → r.load = some ld →
    (∀ k', k' ≠ k → (∀ x ∈ (s.bay.chan k').targets, x.cell ≠ c) ∧ ∀ e ∈ (s.bay.chan k').nextRound, e.1 ≠ c) →
    let i : Instr := .segment lot (BitVec.ofNat 8 k.val) slot im.program im.revision number image
    let u := s.faultedChannel k .sequence
    let rests (t : State) : Prop := (t.bay.chan k).AtRest
    (r.assignment = none → r.loadFailures = 1 → LeavesAnd i s (u.records.setCell c (r.faultedBy ld)) [.cellState c] rests)
    ∧ ∀ a, r.assignment = some a → (s.bay.lot a.lot).FewFailed a.step c →
      (r.loadFailures = 1 → s.NoIdle → s.KeepsOpen a.lot a.qty → LeavesAnd i s (u.failedTwice c ld a) [.cellState c] rests)
      ∧ (r.loadFailures = 0 → ∀ (e : CatalogueEntry) (v : SlotNo),
        s.Catalogued ((s.bay.lot a.lot).routeStep a.step).program e → (r.unloaded ld).Victim e.program e.revision v →
        LeavesAnd i s (u.retried c ld a e v) [.cellState c] fun t => (t.bay.chan k).targets = [] → rests t))

/-- R165, R180, R181, R182, Table 9-2: a through-frame is copied once for each cell station that its destination names (a station,
a group in use, or all), in ascending index, with room for every copy and every line up; each copy is the frame addressed to
its one station. A copy for which there is no room, or whose line is down, is dropped and counted. A stray is a frame to a group
not in use or to a station that nothing has, one of kind REQUEST or SEGMENT to cell stations, and one of another kind to P; that
a frame to 0x0000 is one too is the model's choice (notes/assumptions/43.md). -/
def Obligations.ThroughFrames : Prop :=
  (∀ (dst : Half) (kind : Byte) (lot : Half) (payload : List Byte) (s : State), s.TakesUplink → payload.length ≤ 1024 →
    kind ≠ 0x20#8 → kind ≠ 0x21#8 → s.part.station.toNat ≤ 65408 → 129 ≤ s.free →
    (∀ c : CellNo, s.link.ports[c].up = true ∧ s.link.ports[c].downlink.length ≤ 6) →
    let station (i : Fin 64) : Half := s.part.station + BitVec.ofNat 16 (1 + i.val)
    let copy (i : Fin 64) : Frame :=
      { dst := station i, src := 0x0000#16, kind := kind, lot := lot, descriptor := [], payload := payload }
    let copied (member : Fin 64 → Bool) : Prop :=
      Leaves (.throughFrame dst kind lot payload) s
        { s.records with
          ports := Vector.ofFn fun c : CellNo =>
            { s.link.ports[c].view with
              downlink := s.link.ports[c].downlink
                ++ ((List.finRange 64).filter fun i => member i && decide (i.val / 2 = c.val)).map copy } }
    (∀ i, dst = station i → copied fun j => decide (j = i))
    ∧ (∀ g : Fin 4, dst = s.part.station + BitVec.ofNat 16 (100 + g.val) → s.tables.groups[g].inUse = true →
      copied fun j =>
        decide (BitVec.ofNat 6 j.val &&& s.tables.groups[g].mask = s.tables.groups[g].value &&& s.tables.groups[g].mask))
    ∧ (dst = 0xFFFF#16 → copied fun _ => true))
  ∧ (∀ (dst : Half) (kind : Byte) (lot : Half) (payload : List Byte) (s : State), s.TakesUplink → payload.length ≤ 1024 →
    1 ≤ s.part.station.toNat → s.part.station.toNat ≤ 65408 →
    let i : Instr := .throughFrame dst kind lot payload
    (∀ (j : Fin 64) (c : CellNo), dst = s.part.station + BitVec.ofNat 16 (1 + j.val) → c.val = j.val / 2 →
      kind ≠ 0x20#8 → kind ≠ 0x21#8 →
      (s.link.ports[c].up = false ∨ s.free ≤ 64 ∨ 8 ≤ s.link.ports[c].downlink.length) →
      let r := s.bay.cell c
      Leaves i s (s.records.setCell c { r with counters := { r.counters with drops := min (r.counters.drops + 1) 65535 } }))
    ∧ (let cell : Prop := ∃ j : Fin 64, dst = s.part.station + BitVec.ofNat 16 (1 + j.val)
      let group (used : Bool) : Prop :=
        ∃ g : Fin 4, dst = s.part.station + BitVec.ofNat 16 (100 + g.val) ∧ s.tables.groups[g].inUse = used
      let request : Prop := kind = 0x20#8 ∨ kind = 0x21#8
      (group false ∨ ((cell ∨ group true ∨ dst = 0xFFFF#16) ∧ request) ∨ (dst = s.part.station ∧ ¬request)
          ∨ (¬cell ∧ ¬group true ∧ dst ≠ 0xFFFF#16 ∧ dst ≠ s.part.station ∧ dst ≠ 0x0000#16) ∨ dst = 0x0000#16 →
        Leaves i s { s.records with strays := min (s.link.strays + 1) 65535 })))

/-! ### Line states -/

/-- R47, R48, R49, R95, R186: loss of a cell's line: the port's queues are gone, the cell is OFFLINE with its marks, slots and
commands cleared; an offer's quantity, and that of a load's assignment, returns (with no cell IDLE), the load leaving its
channel (here with no round to start by it); a running sublot is closed and its lot held (here an ACTIVE lot with this one
cell); a cell already OFFLINE loses its queues and slots alone. That the
loss counts no frame check failure of the port is the model's choice (notes/assumptions/41.md). -/
def Obligations.CellLineLoss : Prop :=
  ∀ (c : CellNo) (s : State), s.Quiet →
    let r := s.bay.cell c
    let emptied := r.slots.map fun x => { x with state := .empty, image := none }
    let r' : CellRec :=
      { r with
        state := .offline, offerDeadline := none, assignment := none, commands := [], slots := emptied, pause := .none
        stallDeadline := none, localPending := false, claimPending := false, stalled := false, stallFinish := false
        excluded := none }
    let down (rec : Records) : Records :=
      { rec with ports := rec.ports.set c { s.link.ports[c].view with up := false, downlink := [] } }
    let leaves (rec : Records) (reported : List Notice) : Prop := Leaves (.cellLineStateLoss c) s (down rec) reported
    (r.state = .offline → leaves (s.records.setCell c { r with commands := [], slots := emptied }) [])
    ∧ (r.state ∈ [.notReady, .idle, .localMode, .claimed, .faulted] →
      leaves (s.records.setCell c { r' with assignment := r.assignment }) [.cellState c])
    ∧ (r.state = .loading → ∀ ld, r.load = some ld → s.EndsNoRound c →
      let gone (rec : Records) : Prop := leaves ((s.leftBy c rec).setCell c { r' with load := none }) [.cellState c]
      (r.assignment = none → gone s.records)
      ∧ ∀ a, r.assignment = some a → s.NoIdle → s.KeepsOpen a.lot a.qty → gone (s.afterReturn a.lot a.qty))
    ∧ (∀ a, r.assignment = some a →
      (r.state = .offered → s.NoIdle → s.KeepsOpen a.lot a.qty →
        leaves ((s.afterReturn a.lot a.qty).setCell c r') [.cellState c])
      ∧ (r.state = .running → (s.bay.lot a.lot).state = .active → (s.bay.lot a.lot).holds = [] →
        (∀ c', s.NamedBy a.lot c' → c' = c) →
        let l := s.bay.lot a.lot
        let e : HoldEntry :=
          { kind := .tally, origin := .count, raisedAt := s.part.clock, stepIndex := l.stepIndex.getD 0, occurrences := 1
            detail := .tally c none }
        let l' : LotRec :=
          { l.heldWith [e] with remaining := l.remaining + (a.qty - a.units), openSublots := l.openSublots - 1 }
        leaves { (s.records.setLot a.lot l').setCell c r' with queue := s.bay.queue.filter (· ≠ a.lot) }
          [.lotState a.lot, .cellState c]))

/-- R174, R175, R186: recovery of a cell's line changes its line state alone, and loss of the uplink stops sending and keeps every
entry of the uplink queue, of every kind, in its order; recovery restarts it and keeps them too. The model's choices: while a
line is down a frame commanded at it has no effect (notes/assumptions/15.md), the head entry counts as being sent whenever the
line is up (16.md), and the loss counts no frame check failure (41.md). -/
def Obligations.LineRecoveryAndUplinkLoss : Prop :=
  (∀ (c : CellNo) (s : State), s.Quiet →
    LeavesAnd (.cellLineStateRecovery c) s
      { s.records with ports := s.records.ports.set c { s.link.ports[c].view with up := true } } []
      (s.UplinkKept s.link.uplink)
    ∧ (s.link.ports[c].up = false → ∀ (src : CellStation) (lot : Half) (m : CellMsg), Leaves (m.instr c src lot) s s.records))
  ∧ (∀ s : State, s.Quiet →
    LeavesAnd .uplinkLineStateLoss s
      { s.records with
        uplinkUp := false
        headCut := decide (s.link.uplink ≠ []) && (s.link.uplinkUp || s.link.headCut) } []
      (s.UplinkKept s.link.uplink)
    ∧ LeavesAnd .uplinkLineStateRecovery s { s.records with uplinkUp := true, headCut := false } [] (s.UplinkKept s.link.uplink)
    ∧ (s.link.uplinkUp = false →
      (∀ i, isRequest i = true → Leaves i s s.records)
      ∧ (∀ (lot : Half) (channel slot : Byte) (program : Half) (revision : Byte) (number : Half) (image : List Byte),
        Leaves (.segment lot channel slot program revision number image) s s.records)
      ∧ ∀ (dst : Half) (kind : Byte) (lot : Half) (payload : List Byte), Leaves (.throughFrame dst kind lot payload) s s.records))

/-! ### Expiries -/

/-- R195: a deadline above the clock is not taken. The model's choice (notes/assumptions/3.md): with no deadline of a kind due, the
kind's expiry command leaves the records as they are. -/
def Obligations.ExpiriesNotDue : Prop :=
  ∀ s : State, s.Quiet →
    let now := s.part.clock
    ((∀ c d, (s.bay.cell c).offerDeadline = some d → now < d) → Leaves .offerDeadlineExpiry s s.records)
    ∧ ((∀ c d, (s.bay.cell c).stallDeadline = some d → now < d) → Leaves .stallDeadlineExpiry s s.records)
    ∧ ((∀ h d, (s.bay.lot h).ageDeadline = some d → now < d) → Leaves .ageDeadlineExpiry s s.records)
    ∧ ((∀ k p, (s.bay.chan k).pull = some p → now < p.deadline) → Leaves .pullDeadlineExpiry s s.records)
    ∧ ((∀ c ld d, (s.bay.cell c).load = some ld → ld.deadline = some d → now < d) →
      Leaves .loadDeadlineExpiry s s.records)
    ∧ ((∀ h d, (s.bay.lot h).state = .complete → (s.bay.lot h).quarantineSpent = false →
        (s.bay.lot h).quarantine = some d → now < d) → Leaves .quarantineExpiry s s.records)

/-- R44, R45, R46, R70, R72, R73, R195: of the offer and of the stall deadlines due, the earliest is taken, the lowest cell
number among equals. An offer is withdrawn (with no cell IDLE) and the cell NOT_READY; a first stall expiry marks the
cell stalled and arms again, a second finishes the sublot. -/
def Obligations.OfferAndStallExpiries : Prop :=
  ∀ (c : CellNo) (d : Nat) (s : State), s.Quiet → d ≤ s.part.clock →
    let r := s.bay.cell c
    (r.offerDeadline = some d →
      (∀ c' d', (s.bay.cell c').offerDeadline = some d' → d < d' ∨ (d = d' ∧ c ≤ c')) →
      ∀ a, r.assignment = some a → s.NoIdle → s.KeepsOpen a.lot a.qty →
      let late : CellRec :=
        { r with counters := { r.counters with offerTimeouts := min (r.counters.offerTimeouts + 1) 65535 } }
      Leaves .offerDeadlineExpiry s
        ((s.afterReturn a.lot a.qty).setCell c
          { late.withdrawn a.id (some a.lot) with state := .notReady, offerDeadline := none, assignment := none }))
    ∧ (r.stallDeadline = some d → r.state = .running →
      (∀ c' d', (s.bay.cell c').stallDeadline = some d' → d < d' ∨ (d = d' ∧ c ≤ c')) →
      (r.stalled = false →
        let r' : CellRec :=
          { r with
            stalled := true, stallDeadline := none
            counters := { r.counters with stalls := min (r.counters.stalls + 1) 65535 } }
        Leaves .stallDeadlineExpiry s (s.records.setCell c { r' with stallDeadline := s.stallArmed c r' }) [.cellState c])
      ∧ (r.stalled = true →
        Leaves .stallDeadlineExpiry s
          (s.records.setCell c { r with stallFinish := true, stallDeadline := none }.finished)))

/-- R55, R153, R156, R195: of the age and of the quarantine deadlines due, the earliest is taken, the lowest handle among
equals. A NORMAL lot takes class EXPEDITED and its place (with no cell IDLE); a COMPLETE lot that carries units is
released with both notices owed, one that carries none is reported and its deadline spent. -/
def Obligations.AgeAndQuarantineExpiries : Prop :=
  ∀ (h : LotNo) (d : Nat) (s : State), s.Quiet → d ≤ s.part.clock →
    let l := s.bay.lot h
    (l.ageDeadline = some d → (∀ h' d', (s.bay.lot h').ageDeadline = some d' → d < d' ∨ (d = d' ∧ h ≤ h')) →
      l.cls = .normal → h ∈ s.bay.queue → s.NoIdle →
      let l' : LotRec := { l with cls := .expedited, ageDeadline := none, stamp := l.stamp + 1 }
      Leaves .ageDeadlineExpiry s { s.records.setLot h l' with queue := s.placed s.bay.queue h l' } [.lotState h])
    ∧ (l.quarantine = some d → l.state = .complete → l.quarantineSpent = false →
      (∀ h' d', (s.bay.lot h').state = .complete → (s.bay.lot h').quarantineSpent = false →
        (s.bay.lot h').quarantine = some d' → d < d' ∨ (d = d' ∧ h ≤ h')) →
      (0 < l.carried →
        Leaves .quarantineExpiry s
          { s.records.setLot h (l.shipped h s.bay.releaseCounter s.part.clock) with
            releaseCounter := if s.bay.releaseCounter = 0xFFFFFFFF#32 then 1#32 else s.bay.releaseCounter + 1 }
          [.lotState h, .release h])
      ∧ (l.carried = 0 → Leaves .quarantineExpiry s (s.records.setLot h { l with quarantineSpent := true }) [.lotState h]))

/-- R93, R94, R95, R98, R99, R195: of the load and of the pull deadlines due, the earliest is taken, the lowest number among
equals. A load fails: the second in a row makes the cell FAULTED, an assignment being returned with no cell IDLE, and the first
starts again under the assignment. A DRAINING channel ends its round without a fault, IDLE or starting the next one; another
faults with cause TIMEOUT, its one target's load failing in the same way, and is IDLE, without a pull and a slot, unless that
load starts it again. -/
def Obligations.LoadAndPullExpiries : Prop :=
  ∀ (c : CellNo) (ld : LoadRec) (d : Nat) (s : State), s.Quiet → d ≤ s.part.clock → s.bay.waitQueue = [] →
    let r := s.bay.cell c
    let fails (i : Instr) (u : State) (ends retries : State → Prop) : Prop :=
      (r.assignment = none → r.loadFailures = 1 → LeavesAnd i s (u.records.setCell c (r.faultedBy ld)) [.cellState c] ends)
      ∧ ∀ a, r.assignment = some a → (s.bay.lot a.lot).FewFailed a.step c →
        (r.loadFailures = 1 → s.NoIdle → s.KeepsOpen a.lot a.qty → LeavesAnd i s (u.failedTwice c ld a) [.cellState c] ends)
        ∧ (r.loadFailures = 0 → ∀ (e : CatalogueEntry) (v : SlotNo),
          s.Catalogued ((s.bay.lot a.lot).routeStep a.step).program e → (r.unloaded ld).Victim e.program e.revision v →
          LeavesAnd i s (u.retried c ld a e v) [.cellState c] retries)
    (r.load = some ld → ld.deadline = some d → s.Unlisted c →
      (∀ c' x d', (s.bay.cell c').load = some x → x.deadline = some d' → d < d' ∨ (d = d' ∧ c ≤ c')) →
      fails .loadDeadlineExpiry s (fun _ => True) fun _ => True)
    ∧ ∀ (k : ChanNo) (p : Pull), (s.bay.chan k).pull = some p → p.deadline = d →
      (∀ k' p', (s.bay.chan k').pull = some p' → d < p'.deadline ∨ (d = p'.deadline ∧ k ≤ k')) →
      let ch := s.bay.chan k
      (ch.state = .draining →
        LeavesAnd .pullDeadlineExpiry s (s.roundEnded k ch.modeInForce) [] fun t => ch.RoundEnded (t.bay.chan k))
      ∧ (ch.state ≠ .draining → ch.nextRound = [] → ∀ t : Target, ch.targets = [t] → t.cell = c → r.load = some ld →
        (∀ k', k' ≠ k → (∀ x ∈ (s.bay.chan k').targets, x.cell ≠ c) ∧ ∀ e ∈ (s.bay.chan k').nextRound, e.1 ≠ c) →
        fails .pullDeadlineExpiry (s.faultedChannel k .timeout) (fun t => (t.bay.chan k).AtRest)
          fun t => (t.bay.chan k).targets = [] → (t.bay.chan k).AtRest)

/-! ### Sendings, notices and pulls -/

/-- R92, R93, R165, R170, R185: the end of a sending frees its buffer: the uplink queue loses its head, of whatever kind, while
its line is up, and keeps the others; the downlink queue loses the copy that was sent. The end of the sending of a segment copy
moves the target on and frees the segments that every target has passed; a target that has been sent the last segment leaves
the list and waits for its LOADED, and the last one to leave ends the round. The model's choices: the uplink head may end at
any moment (notes/assumptions/16.md), a copy that is not being sent has no end (5.md), and a copy of a target that has gone
counts for nothing (6.md). -/
def Obligations.SendingsEnd : Prop :=
  (∀ (c : CellNo) (s : State), s.Quiet →
    let p := s.link.ports[c]
    (s.link.uplinkUp = true →
      ∃ t, exec .uplinkSendingEnd s = .next t ∧ t.records = s.records
        ∧ t.traffic = s.link.uplink.tail.filter UpEntry.traffic ∧ s.UplinkKept s.link.uplink.tail t ∧ t.Settled)
    ∧ (s.link.uplinkUp = false → LeavesAnd .uplinkSendingEnd s s.records [] (s.UplinkKept s.link.uplink))
    ∧ (p.tx.copy = true →
      LeavesAnd (.downlinkCopySent c) s
        { s.records with ports := s.records.ports.set c { p.view with downlink := p.downlink.tail } } []
        (s.UplinkKept s.link.uplink))
    ∧ (p.tx.copy = false → LeavesAnd (.downlinkCopySent c) s s.records [] (s.UplinkKept s.link.uplink)))
  ∧ (∀ (c : CellNo) (g : SegmentCopy) (s : State), s.Quiet → s.link.ports[c].tx.segment = some g →
    let ch := s.bay.chan g.chan
    let r := s.bay.cell c
    let moved := ch.targets.map fun t => if t.cell = c then { t with pos := t.pos + 1 } else t
    let kept (targets : List Target) : List SegBuf :=
      ch.segs.filter fun sg => targets.any fun t => decide (t.pos ≤ sg.number)
    let channels (targets : List Target) (r' : CellRec) : Records :=
      { s.records.setCell c r' with
        channels := s.records.channels.set g.chan { ch.view with targets := targets, segs := kept targets } }
    (g.live = false → Leaves (.segmentCopySent c) s s.records)
    ∧ (g.live = true →
      (moved ≠ [] → (∀ t ∈ moved, t.cell = c → t.pos ≠ ch.base) → Leaves (.segmentCopySent c) s (channels moved r))
      ∧ (∀ ld, (∃ t ∈ moved, t.cell = c ∧ t.pos = ch.base) → (∃ t ∈ moved, t.cell ≠ c) → r.load = some ld →
        Leaves (.segmentCopySent c) s
          (channels (moved.filter (·.cell ≠ c))
            { r with
              load :=
                some
                  { ld with
                    place := .awaiting
                    deadline := some (dueAt s.part.clock (s.tables.settings.loadTimeout * 1000)) } }))
      ∧ (∀ ld, (∃ t ∈ moved, t.cell = c ∧ t.pos = ch.base) → (∀ t ∈ moved, t.cell = c) → r.load = some ld →
        ch.state ≠ .idle → ch.current = 0 → ch.pull = none → c ∉ ch.nextRound.map (·.1) → s.bay.waitQueue = [] →
        LeavesAnd (.segmentCopySent c) s
          ((s.roundEnded g.chan ch.modeInForce).setCell c
            { r with
              load :=
                some
                  { ld with
                    place := .awaiting
                    deadline := some (dueAt s.part.clock (s.tables.settings.loadTimeout * 1000)) } })
          [] fun t => ch.RoundEnded (t.bay.chan g.chan))))

/-- R184, R185: the command at the head of a cell's queue leaves it as its sending begins, on a line that is up and a port
that may be free, which is the model's choice (notes/assumptions/5.md); its frame goes from P to the handler station, RESTART to
both stations, with the fields of Table 11-4, and RESTART with lot handle 0xFFFF, which is the model's (28.md). -/
def Obligations.CommandSendingBegins : Prop :=
  ∀ (c : CellNo) (k : Command) (rest : List Command) (s : State), s.Quiet →
    let r := s.bay.cell c
    let p := s.link.ports[c]
    let handler := s.part.station + BitVec.ofNat 16 (1 + 2 * c.val)
    let sent (dst : Half) (kind : Byte) (lot : Half) (payload : List Byte) : Prop :=
      ∃ t, exec (.commandSendingBegins c) s = .next t ∧ t.records = s.records.setCell c { r with commands := rest }
        ∧ t.traffic = s.traffic
        ∧ t.link.ports[c].tx.command =
          some { dst := dst, src := s.part.station, kind := kind, lot := lot, descriptor := [], payload := payload }
    (r.commands = [] → Leaves (.commandSendingBegins c) s s.records)
    ∧ (p.up = false → Leaves (.commandSendingBegins c) s s.records)
    ∧ (r.commands = k :: rest → p.up = true →
      (p.tx.command ≠ none ∨ (p.tx.segment = none ∧ p.tx.copy = false)) →
      (∀ o, k = .offer o →
        sent handler 0x11#8 (BitVec.ofNat 16 o.lot.val)
          (bytes16 o.id ++ beBytes 1 o.step ++ beBytes 2 o.qty ++ bytes16 o.program
            ++ [o.revision, BitVec.ofNat 8 o.slot.val, match o.temp with | .cold => 0#8 | .room => 1#8 | .hot => 2#8]))
      ∧ (∀ ids lot, k = .withdraw ids → ids ≠ [] → (∀ x ∈ ids, x.2 = some lot) →
        sent handler 0x12#8 (BitVec.ofNat 16 lot.val) (beBytes 1 ids.length ++ ids.flatMap fun x => bytes16 x.1))
      ∧ (∀ id lot, k = .finish id lot → sent handler 0x13#8 (BitVec.ofNat 16 lot.val) (bytes16 id))
      ∧ (∀ id lot, k = .pause id lot → sent handler 0x14#8 (BitVec.ofNat 16 lot.val) (bytes16 id))
      ∧ (∀ id lot, k = .resume id lot → sent handler 0x15#8 (BitVec.ofNat 16 lot.val) (bytes16 id))
      ∧ (k = .restart → sent 0xFFFF#16 0x16#8 0xFFFF#16 []))

/-- R158, R172, R173: the notice at the head of the notice list, none of its kind and record waiting and a buffer free, is
built from its record as it stands and leaves the list. -/
def Obligations.NoticesBuilt : Prop :=
  ∀ (n : Notice) (rest : List Notice) (s : State), s.Quiet → s.bay.notices = n :: rest → 1 ≤ s.free →
    (∀ e ∈ s.link.uplink, e.origin ≠ n.origin) →
    let frame (kind : Byte) (lot : Half) (payload : List Byte) : Frame :=
      { dst := 0x0000#16, src := s.part.station, kind := kind, lot := lot, descriptor := [], payload := payload }
    let built (i : Instr) (f : Frame) : Prop :=
      ∃ t, exec i s = .next t ∧ t.records = s.records ∧ t.traffic = s.traffic ∧ n ∉ t.bay.notices
        ∧ (⟨n.origin, f⟩ : UpEntry) ∈ t.link.uplink ∧ t.Settled
    (∀ h, n = .lotState h →
      built .lotStateNotice (frame 0x31#8 (BitVec.ofNat 16 h.val) (lotStateBytes (s.bay.lot h))))
    ∧ (∀ c, n = .cellState c →
      built .cellStateNotice
        (frame 0x32#8 (handleField ((s.bay.cell c).assignment.map (·.lot))) (cellStateBytes c (s.bay.cell c))))
    ∧ (∀ h r, n = .release h → (s.bay.lot h).release = some r →
      built .releaseNotice (frame 0x34#8 (BitVec.ofNat 16 h.val) (releaseBytes r)))

/-- R72, R171, R184: an express entry for a lot is placed directly after the youngest entry that is express or carries the
lot's handle, and at the head, after the entry being sent, if there is none; no other entry moves. A withdrawal due for a
sublot id removes an unsent OFFER of the sublot; else the id joins the one WITHDRAW, which is queued at the tail if there
is none and takes at most eight ids. -/
def Obligations.PlacementInQueues : Prop :=
  (∀ (s : State) (h : LotNo) (e : UpEntry),
    let about (x : UpEntry) : Prop := x.express = true ∨ x.frame.lot = BitVec.ofNat 16 h.val
    ∃ before after, s.link.uplink = before ++ after ∧ (s.pushExpress h e).link.uplink = before ++ e :: after
      ∧ (∀ x ∈ after, ¬about x)
      ∧ ((∃ init x, before = init ++ [x] ∧ about x)
        ∨ (before = [] ∧ s.link.headSending = false)
        ∨ ∃ x, before = [x] ∧ s.link.headSending = true))
  ∧ (∀ (q : List Command) (id : Half) (lot : Option LotNo),
    ((∃ o, Command.offer o ∈ q ∧ o.id = id) → placeWithdraw q id lot = (q.filter (!·.offers id), false))
    ∧ ((∀ o, Command.offer o ∈ q → o.id ≠ id) →
      ((∀ ids, Command.withdraw ids ∉ q) → placeWithdraw q id lot = (q ++ [.withdraw [(id, lot)]], false))
      ∧ ∀ before ids after, q = before ++ .withdraw ids :: after →
        (∀ x, Command.withdraw x ∉ before) → (∀ x, Command.withdraw x ∉ after) →
        (id ∈ ids.map (·.1) → placeWithdraw q id lot = (q, false))
        ∧ (id ∉ ids.map (·.1) → ids.length < 8 →
          placeWithdraw q id lot = (before ++ .withdraw (ids ++ [(id, lot)]) :: after, false))
        ∧ (id ∉ ids.map (·.1) → 8 ≤ ids.length → placeWithdraw q id lot = (q, true))))

/-- R88, R89, R90, R192: the arbiter grants the first waiting channel in its order, whose pull is of the least of the credit
window, the current count and the free buffers above the watermark, and sends the PULL; with the last slot, or where no other
channel waits, the channel is the one recorded. The lowest-numbered WHOLE channel that keeps its slot between pulls issues its
next pull as soon as the pool allows a segment, and the arbiter's record stays. That the rows act ahead of owed notices, and a
grant ahead of a re-issue, is the model's choice (notes/assumptions/32.md). -/
def Obligations.PullsGrantedAndReissued : Prop :=
  (∀ (k : ChanNo) (im : Image) (s : State), s.Quiet →
    let ch := s.bay.chan k
    let kept := s.tables.settings
    let n (x : Channel) : Nat := min kept.creditWindow (min x.current (s.free - kept.loadWatermark))
    let waiting (x : Channel) : Prop :=
      (x.state = .gathering ∨ x.state = .pulling) ∧ 0 < x.current ∧ x.pull = none ∧ x.slotHeld = false
        ∧ (x.modeInForce = .paced → x.segs = [])
    let place (j : ChanNo) : Nat :=
      match kept.grantOrder, s.bay.lastGranted with
      | .rotating, some last => (j.val + 7 - last.val) % 8
      | _, _ => j.val
    waiting ch → 1 ≤ n ch → ch.image = some im →
    let slots := s.bay.channels.toList.countP (·.slotHeld)
    slots < kept.pullLimit →
    (∀ j : ChanNo, waiting (s.bay.chan j) → 1 ≤ n (s.bay.chan j) → place k ≤ place j) →
    let first := ch.base - ch.current
    ∃ t, exec .pullGrant s = .next t ∧ t.records = s.records ∧ t.traffic = s.traffic
      ∧ (slots + 1 = kept.pullLimit ∨ (∀ j : ChanNo, j ≠ k → ¬waiting (s.bay.chan j)) → t.bay.lastGranted = some k)
      ∧ (t.bay.chan k) =
        { ch with
          state := .pulling, current := ch.current - n ch, slotHeld := true
          pull :=
            some { first := first, n := n ch, arrived := 0, deadline := dueAt s.part.clock (kept.loadTimeout * 1000) } }
      ∧ ({ origin := .pull
           frame :=
            { dst := 0x0000#16, src := s.part.station, kind := 0x33#8, lot := 0xFFFF#16, descriptor := []
              payload := beBytes 1 k.val ++ bytes16 im.program ++ [im.revision] ++ beBytes 2 first ++ beBytes 1 (n ch) } }
          : UpEntry) ∈ t.link.uplink)
  ∧ (∀ (k : ChanNo) (im : Image) (s : State), s.Quiet →
    let ch := s.bay.chan k
    let kept := s.tables.settings
    let n (x : Channel) : Nat := min kept.creditWindow (min x.current (s.free - kept.loadWatermark))
    let keeps (x : Channel) : Prop :=
      x.state = .pulling ∧ x.modeInForce = .whole ∧ x.slotHeld = true ∧ x.pull = none ∧ 0 < x.current
    keeps ch → 1 ≤ n ch → ch.image = some im → (∀ j : ChanNo, j < k → ¬(keeps (s.bay.chan j) ∧ 1 ≤ n (s.bay.chan j))) →
    kept.pullLimit ≤ s.bay.channels.toList.countP (·.slotHeld) →
    ∃ t, exec .pullReissue s = .next t ∧ t.records = s.records ∧ t.traffic = s.traffic
      ∧ t.bay.lastGranted = s.bay.lastGranted
      ∧ (t.bay.chan k) =
        { ch with
          current := ch.current - n ch
          pull :=
            some
              { first := ch.base - ch.current, n := n ch, arrived := 0
                deadline := dueAt s.part.clock (kept.loadTimeout * 1000) } })

/-- R26, R68, R166, R168: the service of held-off ports takes nothing where no port is held off; and a frame held off at one
port, its claim now granted, is taken and forwarded and the pointer moves to its port (here with no notice owed and every
channel IDLE; the frame refused as a protocol error of its cell, or a TAKE of its open offer, which then runs). With any
number of ports held off, a round takes them in ascending number from behind the pointer, each with the absorbed frames
behind the one taken, and a port whose claim fails stays held off. With two forwarded frames at each of two ports, the second
of each waits for the next round. -/
def Obligations.HeldOffPortServed : Prop :=
  (∀ s : State, s.Quiet → Leaves .heldOffPortService s s.records)
  ∧ (∀ (c : CellNo) (lot id : Half) (s : State), s.link.held = [] →
    s.link.ports[c].waiting = [.frame .tester lot (.take id)] → (∀ c', c' ≠ c → s.link.ports[c'].waiting = []) →
    s.forwarding .take = .forward → 64 < s.free → s.share c < s.tables.settings.cellShareLimit → s.bay.notices = [] →
    (∀ k : ChanNo, (s.bay.chan k).state = .idle) →
    Gives .heldOffPortService s { s.records.setCell c (s.bay.cell c).erred with pointer := c }
      [{ origin := .forwarded c, frame := cellFrame s.part.station c .tester lot (.take id) }] [])
  ∧ (∀ (c : CellNo) (lot : Half) (a : Assignment) (k : SlotNo) (s : State), s.link.held = [] →
    s.link.ports[c].waiting = [.frame .handler lot (.take a.id)] → (∀ c', c' ≠ c → s.link.ports[c'].waiting = []) →
    s.forwarding .take = .forward → 64 < s.free → s.share c < s.tables.settings.cellShareLimit → s.bay.notices = [] →
    (∀ k : ChanNo, (s.bay.chan k).state = .idle) →
    let r := s.bay.cell c
    r.state = .offered → r.assignment = some a → a.slot = some k →
    let r' : CellRec :=
      { r with
        state := .running, pause := .none, offerDeadline := none
        assignment := some { a with units := 0, bins := Vector.replicate 16 0, sites := Vector.replicate 8 {} }
        slots := r.slots.set k { r.slots[k] with lastUse := s.part.clock } }
    Gives .heldOffPortService s
      { s.records.setCell c { r' with stallDeadline := s.stallArmed c r' } with pointer := c }
      [{ origin := .forwarded c, frame := cellFrame s.part.station c .handler lot (.take a.id) }] [.cellState c])
  ∧ (∀ s : State, s.link.held = [] → s.bay.notices = [] → (∀ k : ChanNo, (s.bay.chan k).state = .idle) → 96 < s.free →
    s.OneRound →
    let took := s.roundOrder.filter fun c => @decide (s.Served c) (Classical.dec _)
    ∃ t, exec .heldOffPortService s = .next t
      ∧ t.traffic = s.traffic ++ took.flatMap (fun c => s.forwardsOf c s.link.ports[c].waiting)
      ∧ t.records =
        { s.records with
          pointer := took.getLast?.getD s.link.pointer
          cells :=
            Vector.ofFn fun c =>
              let r := s.bay.cell c
              if c ∈ took then CellRec.erred^[s.link.ports[c].waiting.length] r else r }
      ∧ ∀ c : CellNo, t.link.ports[c].waiting = if c ∈ took then [] else s.link.ports[c].waiting)
  ∧ ∀ (c c' : CellNo) (lot id lot' id' : Half) (s : State), s.link.held = [] → s.bay.notices = [] →
    (∀ k : ChanNo, (s.bay.chan k).state = .idle) → s.forwarding .take = .forward → 68 < s.free → c ≠ c' →
    s.link.ports[c].waiting = [.frame .tester lot (.take id), .frame .tester lot' (.take id')] →
    s.link.ports[c'].waiting = [.frame .tester lot (.take id), .frame .tester lot' (.take id')] →
    (∀ d, d ≠ c → d ≠ c' → s.link.ports[d].waiting = []) →
    s.share c + 1 < s.tables.settings.cellShareLimit → s.share c' + 1 < s.tables.settings.cellShareLimit →
    s.roundOrder.idxOf c < s.roundOrder.idxOf c' →
    let entry (d : CellNo) (lot id : Half) : UpEntry :=
      { origin := .forwarded d, frame := cellFrame s.part.station d .tester lot (.take id) }
    Gives .heldOffPortService s
      { (s.records.setCell c (s.bay.cell c).erred.erred).setCell c' (s.bay.cell c').erred.erred with pointer := c' }
      [entry c lot id, entry c' lot id, entry c lot' id', entry c' lot' id'] []

/-! ### Laws of the state -/

/-- R161: free, occupied and reserved buffers sum to 2,048 after every step of a state in which they do, in which every
outstanding pull has a segment still to come and in which the load watermark is in its range; and all three hold after it. -/
def Obligations.PoolLawKept : Prop :=
  ∀ s t : State, s.PoolLaw → step s = .next t → t.PoolLaw

/-- R6, R7, R51, R123: every step keeps the laws of the lot table: a lot is HELD exactly when its hold set is not empty, with
at most one entry per kind, in priority order; the dispatch queue holds exactly the ACTIVE lots, which have quantity to
cut, in the order of class, queued-at and handle. -/
def Obligations.LotLawKept : Prop :=
  ∀ s t : State, s.LotLaw → step s = .next t → t.LotLaw

/-- R27, R29, R63, R101, R172, R184, R192, R194: every step keeps the rotation list a list of all cells, the notice list without
repeats, each command queue with at most one command of a kind and a WITHDRAW of 1 to 8 ids, a program slot named by the
assignment of every OFFERED or RUNNING cell, the clock within 48 bits, and the tables that hold numbers in their ranges,
the catalogue (R75) with 1 to 65,536 segments in each used entry, whose program id is not 0 and is in no other entry. -/
def Obligations.ListClockAndTableLawsKept : Prop :=
  ∀ s t : State, step s = .next t →
    (s.RotationLaw → t.RotationLaw) ∧ (s.NoticeLaw → t.NoticeLaw) ∧ (s.CommandLaw → t.CommandLaw)
    ∧ (s.SlotLaw → t.SlotLaw)
    ∧ (s.ClockLaw → t.ClockLaw) ∧ (s.tables.InRange → t.tables.InRange)

/-- The state right after reset meets every law. -/
def Obligations.ResetMeetsLaws : Prop :=
  State.reset.PoolLaw ∧ State.reset.LotLaw ∧ State.reset.RotationLaw ∧ State.reset.NoticeLaw ∧ State.reset.CommandLaw
    ∧ State.reset.SlotLaw
    ∧ State.reset.ClockLaw ∧ State.reset.tables.InRange

/-- R178, R179, R200, R201: a cell frame, sent as its bytes with the check formed over them, is read at its cell's port as
the command it is, every field at every value. -/
def Obligations.CellFramesReadAsSent : Prop :=
  ∀ (p : Half) (c : CellNo) (src : CellStation) (lot : Half) (m : CellMsg),
    decodeCellFrame p c (cellFrame p c src lot m).bytes = m.instr c src lot
end

