-- ==== Sys2Proof/Laws/State.lean ====
section
/-!
SUPPORT. One lemma per field per update, true by unfolding, so that no proof unfolds a record update: the updates of
`Bay` (setLot, setCell, modChan, owe, unowe, stampLot, modLot, modCell), those of `State` (onBay, modPort,
pushUplink, pushExpress, newEvent, stray, setSettings), and reading a record after writing one.
-/

namespace Sys2Proof.Machine

/-! ### Records by index -/

@[simp] theorem Bay.lot_setLot_self (b : Bay) (h : LotNo) (l : LotRec) : (b.setLot h l).lot h = l := by
  simp [Bay.lot, Bay.setLot]

@[simp] theorem Bay.lot_setLot_ne (b : Bay) {h h' : LotNo} (l : LotRec) (hne : h ≠ h') :
    (b.setLot h l).lot h' = b.lot h' := by
  simp [Bay.lot, Bay.setLot, Fin.val_ne_of_ne hne]

@[simp] theorem Bay.lot_setCell (b : Bay) (c : CellNo) (r : CellRec) (h : LotNo) :
    (b.setCell c r).lot h = b.lot h := rfl

@[simp] theorem Bay.cell_setCell_self (b : Bay) (c : CellNo) (r : CellRec) : (b.setCell c r).cell c = r := by
  simp [Bay.cell, Bay.setCell]

@[simp] theorem Bay.cell_setCell_ne (b : Bay) {c c' : CellNo} (r : CellRec) (hne : c ≠ c') :
    (b.setCell c r).cell c' = b.cell c' := by
  simp [Bay.cell, Bay.setCell, Fin.val_ne_of_ne hne]

@[simp] theorem Bay.cell_setLot (b : Bay) (h : LotNo) (l : LotRec) (c : CellNo) :
    (b.setLot h l).cell c = b.cell c := rfl

@[simp] theorem Bay.chan_modChan_self (b : Bay) (k : ChanNo) (f : Channel → Channel) :
    (b.modChan k f).chan k = f (b.chan k) := by
  simp [Bay.chan, Bay.modChan]

@[simp] theorem Bay.chan_modChan_ne (b : Bay) {k k' : ChanNo} (f : Channel → Channel) (hne : k ≠ k') :
    (b.modChan k f).chan k' = b.chan k' := by
  simp [Bay.chan, Bay.modChan, Fin.val_ne_of_ne hne]

/-! ### setLot -/

@[simp] theorem Bay.cells_setLot (b : Bay) (h : LotNo) (l : LotRec) : (b.setLot h l).cells = b.cells := rfl
@[simp] theorem Bay.queue_setLot (b : Bay) (h : LotNo) (l : LotRec) : (b.setLot h l).queue = b.queue := rfl
@[simp] theorem Bay.rotation_setLot (b : Bay) (h : LotNo) (l : LotRec) : (b.setLot h l).rotation = b.rotation := rfl
@[simp] theorem Bay.nextSublot_setLot (b : Bay) (h : LotNo) (l : LotRec) : (b.setLot h l).nextSublot = b.nextSublot := rfl
@[simp] theorem Bay.waitQueue_setLot (b : Bay) (h : LotNo) (l : LotRec) : (b.setLot h l).waitQueue = b.waitQueue := rfl
@[simp] theorem Bay.channels_setLot (b : Bay) (h : LotNo) (l : LotRec) : (b.setLot h l).channels = b.channels := rfl
@[simp] theorem Bay.lastGranted_setLot (b : Bay) (h : LotNo) (l : LotRec) : (b.setLot h l).lastGranted = b.lastGranted := rfl
@[simp] theorem Bay.releaseCounter_setLot (b : Bay) (h : LotNo) (l : LotRec) : (b.setLot h l).releaseCounter = b.releaseCounter := rfl
@[simp] theorem Bay.notices_setLot (b : Bay) (h : LotNo) (l : LotRec) : (b.setLot h l).notices = b.notices := rfl
@[simp] theorem Bay.stamped_setLot (b : Bay) (h : LotNo) (l : LotRec) : (b.setLot h l).stamped = b.stamped := rfl

/-! ### setCell -/

@[simp] theorem Bay.lots_setCell (b : Bay) (c : CellNo) (r : CellRec) : (b.setCell c r).lots = b.lots := rfl
@[simp] theorem Bay.queue_setCell (b : Bay) (c : CellNo) (r : CellRec) : (b.setCell c r).queue = b.queue := rfl
@[simp] theorem Bay.rotation_setCell (b : Bay) (c : CellNo) (r : CellRec) : (b.setCell c r).rotation = b.rotation := rfl
@[simp] theorem Bay.nextSublot_setCell (b : Bay) (c : CellNo) (r : CellRec) : (b.setCell c r).nextSublot = b.nextSublot := rfl
@[simp] theorem Bay.waitQueue_setCell (b : Bay) (c : CellNo) (r : CellRec) : (b.setCell c r).waitQueue = b.waitQueue := rfl
@[simp] theorem Bay.channels_setCell (b : Bay) (c : CellNo) (r : CellRec) : (b.setCell c r).channels = b.channels := rfl
@[simp] theorem Bay.lastGranted_setCell (b : Bay) (c : CellNo) (r : CellRec) : (b.setCell c r).lastGranted = b.lastGranted := rfl
@[simp] theorem Bay.releaseCounter_setCell (b : Bay) (c : CellNo) (r : CellRec) : (b.setCell c r).releaseCounter = b.releaseCounter := rfl
@[simp] theorem Bay.notices_setCell (b : Bay) (c : CellNo) (r : CellRec) : (b.setCell c r).notices = b.notices := rfl
@[simp] theorem Bay.stamped_setCell (b : Bay) (c : CellNo) (r : CellRec) : (b.setCell c r).stamped = b.stamped := rfl

/-! ### modChan -/

@[simp] theorem Bay.lots_modChan (b : Bay) (k : ChanNo) (f : Channel → Channel) : (b.modChan k f).lots = b.lots := rfl
@[simp] theorem Bay.cells_modChan (b : Bay) (k : ChanNo) (f : Channel → Channel) : (b.modChan k f).cells = b.cells := rfl
@[simp] theorem Bay.queue_modChan (b : Bay) (k : ChanNo) (f : Channel → Channel) : (b.modChan k f).queue = b.queue := rfl
@[simp] theorem Bay.rotation_modChan (b : Bay) (k : ChanNo) (f : Channel → Channel) : (b.modChan k f).rotation = b.rotation := rfl
@[simp] theorem Bay.nextSublot_modChan (b : Bay) (k : ChanNo) (f : Channel → Channel) : (b.modChan k f).nextSublot = b.nextSublot := rfl
@[simp] theorem Bay.waitQueue_modChan (b : Bay) (k : ChanNo) (f : Channel → Channel) : (b.modChan k f).waitQueue = b.waitQueue := rfl
@[simp] theorem Bay.lastGranted_modChan (b : Bay) (k : ChanNo) (f : Channel → Channel) : (b.modChan k f).lastGranted = b.lastGranted := rfl
@[simp] theorem Bay.releaseCounter_modChan (b : Bay) (k : ChanNo) (f : Channel → Channel) : (b.modChan k f).releaseCounter = b.releaseCounter := rfl
@[simp] theorem Bay.notices_modChan (b : Bay) (k : ChanNo) (f : Channel → Channel) : (b.modChan k f).notices = b.notices := rfl
@[simp] theorem Bay.stamped_modChan (b : Bay) (k : ChanNo) (f : Channel → Channel) : (b.modChan k f).stamped = b.stamped := rfl

/-! ### owe -/

@[simp] theorem Bay.lots_owe (b : Bay) (n : Notice) : (b.owe n).lots = b.lots := by
  unfold Bay.owe; split <;> rfl
@[simp] theorem Bay.cells_owe (b : Bay) (n : Notice) : (b.owe n).cells = b.cells := by
  unfold Bay.owe; split <;> rfl
@[simp] theorem Bay.queue_owe (b : Bay) (n : Notice) : (b.owe n).queue = b.queue := by
  unfold Bay.owe; split <;> rfl
@[simp] theorem Bay.rotation_owe (b : Bay) (n : Notice) : (b.owe n).rotation = b.rotation := by
  unfold Bay.owe; split <;> rfl
@[simp] theorem Bay.nextSublot_owe (b : Bay) (n : Notice) : (b.owe n).nextSublot = b.nextSublot := by
  unfold Bay.owe; split <;> rfl
@[simp] theorem Bay.waitQueue_owe (b : Bay) (n : Notice) : (b.owe n).waitQueue = b.waitQueue := by
  unfold Bay.owe; split <;> rfl
@[simp] theorem Bay.channels_owe (b : Bay) (n : Notice) : (b.owe n).channels = b.channels := by
  unfold Bay.owe; split <;> rfl
@[simp] theorem Bay.lastGranted_owe (b : Bay) (n : Notice) : (b.owe n).lastGranted = b.lastGranted := by
  unfold Bay.owe; split <;> rfl
@[simp] theorem Bay.releaseCounter_owe (b : Bay) (n : Notice) : (b.owe n).releaseCounter = b.releaseCounter := by
  unfold Bay.owe; split <;> rfl
@[simp] theorem Bay.stamped_owe (b : Bay) (n : Notice) : (b.owe n).stamped = b.stamped := by
  unfold Bay.owe; split <;> rfl

/-! ### unowe -/

@[simp] theorem Bay.lots_unowe (b : Bay) (n : Notice) : (b.unowe n).lots = b.lots := rfl
@[simp] theorem Bay.cells_unowe (b : Bay) (n : Notice) : (b.unowe n).cells = b.cells := rfl
@[simp] theorem Bay.queue_unowe (b : Bay) (n : Notice) : (b.unowe n).queue = b.queue := rfl
@[simp] theorem Bay.rotation_unowe (b : Bay) (n : Notice) : (b.unowe n).rotation = b.rotation := rfl
@[simp] theorem Bay.nextSublot_unowe (b : Bay) (n : Notice) : (b.unowe n).nextSublot = b.nextSublot := rfl
@[simp] theorem Bay.waitQueue_unowe (b : Bay) (n : Notice) : (b.unowe n).waitQueue = b.waitQueue := rfl
@[simp] theorem Bay.channels_unowe (b : Bay) (n : Notice) : (b.unowe n).channels = b.channels := rfl
@[simp] theorem Bay.lastGranted_unowe (b : Bay) (n : Notice) : (b.unowe n).lastGranted = b.lastGranted := rfl
@[simp] theorem Bay.releaseCounter_unowe (b : Bay) (n : Notice) : (b.unowe n).releaseCounter = b.releaseCounter := rfl
@[simp] theorem Bay.stamped_unowe (b : Bay) (n : Notice) : (b.unowe n).stamped = b.stamped := rfl

/-! ### stampLot -/

@[simp] theorem Bay.cells_stampLot (b : Bay) (h : LotNo) : (b.stampLot h).cells = b.cells := by
  unfold Bay.stampLot; split <;> simp
@[simp] theorem Bay.queue_stampLot (b : Bay) (h : LotNo) : (b.stampLot h).queue = b.queue := by
  unfold Bay.stampLot; split <;> simp
@[simp] theorem Bay.rotation_stampLot (b : Bay) (h : LotNo) : (b.stampLot h).rotation = b.rotation := by
  unfold Bay.stampLot; split <;> simp
@[simp] theorem Bay.nextSublot_stampLot (b : Bay) (h : LotNo) : (b.stampLot h).nextSublot = b.nextSublot := by
  unfold Bay.stampLot; split <;> simp
@[simp] theorem Bay.waitQueue_stampLot (b : Bay) (h : LotNo) : (b.stampLot h).waitQueue = b.waitQueue := by
  unfold Bay.stampLot; split <;> simp
@[simp] theorem Bay.channels_stampLot (b : Bay) (h : LotNo) : (b.stampLot h).channels = b.channels := by
  unfold Bay.stampLot; split <;> simp
@[simp] theorem Bay.lastGranted_stampLot (b : Bay) (h : LotNo) : (b.stampLot h).lastGranted = b.lastGranted := by
  unfold Bay.stampLot; split <;> simp
@[simp] theorem Bay.releaseCounter_stampLot (b : Bay) (h : LotNo) : (b.stampLot h).releaseCounter = b.releaseCounter := by
  unfold Bay.stampLot; split <;> simp

/-! ### modLot -/

@[simp] theorem Bay.cells_modLot (b : Bay) (h : LotNo) (f : LotRec → LotRec) : (b.modLot h f).cells = b.cells := by
  unfold Bay.modLot; split <;> simp
@[simp] theorem Bay.queue_modLot (b : Bay) (h : LotNo) (f : LotRec → LotRec) : (b.modLot h f).queue = b.queue := by
  unfold Bay.modLot; split <;> simp
@[simp] theorem Bay.rotation_modLot (b : Bay) (h : LotNo) (f : LotRec → LotRec) : (b.modLot h f).rotation = b.rotation := by
  unfold Bay.modLot; split <;> simp
@[simp] theorem Bay.nextSublot_modLot (b : Bay) (h : LotNo) (f : LotRec → LotRec) : (b.modLot h f).nextSublot = b.nextSublot := by
  unfold Bay.modLot; split <;> simp
@[simp] theorem Bay.waitQueue_modLot (b : Bay) (h : LotNo) (f : LotRec → LotRec) : (b.modLot h f).waitQueue = b.waitQueue := by
  unfold Bay.modLot; split <;> simp
@[simp] theorem Bay.channels_modLot (b : Bay) (h : LotNo) (f : LotRec → LotRec) : (b.modLot h f).channels = b.channels := by
  unfold Bay.modLot; split <;> simp
@[simp] theorem Bay.lastGranted_modLot (b : Bay) (h : LotNo) (f : LotRec → LotRec) : (b.modLot h f).lastGranted = b.lastGranted := by
  unfold Bay.modLot; split <;> simp
@[simp] theorem Bay.releaseCounter_modLot (b : Bay) (h : LotNo) (f : LotRec → LotRec) : (b.modLot h f).releaseCounter = b.releaseCounter := by
  unfold Bay.modLot; split <;> simp

/-! ### modCell -/

@[simp] theorem Bay.lots_modCell (b : Bay) (c : CellNo) (f : CellRec → CellRec) : (b.modCell c f).lots = b.lots := by
  unfold Bay.modCell; split <;> simp
@[simp] theorem Bay.queue_modCell (b : Bay) (c : CellNo) (f : CellRec → CellRec) : (b.modCell c f).queue = b.queue := by
  unfold Bay.modCell; split <;> simp
@[simp] theorem Bay.rotation_modCell (b : Bay) (c : CellNo) (f : CellRec → CellRec) : (b.modCell c f).rotation = b.rotation := by
  unfold Bay.modCell; split <;> simp
@[simp] theorem Bay.nextSublot_modCell (b : Bay) (c : CellNo) (f : CellRec → CellRec) : (b.modCell c f).nextSublot = b.nextSublot := by
  unfold Bay.modCell; split <;> simp
@[simp] theorem Bay.waitQueue_modCell (b : Bay) (c : CellNo) (f : CellRec → CellRec) : (b.modCell c f).waitQueue = b.waitQueue := by
  unfold Bay.modCell; split <;> simp
@[simp] theorem Bay.channels_modCell (b : Bay) (c : CellNo) (f : CellRec → CellRec) : (b.modCell c f).channels = b.channels := by
  unfold Bay.modCell; split <;> simp
@[simp] theorem Bay.lastGranted_modCell (b : Bay) (c : CellNo) (f : CellRec → CellRec) : (b.modCell c f).lastGranted = b.lastGranted := by
  unfold Bay.modCell; split <;> simp
@[simp] theorem Bay.releaseCounter_modCell (b : Bay) (c : CellNo) (f : CellRec → CellRec) : (b.modCell c f).releaseCounter = b.releaseCounter := by
  unfold Bay.modCell; split <;> simp
@[simp] theorem Bay.stamped_modCell (b : Bay) (c : CellNo) (f : CellRec → CellRec) : (b.modCell c f).stamped = b.stamped := by
  unfold Bay.modCell; split <;> simp

/-! ### onBay -/

@[simp] theorem State.part_onBay (s : State) (f : Ctx → Bay → Bay) : (s.onBay f).part = s.part := rfl
@[simp] theorem State.tables_onBay (s : State) (f : Ctx → Bay → Bay) : (s.onBay f).tables = s.tables := rfl
@[simp] theorem State.link_onBay (s : State) (f : Ctx → Bay → Bay) : (s.onBay f).link = s.link := rfl
@[simp] theorem State.pending_onBay (s : State) (f : Ctx → Bay → Bay) : (s.onBay f).pending = s.pending := rfl

/-! ### modPort -/

@[simp] theorem State.part_modPort (s : State) (c : CellNo) (f : CellPort → CellPort) : (s.modPort c f).part = s.part := rfl
@[simp] theorem State.tables_modPort (s : State) (c : CellNo) (f : CellPort → CellPort) : (s.modPort c f).tables = s.tables := rfl
@[simp] theorem State.bay_modPort (s : State) (c : CellNo) (f : CellPort → CellPort) : (s.modPort c f).bay = s.bay := rfl
@[simp] theorem State.pending_modPort (s : State) (c : CellNo) (f : CellPort → CellPort) : (s.modPort c f).pending = s.pending := rfl

/-! ### pushUplink -/

@[simp] theorem State.part_pushUplink (s : State) (e : UpEntry) : (s.pushUplink e).part = s.part := rfl
@[simp] theorem State.tables_pushUplink (s : State) (e : UpEntry) : (s.pushUplink e).tables = s.tables := rfl
@[simp] theorem State.bay_pushUplink (s : State) (e : UpEntry) : (s.pushUplink e).bay = s.bay := rfl
@[simp] theorem State.pending_pushUplink (s : State) (e : UpEntry) : (s.pushUplink e).pending = s.pending := rfl

/-! ### pushExpress -/

@[simp] theorem State.part_pushExpress (s : State) (h : LotNo) (e : UpEntry) : (s.pushExpress h e).part = s.part := rfl
@[simp] theorem State.tables_pushExpress (s : State) (h : LotNo) (e : UpEntry) : (s.pushExpress h e).tables = s.tables := rfl
@[simp] theorem State.bay_pushExpress (s : State) (h : LotNo) (e : UpEntry) : (s.pushExpress h e).bay = s.bay := rfl
@[simp] theorem State.pending_pushExpress (s : State) (h : LotNo) (e : UpEntry) : (s.pushExpress h e).pending = s.pending := rfl

/-! ### newEvent -/

@[simp] theorem State.part_newEvent (s : State) : (s.newEvent).part = s.part := rfl
@[simp] theorem State.tables_newEvent (s : State) : (s.newEvent).tables = s.tables := rfl
@[simp] theorem State.link_newEvent (s : State) : (s.newEvent).link = s.link := rfl
@[simp] theorem State.pending_newEvent (s : State) : (s.newEvent).pending = s.pending := rfl

/-! ### stray -/

@[simp] theorem State.part_stray (s : State) : (s.stray).part = s.part := rfl
@[simp] theorem State.tables_stray (s : State) : (s.stray).tables = s.tables := rfl
@[simp] theorem State.bay_stray (s : State) : (s.stray).bay = s.bay := rfl
@[simp] theorem State.pending_stray (s : State) : (s.stray).pending = s.pending := rfl

/-! ### setSettings -/

@[simp] theorem State.part_setSettings (s : State) (k : Settings) : (s.setSettings k).part = s.part := rfl
@[simp] theorem State.bay_setSettings (s : State) (k : Settings) : (s.setSettings k).bay = s.bay := rfl
@[simp] theorem State.link_setSettings (s : State) (k : Settings) : (s.setSettings k).link = s.link := rfl
@[simp] theorem State.pending_setSettings (s : State) (k : Settings) : (s.setSettings k).pending = s.pending := rfl

@[simp] theorem State.bay_onBay (s : State) (f : Ctx → Bay → Bay) : (s.onBay f).bay = f s.ctx s.bay := rfl

@[simp] theorem State.tables_setSettings (s : State) (k : Settings) :
    (s.setSettings k).tables = { s.tables with settings := k } := rfl

@[simp] theorem State.ctx_pushUplink (s : State) (e : UpEntry) : (s.pushUplink e).ctx = s.ctx := rfl

@[simp] theorem State.ctx_newEvent (s : State) : s.newEvent.ctx = s.ctx := rfl

@[simp] theorem State.newEvent_newEvent (s : State) : s.newEvent.newEvent = s.newEvent := rfl

@[simp] theorem State.uplink_pushUplink (s : State) (e : UpEntry) : (s.pushUplink e).link.uplink = s.link.uplink ++ [e] := rfl

@[simp] theorem State.ports_pushUplink (s : State) (e : UpEntry) : (s.pushUplink e).link.ports = s.link.ports := rfl

@[simp] theorem State.held_pushUplink (s : State) (e : UpEntry) : (s.pushUplink e).link.held = s.link.held := rfl

end Sys2Proof.Machine
end

