-- ==== Sys2Proof/Laws/Claims.lean ====
section
/-!
SUPPORT. What the waiting claims of an event can do (Machine/Settle.lean): in a state in which no frame waits at a
port they build notices and issue pulls, so they leave the records, the traffic and the quiet as they are; and the
event that a command taken at once is.
-/

namespace Sys2Proof.Machine

/-! ### Views that an update leaves as they are -/

theorem channels_view_modChan (b : Bay) (k : ChanNo) (f : Channel → Channel) (h : (f (b.chan k)).view = (b.chan k).view) :
    (b.modChan k f).channels.map Channel.view = b.channels.map Channel.view := by
  ext i hi
  simp only [Bay.modChan, Vector.getElem_map, Vector.getElem_set]
  split
  · next hk => subst hk; exact h
  · rfl

theorem records_buildNotice (s : State) (n : Notice) : (s.buildNotice n).records = s.records := by
  cases n <;> rfl

theorem records_issuePull (s : State) (k : ChanNo) : (s.issuePull k).records = s.records := by
  unfold State.issuePull
  dsimp only
  split
  · rfl
  · simp only [State.records, State.pushUplink]
    rw [channels_view_modChan]
    · rfl
    · rfl

theorem records_grantPull (s : State) (k : ChanNo) : (s.grantPull k).records = s.records :=
  (show (s.grantPull k).records = (s.issuePull k).records by simp only [State.grantPull, State.records]).trans
    (records_issuePull s k)

theorem records_eventEnd (s : State) : s.eventEnd.records = s.records := by
  have hp : s.portsAfter.map CellPort.view = s.link.ports.map CellPort.view := by
    ext i hi : 1; simp [State.portsAfter, CellPort.view]
  simp only [State.records, State.eventEnd, State.newEvent, hp]

/-! ### Traffic -/

theorem traffic_pushUplink (s : State) (e : UpEntry) :
    (s.pushUplink e).traffic = s.traffic ++ [e].filter UpEntry.traffic := by
  simp [State.traffic, State.pushUplink, List.filter_append]

theorem traffic_pushExpress (s : State) (h : LotNo) (e : UpEntry) (he : e.traffic = false) :
    (s.pushExpress h e).traffic = s.traffic := by
  simp only [State.traffic, State.pushExpress]
  rw [List.filter_append, List.filter_cons_of_neg (by simp [he]), ← List.filter_append, List.take_append_drop]

theorem traffic_buildNotice (s : State) (n : Notice) : (s.buildNotice n).traffic = s.traffic := by
  cases n with
  | lotState h => exact traffic_pushExpress _ h _ rfl
  | release h => exact traffic_pushExpress _ h _ rfl
  | cellState c =>
    have := traffic_pushUplink { s with bay := s.bay.unowe (.cellState c) } (noticeEntry s (.cellState c))
    refine this.trans ?_
    have he : (noticeEntry s (.cellState c)).traffic = false := rfl
    rw [List.filter_cons_of_neg (by simp [he])]
    simp only [State.traffic, List.filter_nil, List.append_nil]

theorem traffic_issuePull (s : State) (k : ChanNo) : (s.issuePull k).traffic = s.traffic := by
  unfold State.issuePull
  dsimp only
  split
  · rfl
  · rw [traffic_pushUplink]
    simp [UpEntry.traffic, pullEntry, State.traffic]

theorem traffic_grantPull (s : State) (k : ChanNo) : (s.grantPull k).traffic = s.traffic :=
  (show (s.grantPull k).traffic = (s.issuePull k).traffic by simp only [State.grantPull, State.traffic]).trans
    (traffic_issuePull s k)

theorem traffic_eventEnd (s : State) : s.eventEnd.traffic = s.traffic := by
  simp only [State.traffic, State.eventEnd, State.newEvent]

/-! ### Quiet -/

theorem quiet_of_link {s t : State} (h : s.Quiet) (hh : t.link.held = s.link.held) (hp : t.link.ports = s.link.ports) :
    t.Quiet := ⟨hh.trans h.1, fun c => by rw [hp]; exact h.2 c⟩

theorem quiet_buildNotice {s : State} (h : s.Quiet) (n : Notice) : (s.buildNotice n).Quiet := by
  cases n <;> exact quiet_of_link h rfl rfl

theorem quiet_issuePull {s : State} (h : s.Quiet) (k : ChanNo) : (s.issuePull k).Quiet := by
  unfold State.issuePull
  dsimp only
  split
  · exact h
  · exact quiet_of_link h rfl rfl

theorem quiet_grantPull {s : State} (h : s.Quiet) (k : ChanNo) : (s.grantPull k).Quiet :=
  quiet_of_link (quiet_issuePull h k) (by simp only [State.grantPull]) (by simp only [State.grantPull])

theorem quiet_eventEnd {s : State} (h : s.Quiet) : s.eventEnd.Quiet := by
  refine ⟨by simpa only [State.eventEnd, State.newEvent] using h.1, fun c => ?_⟩
  have := h.2 c
  simp only [State.eventEnd, State.newEvent, State.portsAfter]
  simpa using this

theorem quiet_newEvent {s : State} (h : s.Quiet) : s.newEvent.Quiet := h

theorem portEligible_quiet {s : State} (h : s.Quiet) (c : CellNo) : s.portEligible c = false := by
  unfold State.portEligible
  rw [h.2 c]

theorem nextPort_quiet {s : State} (h : s.Quiet) : s.nextPort none = none := by
  have : s.link.portOrder.find? s.portEligible = none := by
    rw [List.find?_eq_none]
    intro c _
    simp [portEligible_quiet h c]
  simp [State.nextPort, this]

theorem nextRequest_quiet {s : State} (h : s.Quiet) : s.nextRequest = none := by
  simp [State.nextRequest, h.1]

theorem nextHeld_quiet {s : State} (h : s.Quiet) : s.nextHeld = none := by
  simp [State.nextHeld, h.1]

/-! ### Claims in a quiet state -/

/-- In a quiet state a claim builds a notice or issues a pull, and the next is looked for in the same way. -/
theorem nextClaim_quiet {s s' : State} {m' : Claims} (h : s.Quiet) (hc : nextClaim {} s = some (m', s')) :
    m' = {} ∧ ((∃ n, s.nextNotice = some n ∧ s' = s.buildNotice n) ∨ (∃ k, s.nextReissue = some k ∧ s' = s.issuePull k)
      ∨ ∃ k, s.nextGrant = some k ∧ s' = s.grantPull k) := by
  simp only [nextClaim, nextRequest_quiet h, nextHeld_quiet h, nextPort_quiet h, if_true] at hc
  cases hn : s.nextNotice with
  | some n => simp [hn] at hc; exact ⟨hc.1.symm, .inl ⟨n, rfl, hc.2.symm⟩⟩
  | none =>
    cases hr : s.nextReissue with
    | some k => simp [hn, hr] at hc; exact ⟨hc.1.symm, .inr (.inl ⟨k, rfl, hc.2.symm⟩)⟩
    | none =>
      cases hg : s.nextGrant with
      | some k => simp [hn, hr, hg] at hc; exact ⟨hc.1.symm, .inr (.inr ⟨k, rfl, hc.2.symm⟩)⟩
      | none => simp [hn, hr, hg] at hc

/-- A property that notices and pulls keep is kept by the claims of a quiet state. -/
theorem settle_quiet {P : State → Prop} (hn : ∀ s n, P s → P (s.buildNotice n)) (hi : ∀ s k, P s → P (s.issuePull k))
    (hg : ∀ s k, P s → P (s.grantPull k)) : ∀ (n : Nat) (s : State), s.Quiet → P s → P (settle n {} s) ∧ (settle n {} s).Quiet
  | 0, _, hq, hp => ⟨hp, hq⟩
  | n + 1, s, hq, hp => by
    unfold settle
    split
    · exact ⟨hp, hq⟩
    · next m' s' hc =>
      obtain ⟨rfl, hs⟩ := nextClaim_quiet hq hc
      obtain ⟨x, _, rfl⟩ | ⟨x, _, rfl⟩ | ⟨x, _, rfl⟩ := hs
      · exact settle_quiet hn hi hg n _ (quiet_buildNotice hq x) (hn s x hp)
      · exact settle_quiet hn hi hg n _ (quiet_issuePull hq x) (hi s x hp)
      · exact settle_quiet hn hi hg n _ (quiet_grantPull hq x) (hg s x hp)

/-- The claims of a quiet state leave its records and its traffic as they are. -/
theorem serveClaims_quiet {s : State} (h : s.Quiet) :
    (s.serveClaims {}).records = s.records ∧ (s.serveClaims {}).traffic = s.traffic ∧ (s.serveClaims {}).Quiet := by
  have := settle_quiet (P := fun t => t.records = s.records ∧ t.traffic = s.traffic)
    (fun t n ht => ⟨(records_buildNotice t n).trans ht.1, (traffic_buildNotice t n).trans ht.2⟩)
    (fun t k ht => ⟨(records_issuePull t k).trans ht.1, (traffic_issuePull t k).trans ht.2⟩)
    (fun t k ht => ⟨(records_grantPull t k).trans ht.1, (traffic_grantPull t k).trans ht.2⟩)
    s.claimBound s h ⟨rfl, rfl⟩
  exact ⟨this.1.1, this.1.2, this.2⟩

/-- An event whose own effects leave the state quiet: its claims and its end change no record and no traffic. -/
theorem event_quiet {s : State} (h : s.Quiet) :
    (s.serveClaims {}).eventEnd.records = s.records ∧ (s.serveClaims {}).eventEnd.traffic = s.traffic
      ∧ (s.serveClaims {}).eventEnd.Quiet := by
  obtain ⟨hr, ht, hq⟩ := serveClaims_quiet h
  exact ⟨(records_eventEnd _).trans hr, (traffic_eventEnd _).trans ht, quiet_eventEnd hq⟩

/-! ### Taking a command at once -/

theorem free_newEvent (s : State) : s.newEvent.free = s.free := rfl

theorem runUplink_eq {i : Instr} {s : State} (h : s.Quiet) (hup : s.link.uplinkUp = true)
    (hfree : isRequest i = true → 1 ≤ s.free) :
    runUplink i s = ((serveUplink i s.newEvent).serveClaims {}).eventEnd := by
  have hheld : s.link.held = [] := h.1
  have hf : ¬(isRequest i = true ∧ s.free = 0) := fun hc => by have := hfree hc.1; omega
  have ha : arriveUplink i s.newEvent = serveUplink i s.newEvent := by
    unfold arriveUplink
    rw [if_neg (by simp [hup]), if_neg]
    rw [free_newEvent, State.link_newEvent, hheld]
    simpa using hf
  rw [runUplink, runEvent, ha]

theorem arriveCell_eq {c : CellNo} {a : Arrival} {s : State} (h : s.Quiet) (hup : s.link.ports[c].up = true)
    (hc : s.takenFreely a = true ∨ s.cellClaimGranted c = true) : arriveCell c a s = takeArrival c a s := by
  have hw := h.2 c
  have hc' : (s.takenFreely a || s.cellClaimGranted c) = true := by simpa using hc
  unfold arriveCell presentArrival
  rw [if_neg (by simpa using hup), if_neg (by rw [hw]; simp), if_pos hc']

end Sys2Proof.Machine
end

