-- ==== Sys2Proof/Laws/Ops.lean ====
section
/-!
SUPPORT. What each named operation on the bay does, said once: the lot and cell vectors after it as one write, the
notices it owes, and the fields it leaves (Laws/State.lean has those of modLot and modCell).
-/

namespace Sys2Proof.Machine

/-! ### owe and unowe -/

@[simp] theorem Bay.mem_notices_owe {b : Bay} {n m : Notice} : m ∈ (b.owe n).notices ↔ m = n ∨ m ∈ b.notices := by
  unfold Bay.owe
  split
  · next h => exact ⟨.inr, fun hm => hm.elim (fun e => e ▸ h) id⟩
  · simp [or_comm]

@[simp] theorem Bay.mem_notices_unowe {b : Bay} {n m : Notice} : m ∈ (b.unowe n).notices ↔ m ≠ n ∧ m ∈ b.notices := by
  simp [Bay.unowe, and_comm]

theorem Bay.nodup_owe {b : Bay} (n : Notice) (h : b.notices.Nodup) : (b.owe n).notices.Nodup := by
  unfold Bay.owe
  split
  · exact h
  · next hn => exact List.nodup_append.2 ⟨h, by simp, by rintro a ha _ hb rfl; exact hn (by simpa [List.mem_singleton.1 hb] using ha)⟩

/-! ### stampLot (R9, R10) -/

theorem Bay.stampLot_of_mem {b : Bay} {h : LotNo} (hs : h ∈ b.stamped) : b.stampLot h = b := by simp [Bay.stampLot, hs]

theorem Bay.lots_stampLot_of_not_mem {b : Bay} {h : LotNo} (hs : h ∉ b.stamped) :
    (b.stampLot h).lots = b.lots.set h { b.lot h with stamp := (b.lot h).stamp + 1 } := by
  simp [Bay.stampLot, hs, Bay.setLot]

theorem Bay.mem_stamped_stampLot {b : Bay} {h h' : LotNo} : h' ∈ (b.stampLot h).stamped ↔ h' = h ∨ h' ∈ b.stamped := by
  unfold Bay.stampLot
  split
  · next hs => exact ⟨.inr, fun hm => hm.elim (fun e => e ▸ hs) id⟩
  · simp

/-! ### modLot (R9) -/

/-- The record that `modLot` writes: the stamp advances with a followed field, once an event. -/
def stampedRec (stamped : Bool) (l l' : LotRec) : LotRec :=
  if l'.followed = l.followed ∨ stamped = true then l' else { l' with stamp := l'.stamp + 1 }

theorem Bay.lots_modLot (b : Bay) (h : LotNo) (f : LotRec → LotRec) :
    (b.modLot h f).lots = b.lots.set h (stampedRec (decide (h ∈ b.stamped)) (b.lot h) (f (b.lot h))) := by
  unfold Bay.modLot stampedRec
  by_cases hf : (f (b.lot h)).followed = (b.lot h).followed
  · rw [if_pos hf, if_pos (.inl hf)]; rfl
  · rw [if_neg hf]
    by_cases hs : h ∈ b.stamped
    · rw [Bay.stampLot_of_mem (by simpa using hs), if_pos (.inr (by simpa using hs))]; rfl
    · rw [Bay.lots_stampLot_of_not_mem (by simpa using hs), if_neg (by simp only [hf, decide_eq_true_eq, hs, or_self, not_false_eq_true])]
      rw [Bay.lot_setLot_self]
      exact Vector.set_set ..

theorem Bay.lot_modLot_self (b : Bay) (h : LotNo) (f : LotRec → LotRec) :
    (b.modLot h f).lot h = stampedRec (decide (h ∈ b.stamped)) (b.lot h) (f (b.lot h)) := by
  simp [Bay.lot, Bay.lots_modLot]

@[simp] theorem Bay.lot_modLot_ne (b : Bay) {h h' : LotNo} (f : LotRec → LotRec) (hne : h ≠ h') :
    (b.modLot h f).lot h' = b.lot h' := by
  simp [Bay.lot, Bay.lots_modLot, Fin.val_ne_of_ne hne]

theorem Bay.stamped_modLot (b : Bay) (h : LotNo) (f : LotRec → LotRec) :
    (b.modLot h f).stamped
      = if (f (b.lot h)).followed = (b.lot h).followed ∨ h ∈ b.stamped then b.stamped else h :: b.stamped := by
  unfold Bay.modLot
  by_cases hf : (f (b.lot h)).followed = (b.lot h).followed
  · rw [if_pos hf, if_pos (.inl hf)]; rfl
  · rw [if_neg hf]
    by_cases hs : h ∈ b.stamped
    · rw [Bay.stampLot_of_mem (by simpa using hs), if_pos (.inr hs)]; rfl
    · rw [if_neg (by simp only [hf, hs, or_self, not_false_eq_true])]
      unfold Bay.stampLot
      rw [if_neg (by simpa using hs), Bay.stamped_owe]
      rfl

theorem Bay.mem_notices_modLot {b : Bay} {h : LotNo} {f : LotRec → LotRec} {n : Notice} :
    n ∈ (b.modLot h f).notices
      ↔ (n = .lotState h ∧ (f (b.lot h)).followed ≠ (b.lot h).followed ∧ h ∉ b.stamped) ∨ n ∈ b.notices := by
  unfold Bay.modLot
  by_cases hf : (f (b.lot h)).followed = (b.lot h).followed
  · rw [if_pos hf]; simp only [hf, ne_eq, not_true_eq_false, false_and, and_false, false_or]; rfl
  · rw [if_neg hf]
    by_cases hs : h ∈ b.stamped
    · rw [Bay.stampLot_of_mem (by simpa using hs)]
      simp only [hs, not_true_eq_false, and_false, false_or]; rfl
    · unfold Bay.stampLot
      rw [if_neg (by simpa using hs), Bay.mem_notices_owe]
      simp only [ne_eq, hf, hs, not_false_eq_true, and_self, and_true]; rfl

/-! ### modCell (R31) -/

@[simp] theorem Bay.cells_modCell (b : Bay) (c : CellNo) (f : CellRec → CellRec) :
    (b.modCell c f).cells = b.cells.set c (f (b.cell c)) := by
  unfold Bay.modCell
  split <;> simp [Bay.setCell]

@[simp] theorem Bay.cell_modCell_self (b : Bay) (c : CellNo) (f : CellRec → CellRec) :
    (b.modCell c f).cell c = f (b.cell c) := by simp [Bay.cell]

@[simp] theorem Bay.cell_modCell_ne (b : Bay) {c c' : CellNo} (f : CellRec → CellRec) (hne : c ≠ c') :
    (b.modCell c f).cell c' = b.cell c' := by simp [Bay.cell, Fin.val_ne_of_ne hne]

theorem Bay.mem_notices_modCell {b : Bay} {c : CellNo} {f : CellRec → CellRec} {n : Notice} :
    n ∈ (b.modCell c f).notices ↔ (n = .cellState c ∧ (f (b.cell c)).noticed ≠ (b.cell c).noticed) ∨ n ∈ b.notices := by
  unfold Bay.modCell
  by_cases hf : (f (b.cell c)).noticed = (b.cell c).noticed
  · rw [if_pos hf]; simp only [hf, ne_eq, not_true_eq_false, and_false, false_or]; rfl
  · rw [if_neg hf, Bay.mem_notices_owe]; simp only [ne_eq, hf, not_false_eq_true, and_true]; rfl

/-- A cell's update that changes nothing R31 follows owes nothing. -/
theorem Bay.modCell_quietly {b : Bay} {c : CellNo} {f : CellRec → CellRec} (h : (f (b.cell c)).noticed = (b.cell c).noticed) :
    b.modCell c f = b.setCell c (f (b.cell c)) := by rw [Bay.modCell, if_pos h]

/-! ### Withdrawals, FINISH and the stall watch -/

theorem protocolErrors_bump (r : CellRec) :
    { r with counters := { r.counters with protocolErrors := bump16 r.counters.protocolErrors } } = r.erred := rfl

@[simp] theorem Bay.cells_protocolError (b : Bay) (c : CellNo) : (b.protocolError c).cells = b.cells.set c (b.cell c).erred := by
  simp only [Bay.protocolError, Bay.countCell, Bay.cells_modCell]
  rfl

theorem Bay.protocolError_eq (b : Bay) (c : CellNo) : b.protocolError c = b.setCell c (b.cell c).erred := by
  unfold Bay.protocolError Bay.countCell
  rw [Bay.modCell_quietly rfl]
  rfl

/-- R72: a withdrawal changes the cell's commands, and its protocol errors where the list is full. It owes nothing. -/
theorem Bay.withdrawDue_eq (b : Bay) (c : CellNo) (id : Half) (lot : Option LotNo) :
    b.withdrawDue c id lot = b.setCell c ((b.cell c).withdrawn id lot) := by
  unfold Bay.withdrawDue CellRec.withdrawn
  dsimp only
  rw [Bay.modCell_quietly rfl]
  split
  · rw [Bay.protocolError_eq, Bay.cell_setCell_self]
    simp [Bay.setCell]
  · rfl

/-- R41, R46, R108: FINISH changes the cell's commands and its finish-sent mark. It owes nothing. -/
theorem Bay.finishDue_eq (b : Bay) (c : CellNo) : b.finishDue c = b.setCell c (b.cell c).finished := by
  unfold Bay.finishDue CellRec.finished
  have hset : b.setCell c (b.cell c) = b := by simp [Bay.setCell, Bay.cell]
  cases ha : (b.cell c).assignment with
  | none => exact hset.symm
  | some a =>
    dsimp only
    split
    · exact hset.symm
    · next hn =>
      rw [not_or] at hn
      rw [Bay.modCell_quietly]
      · simp only [placeFinish, hn.2]
        rfl
      · simp only [CellRec.noticed, ha, Option.map_some]

/-! ### The dispatch queue -/

@[simp] theorem Bay.lots_enqueue (b : Bay) (h : LotNo) : (b.enqueue h).lots = b.lots := rfl
@[simp] theorem Bay.cells_enqueue (b : Bay) (h : LotNo) : (b.enqueue h).cells = b.cells := rfl
@[simp] theorem Bay.notices_enqueue (b : Bay) (h : LotNo) : (b.enqueue h).notices = b.notices := rfl
@[simp] theorem Bay.stamped_enqueue (b : Bay) (h : LotNo) : (b.enqueue h).stamped = b.stamped := rfl

theorem Bay.mem_enqueue {b : Bay} {h h' : LotNo} : h' ∈ (b.enqueue h).queue ↔ h' = h ∨ h' ∈ b.queue := by
  show h' ∈ (b.queue.filter (· ≠ h)).takeWhile (b.ahead · h) ++ h :: (b.queue.filter (· ≠ h)).dropWhile (b.ahead · h) ↔ _
  rw [List.mem_append, List.mem_cons]
  have hsplit : h' ∈ b.queue.filter (· ≠ h) ↔ h' ∈ (b.queue.filter (· ≠ h)).takeWhile (b.ahead · h)
      ∨ h' ∈ (b.queue.filter (· ≠ h)).dropWhile (b.ahead · h) := by
    conv_lhs => rw [← List.takeWhile_append_dropWhile (p := (b.ahead · h)) (l := b.queue.filter (· ≠ h))]
    exact List.mem_append
  have hm : h' ∈ b.queue.filter (· ≠ h) ↔ h' ∈ b.queue ∧ h' ≠ h := by simp
  tauto

theorem Bay.ahead_eq (b : Bay) (h h' : LotNo) : b.ahead h h' = queuedBefore (b.lot h) h (b.lot h') h' := by
  unfold Bay.ahead queuedBefore
  generalize b.lot h = l
  generalize b.lot h' = l'
  cases ha : l.cls <;> cases hb : l'.cls <;> simp [ha, hb]

theorem Bay.queue_leaveQueue (b : Bay) (h : LotNo) : (b.leaveQueue h).queue = b.queue.filter (· ≠ h) := by
  simp [Bay.leaveQueue]

theorem Bay.lots_leaveQueue (b : Bay) (h : LotNo) :
    (b.leaveQueue h).lots = b.lots.set h { b.lot h with ageDeadline := none } := by
  unfold Bay.leaveQueue
  rw [Bay.lots_modLot, stampedRec, if_pos (.inl rfl)]

/-! ### Hold entries (R123) -/

theorem raiseIn_ne_nil (holds : List HoldEntry) (e : HoldEntry) : raiseIn holds e ≠ [] := by
  unfold raiseIn
  split
  · next h => intro hn; simp_all
  · simp

end Sys2Proof.Machine
end

