-- ==== Sys2Proof/Laws/Events.lean ====
section
/-!
SUPPORT. One event of the part, whole: what a command answers when its own effects leave the state quiet, said once for
requests (`answers_of_serve`), for cell frames (`takes_of_effect`) and for every other event (`leaves_of_event`), so that
a proof about a command computes its own effects and nothing else.
-/

namespace Sys2Proof.Machine

/-! ### Owed and built notices -/

theorem reported_of_mem {s : State} {n : Notice} (h : n ∈ s.bay.notices) : s.Reported n := .inl h

theorem mem_pushExpress {s : State} {h : LotNo} {e x : UpEntry} :
    x ∈ (s.pushExpress h e).link.uplink ↔ x = e ∨ x ∈ s.link.uplink := by
  simp only [State.pushExpress, List.mem_append, List.mem_cons]
  conv_rhs => rw [← List.take_append_drop (s.link.expressPlace h) s.link.uplink, List.mem_append]
  tauto

theorem mem_buildNotice {s : State} {n : Notice} {x : UpEntry} :
    x ∈ (s.buildNotice n).link.uplink ↔ x = noticeEntry s n ∨ x ∈ s.link.uplink := by
  cases n with
  | lotState h => exact mem_pushExpress
  | release h => exact mem_pushExpress
  | cellState c =>
    show x ∈ s.link.uplink ++ [noticeEntry s (.cellState c)] ↔ _
    simp [or_comm]

theorem origin_noticeEntry (s : State) (n : Notice) : (noticeEntry s n).origin = n.origin := by cases n <;> rfl

theorem notices_buildNotice (s : State) (n : Notice) : (s.buildNotice n).bay.notices = s.bay.notices.filter (· ≠ n) := by
  cases n <;> rfl

theorem reported_buildNotice {s : State} {n m : Notice} (h : s.Reported n) : (s.buildNotice m).Reported n := by
  by_cases hn : n = m
  · subst hn
    exact .inr ⟨noticeEntry s n, mem_buildNotice.2 (.inl rfl), origin_noticeEntry s n⟩
  · rcases h with h | ⟨e, he, ho⟩
    · exact .inl (by rw [notices_buildNotice]; simp [h, hn])
    · exact .inr ⟨e, mem_buildNotice.2 (.inr he), ho⟩

theorem reported_issuePull {s : State} {n : Notice} (k : ChanNo) (h : s.Reported n) : (s.issuePull k).Reported n := by
  unfold State.issuePull
  dsimp only
  split
  · exact h
  · rcases h with h | ⟨e, he, ho⟩
    · exact .inl h
    · exact .inr ⟨e, by simp [he], ho⟩

theorem reported_grantPull {s : State} {n : Notice} (k : ChanNo) (h : s.Reported n) : (s.grantPull k).Reported n := by
  have := reported_issuePull k h
  simpa only [State.Reported, State.grantPull] using this

theorem reported_eventEnd {s : State} {n : Notice} (h : s.Reported n) : s.eventEnd.Reported n := by
  simpa only [State.Reported, State.eventEnd, State.newEvent] using h

/-- Notices that an event owes are owed or built as it ends. -/
theorem reported_event {s : State} {n : Notice} (hq : s.Quiet) (h : s.Reported n) : (s.serveClaims {}).eventEnd.Reported n :=
  reported_eventEnd
    (settle_quiet (P := fun t => t.Reported n) (fun _ _ ht => reported_buildNotice ht) (fun _ k ht => reported_issuePull k ht)
      (fun _ k ht => reported_grantPull k ht) s.claimBound s hq h).1

theorem settled_event {s : State} (hq : s.Quiet) : (s.serveClaims {}).eventEnd.Settled := ⟨(event_quiet hq).2.2, rfl⟩

/-! ### The bay at the start of an event -/

@[simp] theorem State.lots_newEvent (s : State) : s.newEvent.bay.lots = s.bay.lots := rfl
@[simp] theorem State.cells_newEvent (s : State) : s.newEvent.bay.cells = s.bay.cells := rfl
@[simp] theorem State.channels_newEvent (s : State) : s.newEvent.bay.channels = s.bay.channels := rfl
@[simp] theorem State.queue_newEvent (s : State) : s.newEvent.bay.queue = s.bay.queue := rfl
@[simp] theorem State.rotation_newEvent (s : State) : s.newEvent.bay.rotation = s.bay.rotation := rfl
@[simp] theorem State.nextSublot_newEvent (s : State) : s.newEvent.bay.nextSublot = s.bay.nextSublot := rfl
@[simp] theorem State.waitQueue_newEvent (s : State) : s.newEvent.bay.waitQueue = s.bay.waitQueue := rfl
@[simp] theorem State.releaseCounter_newEvent (s : State) : s.newEvent.bay.releaseCounter = s.bay.releaseCounter := rfl
@[simp] theorem State.notices_newEvent (s : State) : s.newEvent.bay.notices = s.bay.notices := rfl
@[simp] theorem State.stamped_newEvent (s : State) : s.newEvent.bay.stamped = [] := rfl

/-! ### Any event -/

/-- An event whose own effects leave the quiet state `u` answers what `u` holds. -/
theorem gives_of_event {i : Instr} {s u : State} {r : Records} {entries : List UpEntry} {reported : List Notice}
    (he : exec i s = .next ((u.serveClaims {}).eventEnd)) (hq : u.Quiet) (hr : u.records = r)
    (ht : u.traffic = s.traffic ++ entries) (hn : ∀ n ∈ reported, u.Reported n) : Gives i s r entries reported :=
  ⟨_, he, (event_quiet hq).1.trans hr, (event_quiet hq).2.1.trans ht, settled_event hq, fun n h => reported_event hq (hn n h)⟩

/-- The same for a command that is one event of the part and puts nothing into the traffic. -/
theorem leaves_of_event {i : Instr} {s : State} {f : State → State} {r : Records} {reported : List Notice}
    (he : exec i s = .next (runEvent f s)) (hq : (f s.newEvent).Quiet) (hr : (f s.newEvent).records = r)
    (ht : (f s.newEvent).traffic = s.traffic) (hn : ∀ n ∈ reported, (f s.newEvent).Reported n) : Leaves i s r reported :=
  gives_of_event he hq hr (by simpa using ht) hn

/-- What an operation on the bay leaves as it is. -/
theorem quiet_onBay {s : State} (h : s.Quiet) (f : Ctx → Bay → Bay) : (s.onBay f).Quiet := h

theorem traffic_onBay (s : State) (f : Ctx → Bay → Bay) : (s.onBay f).traffic = s.traffic := rfl

theorem traffic_newEvent (s : State) : s.newEvent.traffic = s.traffic := rfl

theorem records_newEvent (s : State) : s.newEvent.records = s.records := rfl

/-- An event that is one operation on the bay, which leaves `b`. -/
theorem leaves_of_bay {i : Instr} {s : State} {f : Ctx → Bay → Bay} {r : Records} {b : Bay} {reported : List Notice}
    (he : exec i s = .next (runEvent (·.onBay f) s)) (hq : s.Quiet) (hf : f s.ctx s.newEvent.bay = b)
    (hr : { s with bay := b }.records = r) (hn : ∀ n ∈ reported, n ∈ b.notices) : Leaves i s r reported := by
  subst hf
  exact leaves_of_event he (quiet_onBay (quiet_newEvent hq) f) hr rfl fun n h => .inl (hn n h)

/-- The records of a state with another bay, field by field. -/
theorem records_bay (s : State) (b : Bay) :
    ({ s with bay := b } : State).records
      = { s.records with
          lots := b.lots, cells := b.cells, queue := b.queue, rotation := b.rotation, nextSublot := b.nextSublot
          waitQueue := b.waitQueue, releaseCounter := b.releaseCounter, channels := b.channels.map Channel.view } := rfl

/-- A change of one cell alone. -/
theorem records_modCell (s : State) (c : CellNo) (f : CellRec → CellRec) :
    ({ s with bay := s.newEvent.bay.modCell c f } : State).records
      = s.records.setCell c (f (s.bay.cell c)) := by
  rw [records_bay]
  simp only [Bay.lots_modCell, Bay.queue_modCell, Bay.rotation_modCell, Bay.nextSublot_modCell, Bay.waitQueue_modCell,
    Bay.releaseCounter_modCell, Bay.channels_modCell, Bay.cells_modCell]
  rfl

/-- A change of one lot alone: the stamp advances with a followed field (R9). -/
theorem records_modLot (s : State) (h : LotNo) (f : LotRec → LotRec) :
    ({ s with bay := s.newEvent.bay.modLot h f } : State).records
      = s.records.setLot h (stampedRec false (s.bay.lot h) (f (s.bay.lot h))) := by
  rw [records_bay]
  simp only [Bay.cells_modLot, Bay.queue_modLot, Bay.rotation_modLot, Bay.nextSublot_modLot, Bay.waitQueue_modLot,
    Bay.releaseCounter_modLot, Bay.channels_modLot, Bay.lots_modLot]
  rfl

/-! ### Frames at the uplink port -/

/-- A frame of the uplink port that is taken at once. -/
theorem gives_of_serve {i : Instr} {s : State} {r : Records} {entries : List UpEntry} {reported : List Notice}
    (he : exec i s = .next (runUplink i s)) (h : s.Quiet) (hup : s.link.uplinkUp = true)
    (hfree : isRequest i = true → 1 ≤ s.free) (hq : (serveUplink i s.newEvent).Quiet)
    (hr : (serveUplink i s.newEvent).records = r) (ht : (serveUplink i s.newEvent).traffic = s.traffic ++ entries)
    (hn : ∀ n ∈ reported, (serveUplink i s.newEvent).Reported n) : Gives i s r entries reported :=
  gives_of_event (by rw [he, runUplink_eq h hup hfree]) hq hr ht hn

theorem records_respond (s : State) (lot : Option LotNo) (code : Byte) (tag : Half) (p : Reply) :
    (s.respond lot code tag p).records = s.records := rfl

theorem quiet_respond {s : State} (h : s.Quiet) (lot : Option LotNo) (code : Byte) (tag : Half) (p : Reply) :
    (s.respond lot code tag p).Quiet := h

theorem traffic_respond (s : State) (lot : Option LotNo) (code : Byte) (tag : Half) (p : Reply) :
    (s.respond lot code tag p).traffic = s.traffic ++ [responseEntry s.part.station (handleField lot) code tag p.status p.data] := by
  refine (traffic_pushUplink _ _).trans ?_
  simp [UpEntry.traffic, responseEntry]

theorem bay_respond (s : State) (lot : Option LotNo) (code : Byte) (tag : Half) (p : Reply) :
    (s.respond lot code tag p).bay = s.bay := rfl

/-- A request whose service is an update `u` of the state, quiet and with the traffic as it was, and its RESPONSE. -/
theorem answers_of_serve {i : Instr} {s u : State} {r : Records} {lot : Option LotNo} {code : Byte} {tag : Half} {p : Reply}
    {reported : List Notice} (he : exec i s = .next (runUplink i s)) (h : s.TakesRequests)
    (hs : serveUplink i s.newEvent = u.respond lot code tag p) (hst : u.part.station = s.part.station) (hq : u.Quiet)
    (hr : u.records = r) (ht : u.traffic = s.traffic) (hn : ∀ n ∈ reported, u.Reported n) :
    Answers i s r lot code tag p reported := by
  refine gives_of_serve he h.1 h.2.1 (fun _ => h.2.2) ?_ ?_ ?_ ?_
  · rw [hs]; exact quiet_respond hq ..
  · rw [hs, records_respond, hr]
  · rw [hs, traffic_respond, ht, hst]
  · intro n hm
    rw [hs]
    rcases hn n hm with hb | ⟨e, he, ho⟩
    · exact .inl hb
    · exact .inr ⟨e, by simp [State.respond, he], ho⟩

/-- A request refused, or answered, without an effect on the records. -/
theorem answers_unchanged {i : Instr} {s : State} {lot : Option LotNo} {code : Byte} {tag : Half} {p : Reply}
    (he : exec i s = .next (runUplink i s)) (h : s.TakesRequests)
    (hs : serveUplink i s.newEvent = s.newEvent.respond lot code tag p) : Answers i s s.records lot code tag p :=
  answers_of_serve he h hs rfl (quiet_newEvent h.1) rfl rfl (by simp)

theorem lotOf_toNat {handle : Half} (h : handle.toNat < 256) : lotOf handle = some ⟨handle.toNat, h⟩ := by simp [lotOf, h]

theorem lotOf_none {handle : Half} (h : 256 ≤ handle.toNat) : lotOf handle = none := by simp [lotOf, h]

theorem cellOf_toNat {cell : Byte} (h : cell.toNat < 32) : cellOf cell = some ⟨cell.toNat, h⟩ := by simp [cellOf, h]

theorem cellOf_none {cell : Byte} (h : 32 ≤ cell.toNat) : cellOf cell = none := by simp [cellOf, h]

/-- A request that names a lot, its effect and answer on the bay being `b` and `p`. -/
theorem answers_of_lotRequest {i : Instr} {s : State} {code : Byte} {tag handle : Half} {f : Ctx → Bay → LotNo → Bay × Reply}
    {r : Records} {b : Bay} {p : Reply} {reported : List Notice} (he : exec i s = .next (runUplink i s))
    (h : s.TakesRequests)
    (hs : serveUplink i s.newEvent = s.newEvent.lotRequest code tag handle f) (hh : handle.toNat < 256)
    (hf : f s.ctx s.newEvent.bay ⟨handle.toNat, hh⟩ = (b, p)) (hr : { s with bay := b }.records = r)
    (hn : ∀ n ∈ reported, n ∈ b.notices) : Answers i s r (some ⟨handle.toNat, hh⟩) code tag p reported := by
  refine answers_of_serve (u := { s with bay := b }) he h ?_ rfl h.1 hr rfl fun n hm => .inl (hn n hm)
  have hf' : f s.newEvent.ctx s.newEvent.bay ⟨handle.toNat, hh⟩ = (b, p) := hf
  rw [hs]
  simp only [State.lotRequest, lotOf_toNat hh, hf']
  rfl

/-- A request that names a cell, its effect and answer on the bay being `b` and `p`. -/
theorem answers_of_cellRequest {i : Instr} {s : State} {code : Byte} {tag : Half} {cell : Byte}
    {f : Ctx → Bay → CellNo → Bay × Reply} {r : Records} {b : Bay} {p : Reply} {reported : List Notice}
    (he : exec i s = .next (runUplink i s)) (h : s.TakesRequests)
    (hs : serveUplink i s.newEvent = s.newEvent.cellRequest code tag cell f) (hc : cell.toNat < 32)
    (hf : f s.ctx s.newEvent.bay ⟨cell.toNat, hc⟩ = (b, p)) (hr : { s with bay := b }.records = r)
    (hn : ∀ n ∈ reported, n ∈ b.notices) : Answers i s r none code tag p reported := by
  refine answers_of_serve (u := { s with bay := b }) he h ?_ rfl h.1 hr rfl fun n hm => .inl (hn n hm)
  have hf' : f s.newEvent.ctx s.newEvent.bay ⟨cell.toNat, hc⟩ = (b, p) := hf
  rw [hs]
  simp only [State.cellRequest, cellOf_toNat hc, hf']
  rfl

/-! ### Frames at a cell port -/

theorem exec_instr (c : CellNo) (src : CellStation) (lot : Half) (m : CellMsg) (s : State) :
    exec (m.instr c src lot) s = .next (runEvent (arriveCell c (.frame src lot m)) s) := by
  cases m <;> rfl

/-- A cell frame that is taken at once: its effect on the bay being `b`, and its way up. -/
theorem takes_of_effect {s : State} {c : CellNo} {src : CellStation} {lot : Half} {m : CellMsg} {r : Records} {b : Bay}
    {reported : List Notice} (h : s.TakesFrame c m.kind)
    (hf : Bay.cellFrameEffect s.ctx s.newEvent.bay c src m = b) (hr : { s with bay := b }.records = r)
    (hn : ∀ n ∈ reported, n ∈ b.notices) : Takes s c src lot m r reported := by
  have ht : arriveCell c (.frame src lot m) s.newEvent = takeArrival c (.frame src lot m) s.newEvent := by
    refine arriveCell_eq (quiet_newEvent h.1) h.2.1 ?_
    rcases h.2.2 with ha | ha
    · exact .inl (decide_eq_true ha)
    · exact .inr ha
  have he : exec (m.instr c src lot) s
      = .next (((takeArrival c (.frame src lot m) s.newEvent).serveClaims {}).eventEnd) := by
    rw [exec_instr, runEvent, ht]
  subst hf
  subst hr
  by_cases hf : s.forwarding m.kind = .forward
  · have hf' : s.newEvent.forwarding m.kind = .forward := hf
    refine gives_of_event he ?_ ?_ ?_ ?_ <;> simp only [takeArrival, hf', if_true]
    · exact quiet_newEvent h.1
    · rfl
    · refine (traffic_pushUplink _ _).trans ?_
      simp only [State.forwards, hf, if_true]
      rfl
    · exact fun n hm => .inl (hn n hm)
  · have hf' : s.newEvent.forwarding m.kind ≠ .forward := hf
    refine gives_of_event he ?_ ?_ ?_ ?_ <;> simp only [takeArrival, hf', if_false]
    · exact quiet_newEvent h.1
    · rfl
    · simp only [State.forwards, hf, if_false, List.append_nil]
      rfl
    · exact fun n hm => .inl (hn n hm)

end Sys2Proof.Machine
end

