-- ==== Sys2Proof/WellFormed.lean ====
section
/-!
DEFINITION. The commands that a link can carry as their rows: the limits that the field types do not
already hold. Each check is a `Bool`; `exec` has a meaning for ill-formed commands too (the frame they
would be is refused by a port's check).
-/

namespace Sys2Proof

/-- R200: a payload is at most 1,024 bytes. -/
def payloadFits (bs : List Byte) : Bool := decide (bs.length ≤ 1024)

/-- R180: a through-frame is of any kind but REQUEST and SEGMENT. -/
def throughKind (kind : Byte) : Bool := kind ≠ kindRequest && kind ≠ kindSegment

/-- Table 11-9, code 5: index 0xFF is ALL and carries nine settings. -/
def ForwardImage.wellFormed : ForwardImage → Bool
  | .one kind _ => kind ≠ 0xFF#8
  | .all _ => true

/-- Whether the link can carry the command as the row it is. -/
def Instr.wellFormed : Instr → Bool
  | .segment _ _ _ _ _ _ image => payloadFits image
  | .throughFrame _ kind _ payload => payloadFits payload && throughKind kind
  | .tableWriteForwardingTable _ entry => entry.wellFormed
  | _ => true

end Sys2Proof
end

