-- ==== Sys2Proof/Tests/Slice0.lean ====
section
/-!
SUPPORT. Checks of the model on fixed values taken from the manual's worked examples and layouts, the smoke tests of
WellFormed, frames written out byte by byte, and for each obligation with hypotheses a witness: a concrete state and
operands that meet the hypotheses of each clause together.
-/

namespace Sys2Proof.Tests

-- One theorem at a time: many `decide`s that wait for one another in threads of their own exceed a memory limit.
set_option Elab.async false

open Sys2Proof Sys2Proof.Machine

/-! ### WellFormed refuses what a link cannot carry -/

theorem test_wellFormed_segment_too_long :
    (Instr.segment 0 0 0 0 0 0 (List.replicate 1025 0#8)).wellFormed = false := by decide +kernel

theorem test_wellFormed_segment_longest :
    (Instr.segment 0 0 0 0 0 0 (List.replicate 1024 0#8)).wellFormed = true := by decide +kernel

theorem test_wellFormed_through_too_long :
    (Instr.throughFrame 0x81#16 0x77#8 0 (List.replicate 1025 0#8)).wellFormed = false := by decide +kernel

theorem test_wellFormed_through_request : (Instr.throughFrame 0x81#16 0x20#8 0 []).wellFormed = false := by decide

theorem test_wellFormed_through_segment : (Instr.throughFrame 0x81#16 0x21#8 0 []).wellFormed = false := by decide

theorem test_wellFormed_through_other : (Instr.throughFrame 0x81#16 0x77#8 0 []).wellFormed = true := by decide

theorem test_wellFormed_forwarding_all_index :
    (Instr.tableWriteForwardingTable 0 (.one 0xFF#8 0#8)).wellFormed = false := by decide

/-! ### Frames as bytes (R200, Tables 11-1 to 11-4) -/

/-- R200: the check of the nine bytes "123456789", most significant bit first, from all ones, inverted. -/
theorem test_check_value :
    crc32 [0x31, 0x32, 0x33, 0x34, 0x35, 0x36, 0x37, 0x38, 0x39] = 0xFC891918#32 := by decide +kernel

/-- A frame's bytes with its check put behind them. -/
def checked (bs : List Byte) : List Byte := bs ++ bytes32 (crc32 bs)

/-- READY from the handler of cell 3 of part 0x0080: destination 0x0000, source 0x0087, kind 1, no lot, 3 bytes. -/
theorem test_decode_ready :
    decodeCellFrame 0x0080#16 3 (checked [0x00, 0x00, 0x00, 0x87, 0x01, 0xFF, 0xFF, 0x00, 0x03, 0x05, 0x01, 0x08])
      = .ready 3 .handler 0xFFFF#16 0x05#8 0x01#8 0x08#8 := by decide +kernel

/-- UNIT from the same handler about lot 9: sublot 0x0102, site 2, bin 1, sequence 0x00000007. -/
theorem test_decode_unit :
    decodeCellFrame 0x0080#16 3
        (checked [0x00, 0x00, 0x00, 0x87, 0x04, 0x00, 0x09, 0x00, 0x08, 0x01, 0x02, 0x02, 0x01, 0x00, 0x00, 0x00, 0x07])
      = .unit 3 .handler 0x0009#16 0x0102#16 2#8 1#8 7#32 := by decide +kernel

/-- LOADED from the tester of cell 3 (station 0x0088): program 0x0011, revision 2, slot 1, result OK. -/
theorem test_decode_loaded :
    decodeCellFrame 0x0080#16 3
        (checked [0x00, 0x00, 0x00, 0x88, 0x08, 0xFF, 0xFF, 0x00, 0x05, 0x00, 0x11, 0x02, 0x01, 0x00])
      = .loaded 3 .tester 0xFFFF#16 0x0011#16 2#8 1#8 0#8 := by decide +kernel

/-- R178: one flipped bit fails the frame check. -/
theorem test_decode_flipped :
    decodeCellFrame 0x0080#16 3
        ((checked [0x00, 0x00, 0x00, 0x87, 0x02, 0xFF, 0xFF, 0x00, 0x02, 0x00, 0x07]).set 10 0x06)
      = .frameCheckFailure (.cell 3) := by decide +kernel

/-- R179: a frame from the station of another cell, and one to another destination than the floor server. -/
theorem test_decode_source_and_destination :
    decodeCellFrame 0x0080#16 4 (checked [0x00, 0x00, 0x00, 0x87, 0x02, 0xFF, 0xFF, 0x00, 0x02, 0x00, 0x07])
        = .sourceCheckFailure 4
      ∧ decodeCellFrame 0x0080#16 3 (checked [0x00, 0x80, 0x00, 0x87, 0x02, 0xFF, 0xFF, 0x00, 0x02, 0x00, 0x07])
        = .destinationError 3 := by decide +kernel

/-- R201: a TAKE of the wrong length. -/
theorem test_decode_length :
    decodeCellFrame 0x0080#16 3 (checked [0x00, 0x00, 0x00, 0x87, 0x02, 0xFF, 0xFF, 0x00, 0x03, 0x00, 0x07, 0x00])
      = .wrongKindOrLength 3 := by decide +kernel

/-- A REQUEST to part 0x0080: LOT.SHIP, tag 0x1234, lot 14, stamp 96. -/
theorem test_decode_ship :
    decodeUplinkFrame 0x0080#16
        (checked [0x00, 0x80, 0x00, 0x00, 0x20, 0x00, 0x0E, 0x00, 0x09, 0x22, 0x12, 0x34, 0x00, 0x0E, 0x00, 0x00, 0x00, 0x60])
      = .lotShip 0x1234#16 14#16 96#32 := by decide +kernel

/-- TABLE.WRITE of the offer timeout (settings code 7, number 2), value 45. -/
theorem test_decode_setting :
    decodeUplinkFrame 0x0080#16
        (checked [0x00, 0x80, 0x00, 0x00, 0x20, 0xFF, 0xFF, 0x00, 0x07, 0x01, 0x12, 0x34, 0x07, 0x02, 0x00, 0x2D])
      = .tableWriteOfferTimeout 0x1234#16 45#16 := by decide +kernel

/-- R190: a request code that names no request keeps its code and tag. -/
theorem test_decode_unknown_request :
    decodeUplinkFrame 0x0080#16
        (checked [0x00, 0x80, 0x00, 0x00, 0x20, 0xFF, 0xFF, 0x00, 0x03, 0x77, 0x12, 0x34])
      = .requestUnknownCode 0x77#8 0x1234#16 := by decide +kernel

/-- SEGMENT with its seven descriptor bytes: channel 2, slot 1, program 0x0011, revision 2, number 5; two bytes. -/
theorem test_decode_segment :
    decodeUplinkFrame 0x0080#16
        (checked
          [0x00, 0x80, 0x00, 0x00, 0x21, 0xFF, 0xFF, 0x00, 0x02, 0x02, 0x01, 0x00, 0x11, 0x02, 0x00, 0x05, 0xAA, 0xBB])
      = .segment 0xFFFF#16 2#8 1#8 0x0011#16 2#8 5#16 [0xAA#8, 0xBB#8] := by decide +kernel

/-- Table 9-2: a frame of another kind to the tester of cell 0 is a through-frame; to an unserved station, a stray. -/
theorem test_decode_through_and_stray :
    decodeUplinkFrame 0x0080#16 (checked [0x00, 0x82, 0x00, 0x00, 0x77, 0xFF, 0xFF, 0x00, 0x01, 0x05])
        = .throughFrame 0x0082#16 0x77#8 0xFFFF#16 [0x05#8]
      ∧ decodeUplinkFrame 0x0080#16 (checked [0x00, 0xF0, 0x00, 0x00, 0x77, 0xFF, 0xFF, 0x00, 0x01, 0x05])
        = .uplinkStray := by decide +kernel

/-- No row of spec/opcode_table.json gives bits. -/
theorem test_no_table_word : decodeTableWord 0 0 = none ∧ State.reset.withFetchWord 0 0 = State.reset := ⟨rfl, rfl⟩

/-! ### Small states -/

/-- The state after a command. -/
def after (o : Host.Outcome State Fault Refusal) : State :=
  match o with
  | .next s => s
  | _ => State.reset

/-- A state with another lot record. -/
def withLot (h : LotNo) (l : LotRec) (s : State) : State := { s with bay := s.bay.setLot h l }

/-- A state with another cell record. -/
def withCell (c : CellNo) (r : CellRec) (s : State) : State := { s with bay := s.bay.setCell c r }

/-- A state with another load channel. -/
def withChan (k : ChanNo) (ch : Channel) (s : State) : State := { s with bay := s.bay.modChan k fun _ => ch }

/-- A state with another cell port. -/
def withPort (c : CellNo) (p : CellPort) (s : State) : State := s.modPort c fun _ => p

/-- A state with another dispatch queue. -/
def withQueue (q : List LotNo) (s : State) : State := { s with bay := { s.bay with queue := q } }

/-- A state with another clock. -/
def atClock (n : Nat) (s : State) : State := { s with part := { s.part with clock := n } }

/-- A catalogue that holds program 0x0011 at revision 2, of 3 segments. -/
def entry : CatalogueEntry := { program := 0x11#16, revision := 2#8, segs := 3, noRetain := false }

/-- A state with that catalogue. -/
def withEntry (e : CatalogueEntry) (s : State) : State :=
  { s with tables := { s.tables with catalogue := s.tables.catalogue.set 0 (some e) } }

/-- A TEST step at COLD with kit 5 and program 0x0011. -/
def testStep : RouteStep := { kit := 5#8, program := 0x11#16 }

/-- A lot in its first step, 60 of 100 units still to cut and 40 cut. -/
def aLot : LotRec :=
  { state := .active, stamp := 5#32, route := [testStep], steps := [{ state := .opened, input := 100 }]
    stepIndex := some 1, startQty := 100, remaining := 60, openSublots := 1 }

/-- A hold entry. -/
def aHold (k : HoldKind) : HoldEntry :=
  { kind := k, origin := .floor, raisedAt := 0, stepIndex := 1, occurrences := 1, detail := .word 7#32 }

/-- A sublot of 40 units of lot 3, on slot 0. -/
def anAssignment : Assignment := { lot := 3, step := 1, id := 7#16, qty := 40, slot := some 0 }

/-- A cell that runs that sublot on two sites. -/
def aCell : CellRec :=
  { state := .running, kit := 5#8, temp := some .cold, sites := some 2, assignment := some anAssignment }

/-- The image that the catalogue names. -/
def image : Image := { program := 0x11#16, revision := 2#8, segs := 3 }

/-- A load that waits for its LOADED. -/
def aLoad : LoadRec := { image := image, slot := 1, place := .awaiting, deadline := some 500 }

/-- A channel that pulls the image for cell 2. -/
def aChannel : Channel :=
  { state := .pulling, image := some image, base := 3, current := 1, targets := [{ cell := 2, slot := 1 }]
    pull := some { first := 0, n := 2, arrived := 0, deadline := 500 }, slotHeld := true }

/-- Lot 3 running on cell 2. -/
def running : State := withCell 2 aCell (withLot 3 aLot State.reset)

/-! ### Worked examples and layouts of the manual -/

/-- Tables 11-11, 11-15 and 11-16: the data of the reads are 792, 213 and 945 bytes. -/
theorem test_read_lengths :
    (lotReadBytes aLot).length = 792 ∧ (cellReadBytes State.reset 0).length = 213
      ∧ (partReadBytes State.reset).length = 945 := by decide +kernel

/-- R116: 4,710 good of 5,000 is 9,420 bp; a step with nothing tested reports 0. -/
theorem test_reported_yield : reportedYield 4710 5000 = 9420 ∧ reportedYield 0 0 = 0 := by decide

/-- R171, section 8.4: an express entry for lot 4 goes behind the youngest entry of its handle. -/
theorem test_express_placement :
    let e (o : Origin) (lot : Half) : UpEntry := { origin := o, frame := ⟨0, 0, 0, lot, [], []⟩ }
    let s : State :=
      { State.reset with
        link := { State.reset.link with uplink := [e (.forwarded 1) 9, e (.forwarded 2) 4, e .response 0xFFFF, e .pull 0xFFFF] } }
    ((s.pushExpress 4 (e (.lotState 4) 4)).link.uplink.map (·.origin))
      = [.forwarded 1, .forwarded 2, .lotState 4, .response, .pull] := by decide +kernel

/-- R65: the id after 65,535 is 1. R157: the release number after 4,294,967,295 is 1. -/
theorem test_draws_skip_zero : nextId 0xFFFF#16 = 1#16 ∧ nextRelease 0xFFFFFFFF#32 = 1#32 := by decide

/-- R2, R9: the stamp wraps. R16: an ABORT of a DEFINED lot. -/
theorem test_abort_defined_wraps :
    let s := withLot 3 { aLot with state := .defined, stamp := 0xFFFFFFFF#32 } State.reset
    let t := after (exec (.lotAbort 1#16 3#16) s)
    (t.bay.lot 3).state = .aborted ∧ (t.bay.lot 3).stamp = 0#32 := by decide +kernel

/-- R109: a matched unit that brings the count to the quantity sends FINISH under AUTO. -/
theorem test_last_unit_finishes :
    let s := withCell 2 { aCell with assignment := some { anAssignment with qty := 1 } } running
    let t := after (exec (.unit 2 .handler 3 7#16 1#8 1#8 0#32) s)
    (t.bay.cell 2).commands = [.finish 7#16 3] ∧ ((t.bay.lot 3).stepRec 1).good = 1
      ∧ ((t.bay.lot 3).stepRec 1).bins[1] = 1 := by decide +kernel

/-- R104: a site at the recorded site count makes the unit a stray. -/
theorem test_unit_stray :
    let t := after (exec (.unit 2 .handler 3 7#16 2#8 1#8 0#32) running)
    (t.bay.cell 2).counters.strays = 1 ∧ ((t.bay.lot 3).stepRec 1).tested = 0 := by decide +kernel

/-- R115, R118: the third bad unit in a row at a run limit of 3 holds the lot and pauses the cell. -/
theorem test_run_holds :
    let s := { running with tables := { running.tables with profiles := running.tables.profiles.set 0 { runLimit := 3 } } }
    let sites : Vector SiteTally 8 := (Vector.replicate 8 {}).set 1 { tested := 2, good := 0, run := 2 }
    let s := withCell 2 { aCell with assignment := some { anAssignment with units := 2, sites := sites } } s
    let t := after (exec (.unit 2 .handler 3 7#16 1#8 5#8 0#32) s)
    (t.bay.lot 3).state = .held ∧ (t.bay.lot 3).holds.map (·.kind) = [.run] ∧ (t.bay.cell 2).pause = .sent
      ∧ (t.bay.cell 2).suspect = true ∧ (t.bay.cell 2).commands = [.pause 7#16 3] := by decide +kernel

/-- R21: an abort of a lot whose cell runs leaves it ABORTING, the cell to finish. -/
theorem test_abort_running :
    let t := after (exec (.lotAbort 1#16 3#16) (withQueue [3] running))
    (t.bay.lot 3).state = .aborting ∧ (t.bay.cell 2).commands = [.finish 7#16 3] ∧ t.bay.queue = [] := by decide +kernel

/-- R61, R64: READY of a cell that fits offers a sublot of the profile's size limit and the rotation moves. -/
theorem test_ready_offers :
    let s := withEntry entry (withQueue [3] (withLot 3 { aLot with openSublots := 0 } State.reset))
    let s :=
      withCell 2 { slots := (Vector.replicate 4 {}).set 1 { state := .resident, image := some (0x11#16, 2#8) } } s
    let t := after (exec (.ready 2 .handler 0xFFFF#16 5#8 0#8 4#8) s)
    (t.bay.cell 2).state = .offered ∧ (t.bay.cell 2).assignment.map (·.qty) = some 60 ∧ (t.bay.lot 3).state = .closing
      ∧ (t.bay.cell 2).offerDeadline = some 20000 ∧ t.bay.rotation.getLast? = some 2 := by decide +kernel

/-- R91: a segment of wrong number on a channel that is not DRAINING faults it. -/
theorem test_wrong_segment :
    let s := withChan 1 aChannel (withCell 2 { aCell with state := .loading, assignment := none, load := some { aLoad with place := .target } } State.reset)
    let t := after (exec (.segment 0xFFFF#16 1#8 1#8 0x11#16 2#8 1#16 [1#8]) s)
    (t.bay.chan 1).state = .idle ∧ (t.bay.chan 1).faults = 1 ∧ (t.bay.chan 1).lastFault = some .sequence
      ∧ (t.bay.cell 2).loadFailures = 1 := by decide +kernel

/-- R155: LOT.SHIP of a COMPLETE lot takes the release counter's number. -/
theorem test_ship :
    let s := withLot 3 { aLot with state := .complete, carried := 95, openSublots := 0, remaining := 0 } State.reset
    let t := after (exec (.lotShip 1#16 3#16 5#32) s)
    (t.bay.lot 3).state = .released ∧ (t.bay.lot 3).release.map (·.number) = some 1#32
      ∧ (t.bay.lot 3).release.map (·.shipped) = some 95 ∧ t.bay.releaseCounter = 2#32 := by decide +kernel

/-- R45: a first stall expiry marks the cell and arms the watch again. -/
theorem test_stall :
    let s := withCell 2 { aCell with stallDeadline := some 1000 } (atClock 1000 State.reset)
    let s := { s with tables := { s.tables with cellConfig := s.tables.cellConfig.set 2 { stall := .s120 } } }
    let t := after (exec .stallDeadlineExpiry s)
    (t.bay.cell 2).stalled = true ∧ (t.bay.cell 2).stallDeadline = some 121000 ∧ (t.bay.cell 2).counters.stalls = 1 := by
  decide +kernel

/-- R196: TIME.SET alone takes no expiry; the step after it, with nothing waiting, takes the one that is due. -/
theorem test_time_set_then_expiry :
    let s := withCell 2 { aCell with stallDeadline := some 1000 } State.reset
    let t := after (exec (.timeSet 1#16 5000#48) s)
    t.part.clock = 5000 ∧ (t.bay.cell 2).stalled = false ∧ ((after (step t)).bay.cell 2).stalled = true := by
  decide +kernel

/-! ### Witnesses: means -/

/-- A property of every present value of a family of options. -/
theorem all_some {n : Nat} {β : Type} {f : Fin n → Option β} {p : Fin n → β → Prop} [∀ i x, Decidable (p i x)]
    (h : ∀ i, (f i).all (fun x => decide (p i x)) = true) : ∀ i x, f i = some x → p i x := by
  intro i x hx
  have := h i
  rw [hx] at this
  exact of_decide_eq_true (by simpa using this)

/-- The cells of a lot as a decidable property. -/
theorem namedBy_iff (s : State) (h : LotNo) (c : CellNo) :
    s.NamedBy h c ↔ (s.bay.cell c).assignment.any (·.lot = h) = true := by
  unfold State.NamedBy
  cases (s.bay.cell c).assignment <;> simp

/-- The one entry of a catalogue. -/
theorem catalogued_of {s : State} {e : CatalogueEntry}
    (h : s.tables.catalogue = (Vector.replicate 128 none).set 0 (some e)) : s.Catalogued e.program e := by
  refine ⟨rfl, ⟨0, by simp [h]⟩, fun j o ho _ => ?_⟩
  rw [h] at ho
  by_cases hj : j = 0
  · subst hj; simpa using ho.symm
  · have hv : ¬(0 : Nat) = j.val := fun e => hj (Fin.ext e.symm)
    simp [hv] at ho

/-- The catalogue holds no program. -/
theorem uncatalogued : ∀ (j : Fin 128) (e : CatalogueEntry), State.reset.tables.catalogue[j] = some e → e.program ≠ 0x11#16 := by
  intro j e h
  simp [State.reset] at h

/-- Lot 3 on cell 2 alone. -/
theorem named_running : ∀ c, running.NamedBy 3 c → c = 2 := by
  simp only [namedBy_iff]
  decide +kernel

/-! ### Witnesses: the block, tables, reads -/

theorem witness_StepTakesFrontCommand :
    ({ State.reset with pending := [.pullGrant] } : State).pending = [.pullGrant] := rfl

theorem witness_IdleStepPassesTime :
    (let s := withCell 3 { offerDeadline := some 0 } State.reset;
      s.pending = [] ∧ s.Quiet ∧ (firstDue s.part.clock s.bay.offerDeadlines).isSome = true)
    ∧ (let s := withCell 3 { offerDeadline := some 1 } State.reset;
      s.pending = [] ∧ s.Quiet ∧ firstDue s.part.clock s.bay.offerDeadlines = none
        ∧ firstDue s.part.clock s.bay.stallDeadlines = none ∧ firstDue s.part.clock s.bay.ageDeadlines = none
        ∧ firstDue s.part.clock s.bay.pullDeadlines = none ∧ firstDue s.part.clock s.bay.loadDeadlines = none
        ∧ firstDue s.part.clock s.bay.quarantineDeadlines = none) := by
  unfold State.Quiet
  decide +kernel

/-- For every request answered whatever its operands: PartRestartValues, SettingWrites, TimeSet, OutOfRangeRequestsAreUnknown
(handle 256, cell 32), GateProfileWrite (63, 64), ConfigurationGroupAndForwardingWrites (31 and 32, 3 and 4, kinds 0, 1, 9
and 10), ChannelSettingsWrite (7, 8), ReadsAnswerAndChangeNothing (255 and 256, 31 and 32, a used and an unused index). -/
theorem witness_requests :
    State.reset.TakesRequests ∧ State.reset.bay.waitQueue = []
    ∧ (255#16).toNat < 256 ∧ 256 ≤ (256#16).toNat ∧ (31#8).toNat < 32 ∧ 32 ≤ (32#8).toNat ∧ (63#8).toNat < 64
    ∧ 64 ≤ (64#8).toNat ∧ (3#8).toNat < 4 ∧ 4 ≤ (4#8).toNat ∧ (7#8).toNat < 8 ∧ 8 ≤ (8#8).toNat
    ∧ (1 ≤ (1#8).toNat ∧ (1#8).toNat ≤ 9) ∧ (1 ≤ (9#8).toNat ∧ (9#8).toNat ≤ 9)
    ∧ ¬(1 ≤ (0#8).toNat ∧ (0#8).toNat ≤ 9) ∧ 0#8 ≠ 0xFF#8 ∧ ¬(1 ≤ (10#8).toNat ∧ (10#8).toNat ≤ 9) ∧ 10#8 ≠ 0xFF#8
    ∧ (State.reset.tables.entryBytes 1#8 63#8).isSome = true ∧ State.reset.tables.entryBytes 1#8 64#8 = none := by
  unfold State.TakesRequests State.Quiet
  decide +kernel

theorem witness_CatalogueWrite :
    128 ≤ (128#8).toNat ∧ (127#8).toNat < 128
    ∧ (let s := withEntry entry State.reset;
      s.TakesRequests ∧ 0x11#16 ≠ 0#16 ∧ s.tables.catalogue[0] = some entry ∧ entry.program = 0x11#16 ∧ (0 : Nat) ≠ 127)
    ∧ ¬(0#16 ≠ (0#16 : Half)) := by
  unfold State.TakesRequests State.Quiet
  decide +kernel

theorem witness_ClaimsRefusedWait :
    (let s := withChan 0 { aChannel with pull := some { first := 0, n := 2048, arrived := 0, deadline := 0 } } State.reset;
      isRequest (.partRead 1#16) = true ∧ s.Quiet ∧ s.link.uplinkUp = true ∧ s.free = 0)
    ∧ (let s := withChan 0 { aChannel with pull := some { first := 0, n := 1984, arrived := 0, deadline := 0 } } State.reset;
      s.Quiet ∧ s.link.ports[(5 : CellNo)].up = true ∧ s.forwarding .take = .forward ∧ s.free = 64)
    ∧ (let s : State := { State.reset with tables := { State.reset.tables with settings := { cellShareLimit := 0 } } };
      s.Quiet ∧ s.link.ports[(5 : CellNo)].up = true ∧ s.forwarding .take = .forward
        ∧ s.tables.settings.cellShareLimit ≤ s.share 5) := by
  unfold State.Quiet
  decide +kernel

/-! ### Witnesses: lots -/

/-- A step slot of LOT.DEFINE that is right. -/
def goodStep : StepImage := { kind := 0#8, temp := 2#8, kit := 1#8, program := 1#16, profile := 63#8, minSites := 0#8 }

theorem witness_LotDefine :
    State.reset.TakesRequests ∧ 1 < (2#8).toNat ∧ 16 < (17#8).toNat ∧ (1#8).toNat ≤ 1 ∧ (16#8).toNat ≤ 16
    ∧ (0#8).toNat = 0 ∧ 6 < (7#8).toNat ∧ 1 ≤ (6#8).toNat ∧ (6#8).toNat ≤ 6
    ∧ (let steps : Vector StepImage 6 := (Vector.replicate 6 goodStep).set 5 { goodStep with profile := 64#8 };
      63 < steps[5].profile.toNat ∧ (5 : Fin 6).val < (7#8).toNat ∧ ∀ j : Fin 6, j < 5 → steps[j] = goodStep)
    ∧ ¬(1 < goodStep.kind.toNat ∨ 2 < goodStep.temp.toNat ∨ goodStep.kit = 0#8 ∨ goodStep.program = 0#16
        ∨ 63 < goodStep.profile.toNat ∨ goodStep.kind = 1#8)
    ∧ (let s := { State.reset with bay := { State.reset.bay with lots := Vector.replicate 256 { state := .defined } } };
      s.TakesRequests ∧ ∀ h : LotNo, (s.bay.lot h).state ≠ .free)
    ∧ (let s := withLot 0 aLot State.reset;
      s.TakesRequests ∧ (s.bay.lot 1).state = .free ∧ ∀ h' < (1 : LotNo), (s.bay.lot h').state ≠ .free) := by
  unfold State.TakesRequests State.Quiet
  decide +kernel

theorem witness_LotStartRefusesOrPromotes :
    (let s := withLot 255 { aLot with state := .held, saved := some .complete } State.reset;
      s.TakesRequests ∧ (s.bay.lot 255).state = .held ∧ (s.bay.lot 255).saved = some .complete)
    ∧ (let s := withLot 255 { aLot with state := .closing, cls := .expedited } State.reset;
      s.TakesRequests ∧ (s.bay.lot 255).state = .closing ∧ (s.bay.lot 255).cls = .expedited)
    ∧ (let s := withLot 255 { aLot with state := .held, saved := some .active } State.reset;
      s.TakesRequests ∧ (s.bay.lot 255).cls = .normal ∧ (s.bay.lot 255).saved = some .active ∧ (255 : LotNo) ∉ s.bay.queue)
    ∧ (let s := withQueue [3] running;
      s.TakesRequests ∧ (s.bay.lot 3).state = .active ∧ (s.bay.lot 3).cls = .normal ∧ (3 : LotNo) ∈ s.bay.queue ∧ s.NoIdle) := by
  unfold State.TakesRequests State.Quiet State.NoIdle
  decide +kernel

/-- A DEFINED lot. -/
def defined : State := withLot 3 { aLot with state := .defined, stepIndex := none, remaining := 0, openSublots := 0 } State.reset

theorem witness_LotStartOpensStepOne :
    (defined.TakesRequests ∧ (defined.bay.lot 3).state = .defined ∧ (defined.bay.lot 3).cls = .normal
      ∧ 0 < (defined.bay.lot 3).startQty ∧ (defined.bay.lot 3).holds = [] ∧ (3 : LotNo) ∉ defined.bay.queue
      ∧ (defined.bay.lot 3).route = [testStep])
    ∧ (let s := withEntry entry defined;
      s.TakesRequests ∧ s.NoIdle ∧ s.Catalogued testStep.program entry)
    ∧ ∀ (j : Fin 128) (e : CatalogueEntry), defined.tables.catalogue[j] = some e → e.program ≠ testStep.program := by
  refine ⟨?_, ⟨?_, ?_, catalogued_of rfl⟩, uncatalogued⟩
  · unfold State.TakesRequests State.Quiet
    decide +kernel
  · unfold State.TakesRequests State.Quiet
    decide +kernel
  · unfold State.NoIdle
    decide +kernel

/-- Lot 3 on cell 2, in another state and with other cells' work left out. -/
def onCell (state : CellState) : State :=
  withCell 2 { aCell with state := state } (withLot 3 aLot State.reset)

theorem named_onCell (state : CellState) : ∀ c, (onCell state).NamedBy 3 c → c = 2 := by
  cases state <;> (simp only [namedBy_iff]; decide +kernel)

theorem witness_LotAbort :
    (State.reset.TakesRequests ∧ (State.reset.bay.lot 255).state = .free)
    ∧ (defined.TakesRequests ∧ (defined.bay.lot 3).state = .defined)
    ∧ (running.TakesRequests ∧ (running.bay.lot 3).state = .active ∧ running.AllRunning 3)
    ∧ (let s := withQueue [3] (onCell .offered);
      s.TakesRequests ∧ (s.bay.lot 3).state = .active ∧ (s.bay.lot 3).openSublots = 1
        ∧ (s.bay.cell 2).assignment = some anAssignment ∧ anAssignment.lot = 3 ∧ (∀ h' ∈ s.bay.queue, h' = 3)
        ∧ (s.bay.cell 2).state = .offered)
    ∧ ((onCell .loading).TakesRequests ∧ ((onCell .loading).bay.cell 2).state = .loading)
    ∧ ∀ c, (onCell .offered).NamedBy 3 c → c = 2 := by
  refine ⟨?_, ?_, ⟨?_, ?_, fun c hc => ?_⟩, ?_, ?_, named_onCell .offered⟩
  all_goals try (unfold State.TakesRequests State.Quiet; decide +kernel)
  · decide +kernel
  · rw [named_running c hc]; decide +kernel

theorem witness_LotRetire :
    ((withLot 255 aLot State.reset).TakesRequests ∧ ((withLot 255 aLot State.reset).bay.lot 255).state = .active)
    ∧ (let s := withLot 255 { aLot with state := .released } State.reset;
      s.TakesRequests ∧ (s.bay.lot 255).state = .released) := by
  unfold State.TakesRequests State.Quiet
  decide +kernel

/-! ### Witnesses: holds and release -/

theorem witness_HoldSet :
    (State.reset.TakesRequests ∧ (State.reset.bay.lot 3).state = .free)
    ∧ (running.TakesRequests ∧ (running.bay.lot 3).state = .active ∧ running.AllRunning 3)
    ∧ (let s := withLot 3 { aLot with state := .held, saved := some .complete, holds := [aHold .quality] } State.reset;
      s.TakesRequests ∧ (s.bay.lot 3).state = .held ∧ ((s.bay.lot 3).holds.any (·.kind = .quality)) = true) := by
  refine ⟨?_, ⟨?_, ?_, fun c hc => ?_⟩, ?_⟩
  all_goals try (unfold State.TakesRequests State.Quiet; decide +kernel)
  · decide +kernel
  · rw [named_running c hc]; decide +kernel

/-- Lot 3 HELD from a state with a hold set. -/
def held (saved : SavedState) (holds : List HoldEntry) : State :=
  withLot 3 { aLot with state := .held, saved := some saved, holds := holds, openSublots := 0 } State.reset

theorem witness_HoldReleaseRefusedOrPartial :
    (held .active [aHold .quality, aHold .yield]).TakesRequests
    ∧ ¬(1 ≤ (0#8).toNat ∧ (0#8).toNat ≤ 9 ∧ (0#8).toNat ≤ 1) ∧ ¬(1 ≤ (10#8).toNat ∧ (10#8).toNat ≤ 9 ∧ (0#8).toNat ≤ 1)
    ∧ ¬(1 ≤ (9#8).toNat ∧ (9#8).toNat ≤ 9 ∧ (2#8).toNat ≤ 1) ∧ (1 ≤ (9#8).toNat ∧ (9#8).toNat ≤ 9 ∧ (1#8).toNat ≤ 1)
    ∧ (4#32 ≠ aLot.stamp ∧ 5#32 = aLot.stamp)
    ∧ (let l := (held .active [aHold .quality, aHold .yield]).bay.lot 3;
      (∀ k : HoldKind, ¬(k.priority = (2#8).toNat ∧ k ∈ l.holds.map (·.kind)))
      ∧ l.holds.head?.map (·.kind) = some .quality ∧ (∃ e ∈ l.holds, e.kind ≠ .quality)
      ∧ (HoldKind.yield.priority = (8#8).toNat ∧ .yield ∈ l.holds.map (·.kind)) ∧ (∃ e ∈ l.holds, e.kind ≠ .yield)
      ∧ HoldKind.yield ∈ [HoldKind.yield, .bin, .site, .run] ∧ l.saved = some .active) := by
  refine ⟨?_, by decide, by decide, by decide, by decide, by decide +kernel, fun k => ?_, ?_⟩
  · unfold State.TakesRequests State.Quiet
    decide +kernel
  · cases k <;> decide +kernel
  · decide +kernel

theorem witness_HoldReleaseLastRestores :
    (∀ v ∈ [SavedState.active, .closing, .complete],
      (held v [aHold .count]).TakesRequests ∧ ((held v [aHold .count]).bay.lot 3).state = .held
        ∧ ((held v [aHold .count]).bay.lot 3).holds = [aHold .count] ∧ ((held v [aHold .count]).bay.lot 3).saved = some v)
    ∧ (((held .closing [aHold .count]).bay.lot 3).stepRec 1).closeEvaluated = false
    ∧ 0 < ((held .active [aHold .count]).bay.lot 3).remaining ∧ (held .active [aHold .count]).NoIdle
    ∧ (let s := withLot 3 { aLot with state := .held, saved := some .active, holds := [aHold .count], remaining := 0 } State.reset;
      s.TakesRequests ∧ (s.bay.lot 3).remaining = 0) := by
  unfold State.TakesRequests State.Quiet State.NoIdle
  decide +kernel

/-- A lot held at an evaluated close of its first step, of `n` steps. -/
def heldAtClose (n : Nat) : State :=
  withEntry entry
    (withLot 3
      { aLot with
        state := .held, saved := some .closing, holds := [aHold .count], remaining := 0, openSublots := 0
        route := List.replicate n testStep
        steps := { state := .opened, input := 100, tested := 100, good := 95, closeEvaluated := true } :: List.replicate (n - 1) {} }
      State.reset)

theorem witness_HeldCloseAdvances :
    (∀ n ∈ [1, 2],
      (heldAtClose n).TakesRequests ∧ ((heldAtClose n).bay.lot 3).state = .held
        ∧ ((heldAtClose n).bay.lot 3).holds = [aHold .count] ∧ ((heldAtClose n).bay.lot 3).saved = some .closing
        ∧ ((heldAtClose n).bay.lot 3).stepIndex = some (0 + 1) ∧ ((heldAtClose n).bay.lot 3).route.length = n
        ∧ (((heldAtClose n).bay.lot 3).steps[0]?.map (·.closeEvaluated)) = some true
        ∧ ((heldAtClose n).bay.lot 3).route[0]? = some testStep)
    ∧ ((heldAtClose 2).bay.lot 3).route[0 + 1]? = some testStep ∧ ((heldAtClose 2).bay.lot 3).steps[0 + 1]? = some ({} : StepRec)
    ∧ testStep.kind = .test ∧ 0 < min 95 100 ∧ (heldAtClose 2).NoIdle
    ∧ (heldAtClose 2).Catalogued testStep.program entry := by
  refine ⟨?_, ?_, ?_, ?_, ?_, ?_, catalogued_of rfl⟩
  · unfold State.TakesRequests State.Quiet
    decide +kernel
  · decide +kernel
  · decide +kernel
  · decide
  · decide
  · unfold State.NoIdle
    decide +kernel

/-- A COMPLETE lot that carries `n` units. -/
def complete (n : Nat) : State :=
  withLot 3 { aLot with state := .complete, carried := n, remaining := 0, openSublots := 0, quarantine := some 10 } State.reset

theorem witness_LotShip :
    (State.reset.TakesRequests ∧ 256 ≤ (256#16).toNat ∧ (State.reset.bay.lot 255).state ≠ .complete)
    ∧ ((complete 0).TakesRequests ∧ ((complete 0).bay.lot 3).state = .complete ∧ ((complete 0).bay.lot 3).carried = 0
      ∧ 5#32 = ((complete 0).bay.lot 3).stamp ∧ 4#32 ≠ ((complete 0).bay.lot 3).stamp)
    ∧ ((complete 1).TakesRequests ∧ ((complete 1).bay.lot 3).state = .complete ∧ 0 < ((complete 1).bay.lot 3).carried
      ∧ Notice.release 3 ∉ (complete 1).bay.notices) := by
  unfold State.TakesRequests State.Quiet
  decide +kernel

/-! ### Witnesses: requests on cells -/

theorem witness_CellClaim :
    (State.reset.TakesRequests ∧ (State.reset.bay.cell 31).state = .offline)
    ∧ (running.TakesRequests ∧ (running.bay.cell 2).state = .running ∧ (running.bay.cell 2).claimPending = false)
    ∧ (let s := withCell 2 { aCell with claimPending := true } running;
      s.TakesRequests ∧ (s.bay.cell 2).state = .running ∧ (s.bay.cell 2).claimPending = true)
    ∧ ((onCell .offered).TakesRequests ∧ ((onCell .offered).bay.cell 2).state = .offered
      ∧ ((onCell .offered).bay.cell 2).assignment = some anAssignment ∧ (onCell .offered).NoIdle
      ∧ (onCell .offered).KeepsOpen 3 40) := by
  unfold State.TakesRequests State.Quiet State.NoIdle State.KeepsOpen
  decide +kernel

theorem witness_CellRestore :
    (∀ v ∈ [CellState.claimed, .faulted],
      (withCell 31 { state := v } State.reset).TakesRequests
        ∧ ((withCell 31 { state := v } State.reset).bay.cell 31).state = v)
    ∧ (State.reset.TakesRequests ∧ (State.reset.bay.cell 31).state ≠ .claimed ∧ (State.reset.bay.cell 31).state ≠ .faulted) := by
  unfold State.TakesRequests State.Quiet
  decide +kernel

/-! ### Witnesses: frames from cells -/

/-- Every kind of frame is taken at cell 2 in the state after reset, and an absorbed one whatever the pool. -/
theorem takes_reset (k : CellKind) : State.reset.TakesFrame 2 k := by
  cases k <;> (unfold State.TakesFrame State.Quiet; decide +kernel)

/-- What a change of the bay's records leaves. -/
theorem takes_of {s : State} {c : CellNo} {k : CellKind} (h : s.Quiet) (hu : s.link.ports[c].up = true)
    (hg : s.cellClaimGranted c = true) : s.TakesFrame c k := ⟨h, hu, .inr hg⟩

theorem takes_running (k : CellKind) : running.TakesFrame 2 k :=
  takes_of (by unfold State.Quiet; decide +kernel) (by decide +kernel) (by decide +kernel)

theorem takes_onCell (state : CellState) (k : CellKind) : (onCell state).TakesFrame 2 k :=
  takes_of (by unfold State.Quiet; cases state <;> decide +kernel) (by cases state <;> decide +kernel)
    (by cases state <;> decide +kernel)

/-- Cell 2 loading, without an assignment. -/
def loading : State :=
  withEntry entry (withCell 2 { state := .loading, temp := some .cold, sites := some 2, load := some aLoad, loadFailures := 1 } State.reset)

theorem takes_loading (k : CellKind) : loading.TakesFrame 2 k :=
  takes_of (by unfold State.Quiet; decide +kernel) (by decide +kernel) (by decide +kernel)

theorem witness_CellFrameProtocolErrors :
    (State.reset.TakesFrame 2 .take ∧ (CellStation.tester = .tester ↔ CellKind.take ≠ .loaded ∧ CellKind.take ≠ .tstate))
    ∧ (State.reset.TakesFrame 2 .loaded ∧ (CellStation.handler = .tester ↔ CellKind.loaded ≠ .loaded ∧ CellKind.loaded ≠ .tstate))
    ∧ (State.reset.TakesFrame 2 .ready ∧ 2 < (3#8).toNat ∧ running.TakesFrame 2 .ready ∧ (running.bay.cell 2).state = .running)
    ∧ (running.TakesFrame 2 .decline ∧ (∃ a, (running.bay.cell 2).assignment = some a ∧ a.id = 7#16))
    ∧ (running.TakesFrame 2 .tally ∧ ∀ a, (running.bay.cell 2).assignment = some a → a.id ≠ 8#16)
    ∧ (loading.TakesFrame 2 .loaded ∧ (loading.bay.cell 2).state = .loading ∧ (loading.bay.cell 2).load = some aLoad
      ∧ (0#8).toNat ≠ aLoad.slot.val)
    ∧ (State.reset.TakesFrame 2 .tstate ∧ 3#8 ≠ 1#8 ∧ 3#8 ≠ 2#8 ∧ 4 ≤ (4#8).toNat) := by
  refine ⟨⟨takes_reset _, by decide⟩, ⟨takes_reset _, by decide⟩, ⟨takes_reset _, by decide, takes_running _, by decide +kernel⟩,
    ⟨takes_running _, anAssignment, by decide +kernel, rfl⟩, ⟨takes_running _, ?_⟩,
    ⟨takes_loading _, by decide +kernel, by decide +kernel, by decide⟩, takes_reset _, by decide, by decide, by decide⟩
  have h : (running.bay.cell 2).assignment = some anAssignment := by decide +kernel
  rintro a ha
  rw [h] at ha
  obtain rfl := Option.some.inj ha
  decide

theorem witness_PausedAcknowledges :
    (let s := withCell 2 { aCell with pause := .sent } running;
      s.TakesFrame 2 .paused ∧ (s.bay.cell 2).state = .running ∧ (s.bay.cell 2).assignment = some anAssignment
        ∧ anAssignment.id = 7#16 ∧ (s.bay.cell 2).pause = .sent)
    ∧ (running.TakesFrame 2 .paused ∧ (running.bay.cell 2).pause ≠ .sent)
    ∧ (State.reset.TakesFrame 2 .paused ∧ (State.reset.bay.cell 2).state ≠ .running) := by
  refine ⟨⟨takes_of (by unfold State.Quiet; decide +kernel) (by decide +kernel) (by decide +kernel), ?_⟩,
    ⟨takes_running _, by decide +kernel⟩, takes_reset _, by decide +kernel⟩
  decide +kernel

/-- Cell 2 with a slot in a state. -/
def withSlot (k : SlotNo) (state : SlotState) (s : State) : State :=
  withCell 2 { s.bay.cell 2 with slots := (s.bay.cell 2).slots.set k { state := state, image := some (0x11#16, 2#8) } } s

theorem takes_withSlot (k : SlotNo) (v : SlotState) (kind : CellKind) : (withSlot k v running).TakesFrame 2 kind := by
  have h := takes_running kind
  have hg : running.cellClaimGranted 2 = true := by decide +kernel
  exact takes_of h.1 h.2.1 hg

theorem witness_TesterFrames :
    (running.TakesFrame 2 .loaded ∧ (running.bay.cell 2).state ≠ .loading)
    ∧ ((withSlot 3 .altered running).TakesFrame 2 .tstate ∧ (3#8).toNat = (3 : SlotNo).val
      ∧ ((withSlot 3 .altered running).bay.cell 2).slots[(3 : SlotNo)].state = .altered)
    ∧ (running.TakesFrame 2 .tstate ∧ (running.bay.cell 2).state ≠ .loading
      ∧ ∀ k : SlotNo, (running.bay.cell 2).slots[k].state = .empty)
    ∧ ((withSlot 3 .stale running).TakesFrame 2 .tstate ∧ ((withSlot 3 .stale running).bay.cell 2).slots[(3 : SlotNo)].state = .stale
      ∧ ((withSlot 3 .stale running).bay.cell 2).assignment = some anAssignment ∧ anAssignment.slot ≠ some 3)
    ∧ ((withSlot 0 .resident running).TakesFrame 2 .tstate
      ∧ ((withSlot 0 .resident running).bay.cell 2).slots[(0 : SlotNo)].state = .resident
      ∧ ((withSlot 0 .resident running).bay.cell 2).slots[(0 : SlotNo)].image = some (0x11#16, 2#8) ∧ anAssignment.slot = some 0
      ∧ ((withSlot 0 .resident running).bay.cell 2).state = .running ∧ ((withSlot 0 .resident running).bay.cell 2).pause = .none
      ∧ ((withSlot 0 .resident running).bay.lot 3).state = .active ∧ ((withSlot 0 .resident running).bay.lot 3).holds = [])
    ∧ (∀ c, (withSlot 0 .resident running).NamedBy 3 c → c = 2)
    ∧ (State.reset.TakesFrame 2 .tstate ∧ (State.reset.bay.cell 2).assignment = none) := by
  refine ⟨⟨takes_running _, by decide +kernel⟩, ⟨takes_withSlot .., by decide, by decide +kernel⟩,
    ⟨takes_running _, by decide +kernel, by decide +kernel⟩, ⟨takes_withSlot .., by decide +kernel, by decide +kernel, by decide⟩,
    ⟨takes_withSlot .., ?_⟩, ?_, takes_reset _, by decide +kernel⟩
  · decide +kernel
  · simp only [namedBy_iff]
    decide +kernel

theorem witness_ReadyRecordsCapability :
    (∀ v ∈ [(TempClass.cold, 0#8), (.room, 1#8), (.hot, 2#8)], v ∈ [(TempClass.cold, 0#8), (.room, 1#8), (.hot, 2#8)]) ∧ 1#8 ≠ 0#8
    ∧ (State.reset.TakesFrame 2 .ready ∧ (State.reset.bay.cell 2).state = .offline ∧ State.reset.bay.queue = [])
    ∧ (let s := withCell 2 { state := .claimed } State.reset;
      s.TakesFrame 2 .ready ∧ (s.bay.cell 2).state = .claimed) := by
  refine ⟨fun _ h => h, by decide, ⟨takes_reset _, by decide +kernel, rfl⟩,
    takes_of (by unfold State.Quiet; decide +kernel) (by decide +kernel) (by decide +kernel), by decide +kernel⟩

/-- Lot 3 queued, cell 2 NOT_READY with its program resident. -/
def matching : State :=
  withSlot 1 .resident (withCell 2 { state := .notReady } (withEntry entry (withQueue [3] (withLot 3 { aLot with openSublots := 0 } State.reset))))

theorem witness_ReadyCutsAndOffers :
    matching.TakesFrame 2 .ready ∧ matching.Catalogued testStep.program entry
    ∧ (matching.bay.queue = [3] ∧ (matching.bay.lot 3).state = .active ∧ (matching.bay.cell 2).state = .notReady
      ∧ (matching.bay.cell 2).localPending = false ∧ (matching.bay.cell 2).excluded ≠ some 3 ∧ testStep.kit ≠ 0#8 ∧ 1#8 ≠ 0#8
      ∧ (matching.bay.lot 3).routeStep ((matching.bay.lot 3).stepIndex.getD 0) = testStep
      ∧ testStep.minSites ≤ min (1#8).toNat 8
      ∧ (matching.bay.lot 3).openSublots < matching.tables.profiles[testStep.profile].spread
      ∧ (matching.bay.cell 2).slots[(1 : SlotNo)].state = .resident
      ∧ (matching.bay.cell 2).slots[(1 : SlotNo)].image = some (entry.program, entry.revision)
      ∧ (∀ j : SlotNo, j < 1 → ¬((matching.bay.cell 2).slots[j].state = .resident
          ∧ (matching.bay.cell 2).slots[j].image = some (entry.program, entry.revision)))
      ∧ matching.bay.nextSublot ≠ 0#16 ∧ 0 < (matching.bay.lot 3).remaining)
    ∧ ∀ c' a, (matching.bay.cell c').assignment = some a → a.id ≠ matching.bay.nextSublot :=
  ⟨takes_of (by unfold State.Quiet; decide +kernel) (by decide +kernel) (by decide +kernel), catalogued_of rfl, by decide +kernel,
    all_some (f := fun c => (matching.bay.cell c).assignment) (by decide +kernel)⟩

theorem witness_OfferReplies :
    ((onCell .offered).TakesFrame 2 .take ∧ ((onCell .offered).bay.cell 2).state = .offered
      ∧ ((onCell .offered).bay.cell 2).assignment = some anAssignment ∧ anAssignment.slot = some 0)
    ∧ ((onCell .offered).TakesFrame 2 .decline ∧ (onCell .offered).NoIdle ∧ anAssignment.id = 7#16
      ∧ (onCell .offered).KeepsOpen 3 40)
    ∧ (State.reset.TakesFrame 2 .take ∧ State.reset.TakesFrame 2 .decline ∧ (State.reset.bay.cell 2).state ≠ .offered
      ∧ (State.reset.bay.cell 2).state ≠ .running) := by
  refine ⟨⟨takes_onCell _ _, ?_⟩, ⟨takes_onCell _ _, ?_, ?_, ?_⟩, takes_reset _, takes_reset _, ?_⟩
  · decide +kernel
  · unfold State.NoIdle
    decide +kernel
  · decide
  · unfold State.KeepsOpen
    decide +kernel
  · decide +kernel

theorem witness_UnitStray :
    (State.reset.TakesFrame 2 .unit ∧ (State.reset.bay.cell 2).state ≠ .running)
    ∧ (running.TakesFrame 2 .unit ∧ (running.bay.cell 2).sites.getD 0 ≤ (2#8).toNat) :=
  ⟨⟨takes_reset _, by decide +kernel⟩, takes_running _, by decide +kernel⟩

/-- Cell 2 running a sublot with one unit to go, of a lot in a state. -/
def oneToGo (state : LotState) : State :=
  withCell 2 { aCell with assignment := some { anAssignment with units := 39 } } (withLot 3 { aLot with state := state } State.reset)

theorem takes_oneToGo (v : LotState) (k : CellKind) : (oneToGo v).TakesFrame 2 k :=
  takes_of (by unfold State.Quiet; cases v <;> decide +kernel) (by cases v <;> decide +kernel) (by cases v <;> decide +kernel)

theorem witness_UnitCounted :
    ∀ v ∈ [LotState.active, .aborting],
      (oneToGo v).TakesFrame 2 .unit ∧ ((oneToGo v).bay.cell 2).state = .running
      ∧ ((oneToGo v).bay.cell 2).assignment = some { anAssignment with units := 39 }
      ∧ (1 : SiteNo).val < ((oneToGo v).bay.cell 2).sites.getD 0 ∧ 1 ≤ anAssignment.step
      ∧ ((oneToGo v).bay.lot 3).steps[anAssignment.step - 1]? = some { state := .opened, input := 100 }
      ∧ (v = .aborting ∨ ((oneToGo v).tables.profiles[(0 : Fin 64)].yieldFloor = 0
        ∧ (∀ k : BinNo, (oneToGo v).tables.profiles[(0 : Fin 64)].ceilings[k] = 10000)
        ∧ (oneToGo v).tables.profiles[(0 : Fin 64)].siteDelta = 10000
        ∧ (oneToGo v).tables.profiles[(0 : Fin 64)].runLimit = 0)) := by
  intro v hv
  refine ⟨takes_oneToGo v _, ?_⟩
  revert v
  decide +kernel

/-- Lot 3 running on cell 2 under a run limit of 1, with `n` units of its step counted. -/
def gated (n : Nat) : State :=
  let s := withLot 3 { aLot with steps := [{ state := .opened, input := 100, tested := n }] } running
  { s with tables := { s.tables with profiles := s.tables.profiles.set 0 { runLimit := 1 } } }

theorem takes_gated (n : Nat) (k : CellKind) : (gated n).TakesFrame 2 k := by
  have h := takes_running k
  have hg : running.cellClaimGranted 2 = true := by decide +kernel
  exact takes_of h.1 h.2.1 hg

theorem witness_UnitRaisesHolds :
    (∀ n ∈ [0, 16777215],
      ((gated n).bay.cell 2).state = .running ∧ ((gated n).bay.cell 2).assignment = some anAssignment
      ∧ (1 : SiteNo).val < ((gated n).bay.cell 2).sites.getD 0 ∧ ((gated n).bay.cell 2).pause = .none ∧ 1 ≤ anAssignment.step
      ∧ ((gated n).bay.lot 3).stepIndex = some anAssignment.step
      ∧ ((gated n).bay.lot 3).steps[anAssignment.step - 1]? = some { state := .opened, input := 100, tested := n }
      ∧ ((gated n).bay.lot 3).state = .active ∧ ((gated n).bay.lot 3).holds = [])
    ∧ (∀ n, (gated n).TakesFrame 2 .unit) ∧ (∀ c, (gated 0).NamedBy 3 c → c = 2)
    ∧ anAssignment.units + 1 ≠ anAssignment.qty
    ∧ (let rec' := ({ state := .opened, input := 100 } : StepRec).counted 5 false
      let a' := anAssignment.counted 1 5 false
      unitRaises ((gated 0).tables.profiles[(0 : Fin 64)]) rec' 2 2 a' 1 ≠ []) := by
  refine ⟨by decide +kernel, fun n => takes_gated n _, ?_, by decide, by decide +kernel⟩
  simp only [namedBy_iff]
  decide +kernel

/-- Cell 2 with a claim pending, its sublot counted in full in bin 1, the last of lot 3, with a record of its step. -/
def closing (state : LotState) (rec : StepRec) : State :=
  withCell 2 { aCell with claimPending := true, assignment := some { anAssignment with units := 40, bins := (Vector.replicate 16 0).set 1 40 } }
    (withLot 3
      { aLot with
        state := state, remaining := 0, steps := [rec], saved := if state = .held then some .closing else none
        holds := if state = .held then [aHold .quality] else [] }
      State.reset)

/-- The record of a step of 40 units, all tested and good. -/
def allGood : StepRec := { state := .opened, input := 40, tested := 40, good := 40 }

theorem witness_TallyClosesSublot :
    let s := withCell 2 { aCell with claimPending := true } running
    s.TakesFrame 2 .tally ∧ s.NoIdle ∧ (s.bay.cell 2).state = .running ∧ (s.bay.cell 2).assignment = some anAssignment
    ∧ anAssignment.slot = some 0 ∧ (s.bay.cell 2).claimPending = true
    ∧ (∀ b : BinNo, (Vector.replicate 16 0#24)[b].toNat ≤ anAssignment.bins[b] ∧ anAssignment.bins[b] ≤ (Vector.replicate 16 0#24)[b].toNat)
    ∧ s.KeepsOpen 3 (anAssignment.qty - anAssignment.units) := by
  refine ⟨takes_of (by unfold State.Quiet; decide +kernel) (by decide +kernel) (by decide +kernel), ?_⟩
  unfold State.NoIdle State.KeepsOpen
  decide +kernel

theorem witness_LastTallyEvaluatesStep :
    (∀ v ∈ [LotState.closing, .held], ∀ rec ∈ [allGood, { allGood with input := 41 }, { allGood with input := 39 }],
      let s := closing v rec
      s.TakesFrame 2 .tally ∧ (s.bay.cell 2).state = .running ∧ (s.bay.cell 2).assignment.map (·.slot) = some (some 0)
      ∧ (s.bay.cell 2).claimPending = true ∧ (s.bay.lot 3).state = v ∧ (s.bay.lot 3).stepIndex = some 1
      ∧ (s.bay.lot 3).route.length = 1 ∧ (s.bay.lot 3).steps[1 - 1]? = some rec ∧ (s.bay.lot 3).remaining = 0
      ∧ (s.bay.lot 3).openSublots = 1 ∧ rec.closeEvaluated = false)
    ∧ (∀ c, (closing .closing allGood).NamedBy 3 c → c = 2)
    ∧ ((closing .closing allGood).bay.lot 3).holds = [] ∧ ((closing .closing allGood).bay.lot 3).saved = none
    ∧ ((closing .held allGood).bay.lot 3).saved = some .closing
    ∧ (let p := State.reset.tables.profiles[(0 : Fin 64)];
      40 + p.lossLimit < 41 ∧ 39 < 40 ∧ ¬(40 + p.lossLimit < 40) ∧ ¬(40 < 40) ∧ p.yieldFloor = 0
        ∧ ∀ b : BinNo, p.ceilings[b] = 10000) := by
  refine ⟨?_, ?_, ?_⟩
  · unfold State.TakesFrame State.Quiet
    decide +kernel
  · simp only [namedBy_iff]
    decide +kernel
  · decide +kernel

theorem witness_StateFrames :
    (State.reset.TakesFrame 2 .state ∧ 2#8 ≠ 0#8 ∧ 2#8 ≠ 1#8 ∧ (State.reset.bay.cell 2).state = .offline)
    ∧ ((onCell .claimed).TakesFrame 2 .state ∧ ((onCell .claimed).bay.cell 2).state = .claimed)
    ∧ (running.TakesFrame 2 .state ∧ (running.bay.cell 2).state = .running)
    ∧ ((onCell .localMode).TakesFrame 2 .state ∧ ((onCell .localMode).bay.cell 2).state = .localMode)
    ∧ ((onCell .offered).TakesFrame 2 .state ∧ (onCell .offered).NoIdle ∧ (onCell .offered).KeepsOpen 3 40
      ∧ ((onCell .offered).bay.cell 2).state = .offered)
    ∧ (let s := withCell 2 { aCell with state := .loading, load := some aLoad } running;
      s.TakesFrame 2 .state ∧ s.NoIdle ∧ s.KeepsOpen 3 40 ∧ (s.bay.cell 2).state = .loading ∧ s.EndsNoRound 2) := by
  refine ⟨⟨takes_reset _, by decide, by decide, by decide +kernel⟩, ⟨takes_onCell _ _, by decide +kernel⟩,
    ⟨takes_running _, by decide +kernel⟩, ⟨takes_onCell _ _, by decide +kernel⟩, ⟨takes_onCell _ _, ?_⟩,
    takes_of (by unfold State.Quiet; decide +kernel) (by decide +kernel) (by decide +kernel), ?_⟩
  · unfold State.NoIdle State.KeepsOpen
    decide +kernel
  · unfold State.NoIdle State.KeepsOpen State.EndsNoRound
    decide +kernel

theorem witness_LoadedEndsLoad :
    (loading.TakesFrame 2 .loaded ∧ (loading.bay.cell 2).state = .loading ∧ (loading.bay.cell 2).load = some aLoad
      ∧ aLoad.place = .awaiting ∧ loading.Unlisted 2 ∧ (loading.bay.cell 2).assignment = none ∧ loading.bay.queue = []
      ∧ (loading.bay.cell 2).loadFailures = 1)
    ∧ (loading.Catalogued aLoad.image.program entry ∧ entry.revision = aLoad.image.revision)
    ∧ (let s := withCell 2 { state := .loading, load := some aLoad, assignment := some anAssignment, slots := (Vector.replicate 4 {}).set 1 { state := .loading, image := some (0x11#16, 2#8) } } loading;
      s.TakesFrame 2 .loaded ∧ (s.bay.cell 2).slots[aLoad.slot].image = some (aLoad.image.program, aLoad.image.revision))
    ∧ (let s := withCell 2 { state := .loading, load := some aLoad } State.reset;
      s.TakesFrame 2 .loaded ∧ (s.bay.cell 2).loadFailures = 0
        ∧ ∀ (j : Fin 128) (e : CatalogueEntry), s.tables.catalogue[j] = some e →
          e.program ≠ aLoad.image.program ∨ e.revision ≠ aLoad.image.revision) := by
  refine ⟨⟨takes_loading _, ?_⟩, ⟨catalogued_of rfl, rfl⟩,
    ⟨takes_of (by unfold State.Quiet; decide +kernel) (by decide +kernel) (by decide +kernel), by decide +kernel⟩,
    takes_of (by unfold State.Quiet; decide +kernel) (by decide +kernel) (by decide +kernel), by decide +kernel,
    fun j e h => .inl (uncatalogued j e h)⟩
  unfold State.Unlisted
  decide +kernel

theorem witness_RefusedFramesAndSegmentStrays :
    (State.reset.Quiet ∧ State.reset.link.ports[(31 : CellNo)].up = true ∧ State.reset.link.uplinkUp = true)
    ∧ (State.reset.TakesUplink ∧ ([] : List Byte).length ≤ 1024 ∧ 8 ≤ (8#8).toNat)
    ∧ ((7 : ChanNo).val = (7#8).toNat ∧ (State.reset.bay.chan 7).pull = none)
    ∧ (let s := withChan 7 { aChannel with state := .draining } State.reset;
      s.TakesUplink ∧ (s.bay.chan 7).image = some image ∧ image.program ≠ 0x12#16 ∧ (s.bay.chan 7).state = .draining
        ∧ ((s.bay.chan 7).pull.map (fun p => decide ((1#16).toNat ≠ p.first + p.arrived))) = some true) := by
  unfold State.TakesUplink State.Quiet
  decide +kernel

/-! ### Witnesses: frames from the floor server -/

/-- Channel 1 with its pull in a condition. -/
def pulling (state : ChannelState) (arrived : Nat) : State :=
  withCell 2 { state := .loading, load := some aLoad, loadFailures := 1 }
    (withChan 1 { aChannel with state := state, pull := some { first := 0, n := 2, arrived := arrived, deadline := 500 } } State.reset)

theorem witness_SegmentTakenOrChannelFaulted :
    (∀ v ∈ [ChannelState.pulling, .draining], ∀ n ∈ [0, 1],
      (pulling v n).TakesUplink ∧ ((pulling v n).bay.chan 1).image = some image
        ∧ ((pulling v n).bay.chan 1).pull = some { first := 0, n := 2, arrived := n, deadline := 500 }
        ∧ (BitVec.ofNat 16 n).toNat = 0 + n ∧ ((pulling v n).bay.chan 1).state = v)
    ∧ ([1#8] ≠ [] ∧ [1#8].length ≤ 1024) ∧ (0 + 1 < 2 ∧ 1 + 1 = 2)
    ∧ (let s := pulling .pulling 0;
      (s.bay.chan 1).targets = [{ cell := 2, slot := 1 }] ∧ (5#16).toNat ≠ 0 + 0 ∧ (s.bay.chan 1).state ≠ .draining
        ∧ (s.bay.chan 1).nextRound = [] ∧ s.bay.waitQueue = [] ∧ (s.bay.cell 2).load = some aLoad
        ∧ (s.bay.cell 2).assignment = none ∧ (s.bay.cell 2).loadFailures = 1
        ∧ ∀ k', k' ≠ 1 → (∀ x ∈ (s.bay.chan k').targets, x.cell ≠ 2) ∧ ∀ e ∈ (s.bay.chan k').nextRound, e.1 ≠ 2) := by
  unfold State.TakesUplink State.Quiet
  refine ⟨?_, ?_, ?_, ?_⟩ <;> decide +kernel

theorem witness_ThroughFrames :
    (State.reset.TakesUplink ∧ 0x77#8 ≠ 0x20#8 ∧ 0x77#8 ≠ 0x21#8 ∧ State.reset.part.station.toNat ≤ 65408
      ∧ 1 ≤ State.reset.part.station.toNat ∧ 129 ≤ State.reset.free
      ∧ (∀ c : CellNo, State.reset.link.ports[c].up = true ∧ State.reset.link.ports[c].downlink.length ≤ 6)
      ∧ 0xC0#16 = State.reset.part.station + BitVec.ofNat 16 (1 + (63 : Fin 64).val)
      ∧ 0xE4#16 = State.reset.part.station + BitVec.ofNat 16 (100 + (0 : Fin 4).val)
      ∧ State.reset.tables.groups[(0 : Fin 4)].inUse = false)
    ∧ (let s := { State.reset with tables := { State.reset.tables with groups := State.reset.tables.groups.set 0 { inUse := true } } };
      s.TakesUplink ∧ s.tables.groups[(0 : Fin 4)].inUse = true)
    ∧ (let s := withPort 31 { up := false } State.reset;
      s.TakesUplink ∧ s.link.ports[(31 : CellNo)].up = false ∧ (31 : CellNo).val = (63 : Fin 64).val / 2) := by
  unfold State.TakesUplink State.Quiet
  decide +kernel

/-- For ThroughFrames: destinations of Table 9-1's gaps, beside P, the cell and the group stations (P is 0x0080). -/
theorem witness_ThroughFrames_unserved :
    State.reset.part.station = 0x80#16
    ∧ ∀ dst ∈ [0xC1#16, 0xE3#16, 0xE8#16, 0x7F#16],
      (∀ j : Fin 64, dst ≠ 0x80#16 + BitVec.ofNat 16 (1 + j.val)) ∧ (∀ g : Fin 4, dst ≠ 0x80#16 + BitVec.ofNat 16 (100 + g.val))
        ∧ dst ≠ 0xFFFF#16 ∧ dst ≠ 0x80#16 ∧ dst ≠ 0x0000#16 := by
  refine ⟨by decide +kernel, fun dst h => ?_⟩
  refine ⟨fun j => ?_, fun g => ?_, ?_⟩
  · have := j.isLt
    simp only [List.mem_cons, List.not_mem_nil, or_false] at h
    obtain rfl | rfl | rfl | rfl := h <;> bv_omega
  · have := g.isLt
    simp only [List.mem_cons, List.not_mem_nil, or_false] at h
    obtain rfl | rfl | rfl | rfl := h <;> bv_omega
  · simp only [List.mem_cons, List.not_mem_nil, or_false] at h
    obtain rfl | rfl | rfl | rfl := h <;> exact ⟨by decide, by decide, by decide⟩

/-! ### Witnesses: lines, expiries, sendings -/

theorem witness_CellLineLoss :
    (State.reset.Quiet ∧ (State.reset.bay.cell 2).state = .offline)
    ∧ ((onCell .faulted).Quiet ∧ ((onCell .faulted).bay.cell 2).state = .faulted)
    ∧ ((onCell .offered).Quiet ∧ ((onCell .offered).bay.cell 2).assignment = some anAssignment
      ∧ ((onCell .offered).bay.cell 2).state = .offered ∧ (onCell .offered).NoIdle ∧ (onCell .offered).KeepsOpen 3 40)
    ∧ (running.Quiet ∧ (running.bay.cell 2).state = .running ∧ (running.bay.lot 3).state = .active
      ∧ (running.bay.lot 3).holds = [])
    ∧ ∀ c', running.NamedBy 3 c' → c' = 2 := by
  refine ⟨?_, ?_, ?_, ?_, named_running⟩ <;> (unfold State.Quiet; try unfold State.NoIdle State.KeepsOpen) <;> decide +kernel

theorem witness_LineRecoveryAndUplinkLoss :
    (let s := withPort 2 { up := false } State.reset;
      s.Quiet ∧ s.link.ports[(2 : CellNo)].up = false)
    ∧ (let s := { State.reset with link := { State.reset.link with uplinkUp := false } };
      s.Quiet ∧ s.link.uplinkUp = false ∧ isRequest (.partRead 1#16) = true) := by
  unfold State.Quiet
  decide +kernel

theorem witness_ExpiriesNotDue :
    (let s := withCell 2 { aCell with offerDeadline := some 1 } State.reset;
      s.Quiet ∧ ∀ c d, (s.bay.cell c).offerDeadline = some d → s.part.clock < d)
    ∧ (let s := withCell 2 { aCell with stallDeadline := some 1 } State.reset;
      s.Quiet ∧ ∀ c d, (s.bay.cell c).stallDeadline = some d → s.part.clock < d)
    ∧ (let s := withLot 3 { aLot with ageDeadline := some 1 } State.reset;
      s.Quiet ∧ ∀ h d, (s.bay.lot h).ageDeadline = some d → s.part.clock < d)
    ∧ (let s := withChan 1 aChannel State.reset;
      s.Quiet ∧ ∀ k p, (s.bay.chan k).pull = some p → s.part.clock < p.deadline)
    ∧ (loading.Quiet ∧ ∀ c ld, (loading.bay.cell c).load = some ld → ∀ d, ld.deadline = some d → loading.part.clock < d)
    ∧ ((complete 1).Quiet ∧ ∀ h d, (complete 1 |>.bay.lot h).quarantine = some d → (complete 1).part.clock < d) := by
  refine ⟨⟨?_, ?_⟩, ⟨?_, ?_⟩, ⟨?_, ?_⟩, ⟨?_, ?_⟩, ⟨?_, ?_⟩, ⟨?_, ?_⟩⟩
  all_goals try (unfold State.Quiet; decide +kernel)
  · exact all_some (f := fun c => ((withCell 2 { aCell with offerDeadline := some 1 } State.reset).bay.cell c).offerDeadline)
      (p := fun _ d => 0 < d) (by decide +kernel)
  · exact all_some (f := fun c => ((withCell 2 { aCell with stallDeadline := some 1 } State.reset).bay.cell c).stallDeadline)
      (p := fun _ d => 0 < d) (by decide +kernel)
  · exact all_some (f := fun h => ((withLot 3 { aLot with ageDeadline := some 1 } State.reset).bay.lot h).ageDeadline)
      (p := fun _ d => 0 < d) (by decide +kernel)
  · exact all_some (f := fun k => ((withChan 1 aChannel State.reset).bay.chan k).pull) (p := fun _ p => 0 < p.deadline)
      (by decide +kernel)
  · intro c ld h d hd
    have := all_some (f := fun c => (loading.bay.cell c).load) (p := fun _ ld => ld.deadline.all (fun d => decide (0 < d)) = true)
      (by decide +kernel) c ld h
    rw [hd] at this
    exact (of_decide_eq_true (by simpa using this) : 0 < d)
  · exact all_some (f := fun h => (complete 1 |>.bay.lot h).quarantine) (p := fun _ d => 0 < d) (by decide +kernel)

theorem witness_OfferAndStallExpiries :
    (let s := withCell 2 { aCell with state := .offered, offerDeadline := some 0 } (withLot 3 aLot State.reset);
      s.Quiet ∧ 0 ≤ s.part.clock ∧ (s.bay.cell 2).offerDeadline = some 0 ∧ (s.bay.cell 2).assignment = some anAssignment
        ∧ s.NoIdle ∧ s.KeepsOpen 3 40)
    ∧ (∀ c' d', ((withCell 2 { aCell with state := .offered, offerDeadline := some 0 } (withLot 3 aLot State.reset)).bay.cell c').offerDeadline
        = some d' → (0 : Nat) < d' ∨ ((0 : Nat) = d' ∧ (2 : CellNo) ≤ c'))
    ∧ (∀ v : Bool,
      let s := withCell 2 { aCell with stallDeadline := some 0, stalled := v } State.reset
      s.Quiet ∧ (s.bay.cell 2).stallDeadline = some 0 ∧ (s.bay.cell 2).state = .running ∧ (s.bay.cell 2).stalled = v) := by
  refine ⟨?_, all_some (f := fun c =>
    ((withCell 2 { aCell with state := .offered, offerDeadline := some 0 } (withLot 3 aLot State.reset)).bay.cell c).offerDeadline)
    (p := fun c d => (0 : Nat) < d ∨ ((0 : Nat) = d ∧ (2 : CellNo) ≤ c)) (by decide +kernel), ?_⟩
  · unfold State.Quiet State.NoIdle State.KeepsOpen
    decide +kernel
  · unfold State.Quiet
    decide +kernel

/-- Lot 3 queued with an age deadline at the clock. -/
def aged : State := withQueue [3] (withLot 3 { aLot with ageDeadline := some 0 } State.reset)

/-- A COMPLETE lot whose quarantine ends at the clock. -/
def quarantined (n : Nat) : State := withLot 3 { aLot with state := .complete, carried := n, quarantine := some 0 } State.reset

theorem witness_AgeAndQuarantineExpiries :
    (aged.Quiet ∧ 0 ≤ aged.part.clock ∧ (aged.bay.lot 3).ageDeadline = some 0 ∧ (aged.bay.lot 3).cls = .normal
      ∧ (3 : LotNo) ∈ aged.bay.queue ∧ aged.NoIdle)
    ∧ (∀ h' d', (aged.bay.lot h').ageDeadline = some d' → (0 : Nat) < d' ∨ ((0 : Nat) = d' ∧ (3 : LotNo) ≤ h'))
    ∧ (∀ n ∈ [0, 1], (quarantined n).Quiet ∧ ((quarantined n).bay.lot 3).quarantine = some 0
      ∧ ((quarantined n).bay.lot 3).state = .complete ∧ ((quarantined n).bay.lot 3).quarantineSpent = false
      ∧ ((quarantined n).bay.lot 3).carried = n)
    ∧ (∀ h' d', ((quarantined 1).bay.lot h').quarantine = some d' → (0 : Nat) < d' ∨ ((0 : Nat) = d' ∧ (3 : LotNo) ≤ h')) := by
  refine ⟨?_, all_some (f := fun h => (aged.bay.lot h).ageDeadline)
    (p := fun h d => (0 : Nat) < d ∨ ((0 : Nat) = d ∧ (3 : LotNo) ≤ h)) (by decide +kernel), ?_,
    all_some (f := fun h => ((quarantined 1).bay.lot h).quarantine)
      (p := fun h d => (0 : Nat) < d ∨ ((0 : Nat) = d ∧ (3 : LotNo) ≤ h)) (by decide +kernel)⟩
  · unfold State.Quiet State.NoIdle
    decide +kernel
  · unfold State.Quiet
    decide +kernel

theorem witness_LoadAndPullExpiries :
    (let s := atClock 500 loading;
      s.Quiet ∧ 500 ≤ s.part.clock ∧ s.bay.waitQueue = [] ∧ (s.bay.cell 2).load = some aLoad ∧ (s.bay.cell 2).assignment = none
        ∧ (s.bay.cell 2).loadFailures = 1 ∧ aLoad.deadline = some 500 ∧ s.Unlisted 2)
    ∧ (∀ c' x, (loading.bay.cell c').load = some x → ∀ d', x.deadline = some d' → (500 : Nat) < d' ∨ ((500 : Nat) = d' ∧ (2 : CellNo) ≤ c'))
    ∧ (∀ v ∈ [ChannelState.pulling, .draining],
      let s := atClock 500 (pulling v 0)
      s.Quiet ∧ (s.bay.chan 1).pull = some { first := 0, n := 2, arrived := 0, deadline := 500 } ∧ (s.bay.chan 1).nextRound = []
        ∧ (s.bay.chan 1).targets = [{ cell := 2, slot := 1 }] ∧ (s.bay.chan 1).state = v)
    ∧ (∀ k' p', ((pulling .pulling 0).bay.chan k').pull = some p' →
        (500 : Nat) < p'.deadline ∨ ((500 : Nat) = p'.deadline ∧ (1 : ChanNo) ≤ k')) := by
  refine ⟨?_, fun c x h d hd => ?_, ?_, all_some (f := fun k => ((pulling .pulling 0).bay.chan k).pull)
    (p := fun k p => (500 : Nat) < p.deadline ∨ ((500 : Nat) = p.deadline ∧ (1 : ChanNo) ≤ k)) (by decide +kernel)⟩
  · unfold State.Quiet State.Unlisted
    decide +kernel
  · have := all_some (f := fun c => (loading.bay.cell c).load)
      (p := fun c x => x.deadline.all (fun d => decide ((500 : Nat) < d ∨ ((500 : Nat) = d ∧ (2 : CellNo) ≤ c))) = true)
      (by decide +kernel) c x h
    rw [hd] at this
    exact of_decide_eq_true (by simpa using this)
  · unfold State.Quiet
    decide +kernel

/-- A copy of segment 0 of channel 1 that cell port 2 sends. -/
def aCopy (live : Bool) : SegmentCopy := { chan := 1, number := 0, frame := ⟨0, 0, 0x21#8, 0, [], []⟩, live := live }

/-- Cell port 2 sends that copy; the channel's targets stand at positions. -/
def sending (live : Bool) (targets : List Target) : State :=
  withPort 2 { tx := { segment := some (aCopy live), copy := true } }
    (withCell 2 { state := .loading, load := some { aLoad with place := .target, deadline := none } }
      (withChan 1 { aChannel with targets := targets, base := 1 } State.reset))

theorem witness_SendingsEnd :
    (State.reset.Quiet ∧ State.reset.link.uplinkUp = true ∧ State.reset.link.ports[(2 : CellNo)].tx.copy = false)
    ∧ (let s := { State.reset with link := { State.reset.link with uplinkUp := false } };
      s.Quiet ∧ s.link.uplinkUp = false)
    ∧ (∀ v : Bool, (sending v []).Quiet ∧ (sending v []).link.ports[(2 : CellNo)].tx.segment = some (aCopy v)
      ∧ (sending v []).link.ports[(2 : CellNo)].tx.copy = true ∧ (aCopy v).live = v)
    ∧ (let s := sending true [{ cell := 3, slot := 0, pos := 0 }];
      let moved := (s.bay.chan 1).targets.map fun t => if t.cell = 2 then { t with pos := t.pos + 1 } else t
      s.Quiet ∧ moved ≠ [] ∧ ∀ t ∈ moved, t.cell = 2 → t.pos ≠ (s.bay.chan 1).base)
    ∧ (let s := sending true [{ cell := 2, slot := 1, pos := 0 }, { cell := 3, slot := 0, pos := 0 }];
      let moved := (s.bay.chan 1).targets.map fun t => if t.cell = 2 then { t with pos := t.pos + 1 } else t
      s.Quiet ∧ (∃ t ∈ moved, t.cell = 2 ∧ t.pos = (s.bay.chan 1).base) ∧ (∃ t ∈ moved, t.cell ≠ 2)
        ∧ (s.bay.cell 2).load = some { aLoad with place := .target, deadline := none }) := by
  unfold State.Quiet
  decide +kernel

/-- Cell 2 with one command queued. -/
def commanded (k : Command) : State := withCell 2 { commands := [k] } State.reset

theorem witness_CommandSendingBegins :
    (State.reset.Quiet ∧ (State.reset.bay.cell 2).commands = [])
    ∧ (let s := withPort 2 { up := false } State.reset;
      s.Quiet ∧ s.link.ports[(2 : CellNo)].up = false)
    ∧ (∀ k : Command, (commanded k).Quiet ∧ ((commanded k).bay.cell 2).commands = [k]
      ∧ (commanded k).link.ports[(2 : CellNo)].up = true
      ∧ ((commanded k).link.ports[(2 : CellNo)].tx.segment = none ∧ (commanded k).link.ports[(2 : CellNo)].tx.copy = false))
    ∧ ∀ x ∈ [(7#16, some (3 : LotNo)), (8#16, some 3)], x.2 = some (3 : LotNo) := by
  have hr : State.reset.Quiet := by
    unfold State.Quiet
    decide +kernel
  have hp : State.reset.link.ports[(2 : CellNo)] = {} := by decide +kernel
  have hl : ∀ k, (commanded k).link = State.reset.link := fun _ => rfl
  refine ⟨⟨hr, by decide +kernel⟩, ?_, fun k => ⟨hr, ?_, by rw [hl, hp], by rw [hl, hp]; exact ⟨rfl, rfl⟩⟩, ?_⟩
  · unfold State.Quiet
    decide +kernel
  · simp [commanded, withCell, Bay.setCell]
  · simp

theorem witness_NoticesBuilt :
    (∀ n ∈ [Notice.lotState 3, .cellState 2, .release 3],
      let s := { State.reset with bay := { State.reset.bay with notices := [n] } }
      s.Quiet ∧ s.bay.notices = [n] ∧ 1 ≤ s.free ∧ ∀ e ∈ s.link.uplink, e.origin ≠ n.origin)
    ∧ (let r : ReleaseRecord := { number := 1, lot := 3, name := [], shipped := 5, time := 0, steps := [] };
      ((withLot 3 { aLot with state := .released, release := some r } State.reset).bay.lot 3).release = some r) := by
  unfold State.Quiet
  decide +kernel

theorem witness_PlacementInQueues :
    (∃ o, Command.offer o ∈ [Command.offer { id := 7#16, lot := 3, step := 1, qty := 40, program := 1#16, revision := 1#8, slot := 0, temp := .hot }] ∧ o.id = 7#16)
    ∧ (∀ o, Command.offer o ∈ [Command.restart] → o.id ≠ 7#16) ∧ (∀ ids, Command.withdraw ids ∉ [Command.restart])
    ∧ (let ids : List (Half × Option LotNo) := (List.range 8).map fun n => (BitVec.ofNat 16 (n + 1), none);
      ids.length = 8 ∧ 9#16 ∉ ids.map (·.1) ∧ 8#16 ∈ ids.map (·.1) ∧ (ids.take 7).length < 8 ∧ 8#16 ∉ (ids.take 7).map (·.1)) := by
  refine ⟨⟨_, List.mem_singleton.2 rfl, rfl⟩, by simp, by simp, by decide⟩

/-- A channel that waits for a grant, or keeps its slot between pulls of a WHOLE image. -/
def waitingChannel (held : Bool) : State :=
  withChan 1
    { state := .pulling, image := some image, base := 3, current := 1, targets := [{ cell := 2, slot := 1 }], slotHeld := held
      modeInForce := if held then .whole else .burst }
    { State.reset with tables := { State.reset.tables with settings := { pullLimit := 1 } } }

theorem witness_PullsGrantedAndReissued :
    (∀ v : Bool, (waitingChannel v).Quiet ∧ ((waitingChannel v).bay.chan 1).image = some image
      ∧ 1 ≤ min 8 (min ((waitingChannel v).bay.chan 1).current ((waitingChannel v).free - 512))
      ∧ ((waitingChannel v).bay.chan 1).state = .pulling ∧ 0 < ((waitingChannel v).bay.chan 1).current
      ∧ ((waitingChannel v).bay.chan 1).pull = none ∧ ((waitingChannel v).bay.chan 1).slotHeld = v
      ∧ (waitingChannel v).tables.settings.creditWindow = 8 ∧ (waitingChannel v).tables.settings.loadWatermark = 512)
    ∧ (waitingChannel false).bay.channels.toList.countP (·.slotHeld) < (waitingChannel false).tables.settings.pullLimit
    ∧ ((waitingChannel false).bay.chan 1).modeInForce ≠ .paced
    ∧ (∀ j : ChanNo, ((waitingChannel false).bay.chan j).state ≠ .idle → (1 : Nat) ≤ j.val)
    ∧ ((waitingChannel true).bay.chan 1).modeInForce = .whole
    ∧ (waitingChannel true).tables.settings.pullLimit ≤ (waitingChannel true).bay.channels.toList.countP (·.slotHeld)
    ∧ (∀ j : ChanNo, j < 1 → ((waitingChannel true).bay.chan j).state ≠ .pulling) := by
  unfold State.Quiet
  decide +kernel

theorem witness_HeldOffPortServed :
    State.reset.Quiet
    ∧ (let s := withPort 2 { waiting := [.frame .tester 0xFFFF#16 (.take 7#16)] } State.reset;
      s.link.held = [] ∧ s.link.ports[(2 : CellNo)].waiting = [.frame .tester 0xFFFF#16 (.take 7#16)]
        ∧ (∀ c' : CellNo, c' ≠ 2 → s.link.ports[c'].waiting = []) ∧ s.forwarding .take = .forward ∧ 64 < s.free
        ∧ s.share 2 < s.tables.settings.cellShareLimit ∧ s.bay.notices = [] ∧ ∀ k : ChanNo, (s.bay.chan k).state = .idle) := by
  unfold State.Quiet
  decide +kernel

/-! ### Witnesses: cases of loads, offers, holds and reads -/

theorem witness_ChannelSettingsWrite_taking :
    let s : State := withCell 3 { load := some { aLoad with place := .waiting } } (withCell 2 { load := some { aLoad with place := .waiting } } State.reset)
    let s := { s with bay := { s.bay with waitQueue := [2, 3] } }
    s.TakesRequests ∧ s.bay.waitQueue = [2, 3] ∧ s.bay.waitQueue.Nodup ∧ (s.bay.chan 7).state = .idle ∧ 1#8 ≠ 0#8
      ∧ (s.bay.cell 2).load = some { aLoad with place := .waiting } := by
  unfold State.TakesRequests State.Quiet
  decide +kernel

theorem witness_ReadsAnswerAndChangeNothing :
    (let l : LotRec := { aLot with holds := [aHold .quality], release := some { number := 1, lot := 3, name := [], shipped := 5, time := 0, steps := [] } };
      l.steps[(0 : Fin 6).val]? = some { state := .opened, input := 100 } ∧ l.holds[(0 : Fin 8).val]? = some (aHold .quality)
        ∧ l.release.isSome = true)
    ∧ (running.bay.cell 2).assignment = some anAssignment ∧ (State.reset.bay.cell 2).assignment = none := by
  decide +kernel

/-- A DEFINED lot of 100 units, cell 2 IDLE with its program in slot 1. -/
def startable : State :=
  withSlot 1 .resident (withCell 2 { state := .idle, kit := 5#8, temp := some .cold, sites := some 1 } (withEntry entry defined))

theorem witness_LotStartOpensStepOne_cut :
    startable.TakesRequests ∧ startable.Catalogued testStep.program entry ∧ startable.RotationLaw
    ∧ ((startable.bay.cell 2).state = .idle ∧ (startable.bay.cell 2).localPending = false ∧ testStep.kit ≠ 0#8
      ∧ (startable.bay.cell 2).kit = testStep.kit ∧ (startable.bay.cell 2).temp = some testStep.temp
      ∧ testStep.minSites ≤ (startable.bay.cell 2).sites.getD 0 ∧ (startable.bay.cell 2).excluded ≠ some 3
      ∧ 0 < startable.tables.profiles[testStep.profile].spread
      ∧ (startable.bay.cell 2).slots[(1 : SlotNo)].state = .resident
      ∧ (startable.bay.cell 2).slots[(1 : SlotNo)].image = some (entry.program, entry.revision)
      ∧ (∀ j : SlotNo, j < 1 → ¬((startable.bay.cell 2).slots[j].state = .resident
          ∧ (startable.bay.cell 2).slots[j].image = some (entry.program, entry.revision)))
      ∧ startable.bay.nextSublot ≠ 0#16 ∧ ∀ c' : CellNo, c' ≠ 2 → (startable.bay.cell c').state ≠ .idle)
    ∧ ∀ c' a, (startable.bay.cell c').assignment = some a → a.id ≠ startable.bay.nextSublot := by
  refine ⟨?_, catalogued_of rfl, List.Perm.refl _, by decide +kernel,
    all_some (f := fun c => (startable.bay.cell c).assignment) (by decide +kernel)⟩
  unfold State.TakesRequests State.Quiet
  decide +kernel

theorem witness_HoldSet_withdraws :
    (∀ v ∈ [CellState.offered, .loading],
      let s := withQueue [3] (onCell v)
      s.TakesRequests ∧ (s.bay.lot 3).state = .active ∧ (s.bay.lot 3).holds = [] ∧ (s.bay.cell 2).assignment = some anAssignment
        ∧ (∀ h' ∈ s.bay.queue, h' = 3) ∧ (s.bay.cell 2).state = v)
    ∧ (∀ c, (onCell .offered).NamedBy 3 c → c = 2) ∧ ∀ c, (onCell .loading).NamedBy 3 c → c = 2 := by
  refine ⟨?_, named_onCell _, named_onCell _⟩
  unfold State.TakesRequests State.Quiet
  decide +kernel

theorem witness_HoldReleaseLastRestores_waiving :
    (1#8).toNat ≤ 1 ∧ HoldKind.yield ∈ [HoldKind.yield, .bin, .site, .run]
    ∧ ∀ v ∈ [SavedState.active, .closing],
      (held v [aHold .yield]).TakesRequests ∧ ((held v [aHold .yield]).bay.lot 3).holds = [aHold .yield]
        ∧ ((held v [aHold .yield]).bay.lot 3).saved = some v ∧ ((held v [aHold .yield]).bay.lot 3).saved ≠ some .complete := by
  unfold State.TakesRequests State.Quiet
  decide +kernel

/-- A lot held at an evaluated close of a TEST step of 100 units, `good` good and 5 in a retest bin, before another step. -/
def heldBefore (next : RouteStep) (good : Nat) : State :=
  let s :=
    withLot 3
      { aLot with
        state := .held, saved := some .closing, holds := [aHold .run], remaining := 0, openSublots := 0, route := [testStep, next]
        steps :=
          [{ state := .opened, input := 100, tested := 100, good := good, bins := (Vector.replicate 16 0).set 5 5, closeEvaluated := true }, {}] }
      State.reset
  withEntry entry { s with tables := { s.tables with profiles := s.tables.profiles.set 0 { retestBins := 32#16 } } }

/-- A step that tests again. -/
def retestStep : RouteStep := { testStep with kind := .retest }

theorem witness_HeldCloseAdvances_cases :
    (∀ next ∈ [retestStep, testStep, { testStep with program := 0x12#16 }], ∀ good ∈ [95, 0],
      let s := heldBefore next good
      s.TakesRequests ∧ (s.bay.lot 3).state = .held ∧ (s.bay.lot 3).holds = [aHold .run] ∧ (s.bay.lot 3).saved = some .closing
        ∧ (s.bay.lot 3).stepIndex = some (0 + 1) ∧ (s.bay.lot 3).route[0]? = some testStep
        ∧ (s.bay.lot 3).route[0 + 1]? = some next ∧ (s.bay.lot 3).steps[0 + 1]? = some ({} : StepRec)
        ∧ (s.bay.lot 3).route.length = 0 + 2 ∧ ((s.bay.lot 3).steps[0]?.map (·.closeEvaluated)) = some true ∧ s.NoIdle)
    ∧ (let p := (heldBefore retestStep 95).tables.profiles[testStep.profile]
      let bins : Vector Nat 16 := (Vector.replicate 16 0).set 5 5
      (((List.finRange 16).filter fun b => p.retestBins.getLsbD b.val && !p.goodBins.getLsbD b.val).map fun b => bins[b]).sum = 5
        ∧ 0 < min 5 (100 - 95) ∧ min 0 100 = 0)
    ∧ (heldBefore retestStep 95).Catalogued retestStep.program entry
    ∧ ∀ (j : Fin 128) (e : CatalogueEntry), (heldBefore { testStep with program := 0x12#16 } 95).tables.catalogue[j] = some e →
        e.program ≠ 0x12#16 := by
  refine ⟨?_, by decide +kernel, catalogued_of rfl, fun j e h => ?_⟩
  · unfold State.TakesRequests State.Quiet State.NoIdle
    decide +kernel
  · exact all_some (f := fun j : Fin 128 => (heldBefore { testStep with program := 0x12#16 } 95).tables.catalogue[j])
      (p := fun _ e => e.program ≠ 0x12#16) (by decide +kernel) j e h

/-- Cell 2 loading into slot 1 at a place, for lot 3 or without an assignment, with failures behind it. -/
def loadingFor (place : LoadPlace) (a : Option Assignment) (failures : Nat) : State :=
  withEntry entry
    (withCell 2
      { state := .loading, temp := some .cold, sites := some 2, assignment := a, loadFailures := failures
        slots := (Vector.replicate 4 {}).set 1 { state := .loading, image := some (0x11#16, 2#8) }
        load := some { aLoad with place := place } }
      (withLot 3 aLot State.reset))

/-- For CellClaim, StateFrames and CellLineLoss: a load that leaves its channel, with an outstanding pull or without. -/
theorem witness_loads_leave :
    ∀ a ∈ [none, some anAssignment], ∀ ch ∈ [aChannel, { aChannel with pull := none }, { aChannel with state := .idle, targets := [] }],
      let s := withChan 1 ch (loadingFor .target a 0)
      s.TakesRequests ∧ s.TakesFrame 2 .state ∧ (s.bay.cell 2).state = .loading
        ∧ (s.bay.cell 2).load = some { aLoad with place := .target } ∧ (s.bay.cell 2).assignment = a ∧ s.NoIdle ∧ s.KeepsOpen 3 40
        ∧ s.EndsNoRound 2 := by
  unfold State.TakesRequests State.TakesFrame State.Quiet State.NoIdle State.KeepsOpen State.EndsNoRound
  decide +kernel

/-- Cell 2 OFFERED a sublot of lot 3, its handler since READY with another kit, its slot holding the program. -/
def misfit : State := withSlot 0 .resident (withCell 2 { aCell with state := .offered, kit := 6#8 } (onCell .offered))

theorem witness_TesterFrames_cases :
    (let s := misfit;
      s.TakesFrame 2 .tstate ∧ (s.bay.cell 2).state = .offered ∧ (s.bay.cell 2).slots[(0 : SlotNo)].state = .resident
        ∧ (s.bay.cell 2).assignment = some anAssignment ∧ (s.bay.cell 2).slots[(0 : SlotNo)].image = some (0x11#16, 2#8)
        ∧ s.NoIdle ∧ s.KeepsOpen 3 40)
    ∧ misfit.FitsNone 2 (3 :: misfit.bay.queue)
    ∧ (∀ v ∈ [LoadPlace.target, .awaiting],
      let s := loadingFor v none 1
      s.TakesFrame 2 .tstate ∧ (s.bay.cell 2).state = .loading ∧ (s.bay.cell 2).load = some { aLoad with place := v }
        ∧ (s.bay.cell 2).assignment = none ∧ (s.bay.cell 2).loadFailures = 1 ∧ (s.bay.cell 2).slots[(1 : SlotNo)].state = .loading
        ∧ s.EndsNoRound 2)
    ∧ (∀ v ∈ [LoadPlace.waiting, .nextRound],
      (loadingFor v none 1).TakesFrame 2 .tstate ∧ ((loadingFor v none 1).bay.cell 2).slots[(1 : SlotNo)].state = .loading
        ∧ ((loadingFor v none 1).bay.cell 2).load = some { aLoad with place := v }) := by
  refine ⟨?_, fun h' hh => ?_, ?_, ?_⟩
  · unfold State.TakesFrame State.Quiet State.NoIdle State.KeepsOpen
    decide +kernel
  · have hn : misfit.bay.queue = [] := rfl
    rw [hn, List.mem_singleton] at hh
    subst hh
    exact .inr (.inl (by decide +kernel))
  · unfold State.TakesFrame State.Quiet State.EndsNoRound
    decide +kernel
  · unfold State.TakesFrame State.Quiet
    decide +kernel

/-- Lot 3 queued EXPEDITED, cell 2 with its program resident or with empty slots. -/
def matchingExpedited (resident : Bool) : State :=
  let s := withLot 3 { aLot with openSublots := 0, cls := .expedited } matching
  if resident then s else withCell 2 { state := .notReady } s

theorem witness_ReadyCutsAndOffers_cases :
    (∀ v : Bool,
      let s := matchingExpedited v
      s.TakesFrame 2 .ready ∧ (TempClass.hot, 2#8) ∈ [(TempClass.cold, 0#8), (.room, 1#8), (.hot, 2#8)]
        ∧ (s.bay.lot 3).cls = .expedited ∧ s.bay.queue = [3] ∧ (s.bay.lot 3).state = .active ∧ (s.bay.cell 2).state = .notReady
        ∧ (s.bay.cell 2).localPending = false ∧ (s.bay.cell 2).excluded ≠ some 3
        ∧ (s.bay.lot 3).routeStep ((s.bay.lot 3).stepIndex.getD 0) = testStep ∧ testStep.kit ≠ 0#8 ∧ 1#8 ≠ 0#8
        ∧ testStep.minSites ≤ min (1#8).toNat 8 ∧ (s.bay.lot 3).openSublots < s.tables.profiles[testStep.profile].spread
        ∧ s.bay.nextSublot ≠ 0#16 ∧ 0 < (s.bay.lot 3).remaining
        ∧ (v = true → (s.bay.cell 2).slots[(1 : SlotNo)].state = .resident
          ∧ (s.bay.cell 2).slots[(1 : SlotNo)].image = some (entry.program, entry.revision)
          ∧ (s.bay.cell 2).slots[(0 : SlotNo)].state = .empty)
        ∧ (v = false → ∀ k : SlotNo, (s.bay.cell 2).slots[k].state = .empty))
    ∧ (∀ v : Bool, (matchingExpedited v).Catalogued testStep.program entry)
    ∧ (∀ v : Bool, ∀ c, ((matchingExpedited v).bay.cell c).assignment = none)
    ∧ ({ state := .idle } : CellRec).Victim entry.program entry.revision 0 := by
  refine ⟨?_, fun v => by cases v <;> exact catalogued_of rfl, by decide +kernel,
    .inr ⟨by decide +kernel, .inl ⟨by decide +kernel, by decide +kernel⟩⟩⟩
  unfold State.TakesFrame State.Quiet
  decide +kernel

theorem witness_OfferReplies_late :
    (running.TakesFrame 5 .take ∧ running.TakesFrame 5 .decline ∧ (running.bay.cell 5).state ≠ .offered
      ∧ (running.bay.cell 5).state ≠ .running ∧ (running.bay.cell 2).assignment = some anAssignment ∧ anAssignment.id = 7#16)
    ∧ (∀ c' a, (running.bay.cell c').assignment = some a → a.id = 7#16 → some (3 : LotNo) = some a.lot)
    ∧ (∀ c' a, (running.bay.cell c').assignment = some a → a.id = 8#16 → none = some a.lot) := by
  refine ⟨?_, all_some (f := fun c => (running.bay.cell c).assignment) (p := fun _ a => a.id = 7#16 → some (3 : LotNo) = some a.lot)
    (by decide +kernel), all_some (f := fun c => (running.bay.cell c).assignment)
    (p := fun _ a => a.id = 8#16 → (none : Option LotNo) = some a.lot) (by decide +kernel)⟩
  unfold State.TakesFrame State.Quiet
  decide +kernel

/-- Cell 2 with a claim pending on its sublot, its slot holding a program. -/
def claimed (noRetain : Bool) : State :=
  withEntry { entry with noRetain := noRetain } (withSlot 0 .resident (withCell 2 { aCell with claimPending := true } running))

theorem witness_TallyClosesSublot_cases :
    (∀ v : Bool,
      let s := claimed v
      s.TakesFrame 2 .tally ∧ (s.bay.cell 2).state = .running ∧ (s.bay.cell 2).assignment = some anAssignment
        ∧ anAssignment.slot = some 0 ∧ (s.bay.cell 2).claimPending = true ∧ (s.bay.cell 2).slots[(0 : SlotNo)].state ≠ .empty
        ∧ (s.bay.cell 2).slots[(0 : SlotNo)].image = some (0x11#16, 2#8)
        ∧ s.tables.entryOf 0x11#16 = some { entry with noRetain := v }
        ∧ (s.bay.lot 3).state = .active ∧ (s.bay.lot 3).holds = [])
    ∧ (anAssignment.bins[(15 : BinNo)] + 0 < ((Vector.replicate 16 0#24).set 15 1#24)[(15 : BinNo)].toNat
      ∧ ∀ j : BinNo, j < 15 → ((Vector.replicate 16 0#24).set 15 1#24)[j].toNat = anAssignment.bins[j])
    ∧ ∀ c, (claimed true).NamedBy 3 c → c = 2 := by
  refine ⟨?_, by decide +kernel, ?_⟩
  · unfold State.TakesFrame State.Quiet
    decide +kernel
  · simp only [namedBy_iff]
    decide +kernel

/-- For LoadedEndsLoad: a load with an assignment, good, stale or failed, and a third member of a failed-cell set. -/
theorem witness_LoadedEndsLoad_assigned :
    (∀ n ∈ [0, 1],
      let s := loadingFor .awaiting (some anAssignment) n
      s.TakesFrame 2 .loaded ∧ (s.bay.cell 2).state = .loading ∧ (s.bay.cell 2).load = some aLoad ∧ s.Unlisted 2
        ∧ (s.bay.cell 2).assignment = some anAssignment ∧ (2 : CellNo) ∉ s.bay.waitQueue ∧ (s.bay.cell 2).loadFailures = n ∧ s.NoIdle
        ∧ s.KeepsOpen 3 40 ∧ (s.bay.lot 3).FewFailed anAssignment.step 2)
    ∧ (loadingFor .awaiting (some anAssignment) 0).Catalogued testStep.program entry
    ∧ (((loadingFor .awaiting (some anAssignment) 0).bay.cell 2).unloaded aLoad).Victim entry.program entry.revision 0
    ∧ (let s := withEntry { entry with revision := 3#8 } (loadingFor .awaiting (some anAssignment) 0);
      s.Catalogued testStep.program { entry with revision := 3#8 }
        ∧ ∀ (j : Fin 128) (e : CatalogueEntry), s.tables.catalogue[j] = some e → e.program ≠ 0x11#16 ∨ e.revision ≠ 2#8)
    ∧ ({ slots := (Vector.replicate 4 {}).set 1 { state := .stale, image := some (0x11#16, 2#8) } } : CellRec).Victim 0x11#16 3#8 0
    ∧ (let l : LotRec := { aLot with steps := [{ state := .opened, input := 100, failedCells := [20, 21] }] };
      (2 : CellNo) ∉ (l.stepRec 1).failedCells ∧ 2 ≤ (l.stepRec 1).failedCells.length ∧ l.state = .active ∧ l.holds = []) := by
  refine ⟨?_, catalogued_of rfl, .inr ⟨by decide +kernel, .inl ⟨by decide +kernel, by decide +kernel⟩⟩,
    ⟨catalogued_of (e := { entry with revision := 3#8 }) rfl, ?_⟩,
    .inr ⟨by decide +kernel, .inl ⟨by decide +kernel, by decide +kernel⟩⟩, by decide +kernel⟩
  · unfold State.TakesFrame State.Quiet State.Unlisted State.NoIdle State.KeepsOpen LotRec.FewFailed
    decide +kernel
  · exact all_some (f := fun j : Fin 128 => (withEntry { entry with revision := 3#8 } (loadingFor .awaiting (some anAssignment) 0)).tables.catalogue[j])
      (p := fun _ e => e.program ≠ 0x11#16 ∨ e.revision ≠ 2#8) (by decide +kernel)

/-- For SegmentTakenOrChannelFaulted and LoadAndPullExpiries: a failing load with an assignment. -/
theorem witness_failing_assigned :
    (∀ n ∈ [0, 1], ∀ place ∈ [LoadPlace.target, .awaiting],
      let s := atClock 500 (withChan 1 aChannel (loadingFor place (some anAssignment) n))
      s.TakesUplink ∧ (s.bay.chan 1).pull = aChannel.pull ∧ (s.bay.chan 1).targets = [{ cell := 2, slot := 1 }]
        ∧ (s.bay.chan 1).nextRound = [] ∧ s.bay.waitQueue = [] ∧ (s.bay.cell 2).load = some { aLoad with place := place }
        ∧ (s.bay.cell 2).assignment = some anAssignment ∧ (s.bay.lot 3).FewFailed anAssignment.step 2
        ∧ (s.bay.cell 2).loadFailures = n ∧ s.NoIdle ∧ s.KeepsOpen 3 40)
    ∧ (atClock 500 (withChan 1 aChannel (loadingFor .target (some anAssignment) 0))).Catalogued testStep.program entry
    ∧ (((atClock 500 (withChan 1 aChannel (loadingFor .target (some anAssignment) 0))).bay.cell 2).unloaded aLoad).Victim
        entry.program entry.revision 0 := by
  refine ⟨?_, catalogued_of rfl, .inr ⟨by decide +kernel, .inl ⟨by decide +kernel, by decide +kernel⟩⟩⟩
  unfold State.TakesUplink State.Quiet State.NoIdle State.KeepsOpen LotRec.FewFailed
  decide +kernel

/-! ### Witnesses: closes, ends of rounds and the service of ports -/

theorem witness_CatalogueWrite_law : (withEntry entry State.reset).tables.CatalogueLaw := by
  have only : ∀ (i : Fin 128) (e : CatalogueEntry), (withEntry entry State.reset).tables.catalogue[i] = some e →
      i = 0 ∧ e = entry := by
    intro i e h
    have := all_some (f := fun i : Fin 128 => (withEntry entry State.reset).tables.catalogue[i])
      (p := fun i e => i = 0 ∧ e = entry) (by decide +kernel)
    exact this i e h
  intro i e h
  obtain ⟨rfl, rfl⟩ := only i e h
  exact ⟨by decide, by decide, fun j o h' _ => (only j o h').1⟩

/-- Cell 2 with one unit to go, under armed checks that a good unit passes. -/
def armed : State :=
  let s := oneToGo .active
  { s with tables := { s.tables with profiles := s.tables.profiles.set 0 { yieldFloor := 5000, minSample := 1, runLimit := 3 } } }

theorem witness_UnitCounted_armed :
    armed.TakesFrame 2 .unit
    ∧ (let p := armed.tables.profiles[(0 : Fin 64)];
      p.yieldFloor ≠ 0 ∧ unitRaises p (({ state := .opened, input := 100 } : StepRec).counted 1 true) 2 2
        (({ anAssignment with units := 39 } : Assignment).counted 1 1 true) 1 = []) :=
  ⟨takes_of (by unfold State.Quiet; decide +kernel) (by decide +kernel) (by decide +kernel), by decide +kernel⟩

/-- As `closing`, of a cell that goes IDLE and has another kit by then, with a step and its record behind the one that closes. -/
def closingBefore (next : RouteStep) (rec : StepRec) : State :=
  withCell 2 { aCell with kit := 6#8, assignment := some { anAssignment with units := 40, bins := (Vector.replicate 16 0).set 1 40 } }
    (withLot 3
      { aLot with state := .closing, remaining := 0, route := [testStep, next], steps := [rec, { state := .pending }] }
      (withEntry entry State.reset))

theorem witness_tally_rests :
    (let s := withCell 2 { aCell with kit := 6#8 } running;
      (s.bay.cell 2).afterTally = .idle ∧ s.RestsAfterTally 2 (s.returned 3 40).2 ∧ s.RestsAfterTally 2 (s.bay.queue.filter (· ≠ 3)))
    ∧ (let s := closingBefore testStep allGood;
      s.TakesFrame 2 .tally ∧ (s.bay.cell 2).afterTally = .idle ∧ s.NoIdle ∧ s.bay.queue = []
        ∧ (s.bay.lot 3).route[1]? = some testStep ∧ (s.bay.lot 3).steps[1]? = some { state := .pending } ∧ (∀ c, s.NamedBy 3 c → c = 2))
    ∧ (closingBefore testStep allGood).RestsAfterTally 2 []
    ∧ (∃ e, (closingBefore testStep allGood).Catalogued testStep.program e)
    ∧ (let s := closingBefore testStep allGood;
      let closed := { s.bay.lot 3 with openSublots := 0 }.advancedFrom 1 allGood
      s.nextInput closed 1 allGood testStep = 40 ∧ s.nextInput closed 1 allGood retestStep = 0
        ∧ (s.bay.cell 2).FitsNot s.tables (closed.openedAt 2 40 0 { state := .pending }) 3)
    ∧ (∀ (j : Fin 128) (x : CatalogueEntry),
      (closingBefore { testStep with program := 0x12#16 } allGood).tables.catalogue[j] = some x → x.program ≠ 0x12#16) := by
  refine ⟨⟨by decide +kernel, .inr fun h hh => .inr (.inl ?_), .inr fun h hh => ?_⟩, ?_, .inr fun h hh => (List.not_mem_nil hh).elim,
    ⟨entry, catalogued_of rfl⟩, ⟨by decide +kernel, by decide +kernel, .inr (.inl (by decide +kernel))⟩,
    all_some (f := fun j => (closingBefore { testStep with program := 0x12#16 } allGood).tables.catalogue[j])
      (p := fun _ x => x.program ≠ 0x12#16) (by decide +kernel)⟩
  · have : ∀ h ∈ ((withCell 2 { aCell with kit := 6#8 } running).returned 3 40).2, h = 3 := by decide +kernel
    obtain rfl := this h hh
    decide +kernel
  · have : (withCell 2 { aCell with kit := 6#8 } running).bay.queue.filter (· ≠ 3) = [] := by decide +kernel
    rw [this] at hh
    exact (List.not_mem_nil hh).elim
  · simp only [namedBy_iff]
    unfold State.TakesFrame State.Quiet State.NoIdle
    decide +kernel

/-- Channel 1 with its pull due and a last segment to come, with loads of a next round or none. -/
def endsRound (state : ChannelState) (next : List (CellNo × SlotNo)) : State :=
  withCell 4 { state := .loading, load := some { aLoad with place := .nextRound, deadline := none } }
    (withChan 1
      { aChannel with
        state := state, current := 0, nextRound := next, pull := some { first := 0, n := 2, arrived := 1, deadline := 0 } }
      State.reset)

theorem witness_rounds_end :
    (∀ next ∈ [[], [((4 : CellNo), (1 : SlotNo))]],
      let s := endsRound .draining next
      s.TakesUplink ∧ (s.bay.chan 1).state = .draining ∧ (s.bay.chan 1).nextRound = next ∧ s.bay.waitQueue = []
        ∧ (s.bay.chan 1).image = some image ∧ (s.bay.chan 1).pull = some { first := 0, n := 2, arrived := 1, deadline := 0 }
        ∧ (0 : Nat) ≤ s.part.clock ∧ s.bay.channels.toList.countP (·.pull.isSome) = 1)
    ∧ (let s := endsRound .pulling [];
      s.TakesUplink ∧ (s.bay.chan 1).targets ≠ [] ∧ (s.bay.chan 1).current = 0)
    ∧ ∀ next ∈ [[], [((4 : CellNo), (1 : SlotNo))]],
      let s := withPort 2 { tx := { segment := some (aCopy true) } } (withCell 2 { state := .loading, load := some aLoad }
        (withChan 1 { aChannel with base := 1, current := 0, pull := none, slotHeld := false, nextRound := next } State.reset))
      let moved := (s.bay.chan 1).targets.map fun t => if t.cell = 2 then { t with pos := t.pos + 1 } else t
      s.Quiet ∧ s.link.ports[(2 : CellNo)].tx.segment = some (aCopy true) ∧ (∃ t ∈ moved, t.cell = 2 ∧ t.pos = (s.bay.chan 1).base)
        ∧ (∀ t ∈ moved, t.cell = 2) ∧ (s.bay.cell 2).load = some aLoad ∧ (s.bay.chan 1).state ≠ .idle
        ∧ (2 : CellNo) ∉ (s.bay.chan 1).nextRound.map (·.1) ∧ s.bay.waitQueue = [] := by
  unfold State.TakesUplink State.Quiet
  decide +kernel

/-- For LineRecoveryAndUplinkLoss and SendingsEnd: a notice or a PULL at the head, and nothing to be built. -/
theorem witness_uplink_kept :
    ∀ o ∈ [Origin.cellState 2, .pull],
      let s := { State.reset with link := { State.reset.link with uplink := [⟨o, ⟨0, 0, 0x77#8, 0, [], []⟩⟩] } }
      s.Quiet ∧ s.link.uplinkUp = true ∧ s.link.uplink.any UpEntry.traffic = false ∧ s.Unclaimed := by
  unfold State.Quiet State.Unclaimed
  decide +kernel

/-- READY absorbed and TAKE forwarded, from three testers: two frames at port 1, one at port 2, one at port 3, which
has no share left. -/
def heldOff (absorb : Bool) (ports : List (CellNo × List CellMsg)) : State :=
  ports.foldl (fun s e => withPort e.1 { waiting := e.2.map (.frame .tester 0xFFFF#16) } s)
    { State.reset with
      tables :=
        { State.reset.tables with
          forwarding := if absorb then State.reset.tables.forwarding.set 0 .absorb else State.reset.tables.forwarding
          settings := { cellShareLimit := 8 } }
      link :=
        { State.reset.link with
          pointer := 1, uplink := List.replicate 8 ⟨.forwarded 3, ⟨0, 0, 0x13#8, 0, [], []⟩⟩ } }

/-- R168: what stands at the ports leaves one round to do, as a decidable property. -/
theorem oneRound_at {s : State}
    (h : ∀ c : CellNo,
      (match s.link.ports[c].waiting with
        | [] => true
        | a :: rest =>
          (misdirectedOf a).isSome && rest.all fun b => (misdirectedOf b).any fun x => decide (s.forwarding x.2.kind = .absorb)) =
        true) :
    s.OneRound := by
  intro c a rest hw
  have hc := h c
  rw [hw] at hc
  simpa only [Bool.and_eq_true, List.all_eq_true] using hc

theorem witness_HeldOffPortServed_take :
    let s := withPort 2 { waiting := [.frame .handler 3#16 (.take anAssignment.id)] } (onCell .offered)
    s.link.held = [] ∧ s.link.ports[(2 : CellNo)].waiting = [.frame .handler 3#16 (.take anAssignment.id)]
      ∧ (∀ c' : CellNo, c' ≠ 2 → s.link.ports[c'].waiting = []) ∧ s.forwarding .take = .forward ∧ 64 < s.free
      ∧ s.share 2 < s.tables.settings.cellShareLimit ∧ s.bay.notices = [] ∧ (∀ k : ChanNo, (s.bay.chan k).state = .idle)
      ∧ (s.bay.cell 2).state = .offered ∧ (s.bay.cell 2).assignment = some anAssignment ∧ anAssignment.slot = some 0 := by
  decide +kernel

theorem witness_HeldOffPortServed_rounds :
    (let s := heldOff true [(1, [.take 7#16, .ready 5#8 1#8 2#8]), (2, [.ready 5#8 1#8 2#8]), (3, [.take 7#16])];
      s.link.held = [] ∧ s.bay.notices = [] ∧ (∀ k : ChanNo, (s.bay.chan k).state = .idle) ∧ 96 < s.free
        ∧ s.roundOrder.filter (fun c => s.link.ports[c].waiting ≠ []) = [2, 3, 1]
        ∧ s.share 3 = s.tables.settings.cellShareLimit)
    ∧ (heldOff true [(1, [.take 7#16, .ready 5#8 1#8 2#8]), (2, [.ready 5#8 1#8 2#8]), (3, [.take 7#16])]).OneRound
    ∧ (heldOff true [(1, [.take 7#16, .ready 5#8 1#8 2#8])]).Served 1
    ∧ (let s := heldOff false [(1, [.take 7#16, .take 8#16]), (2, [.take 7#16, .take 8#16])];
      s.link.held = [] ∧ s.bay.notices = [] ∧ (∀ k : ChanNo, (s.bay.chan k).state = .idle) ∧ s.forwarding .take = .forward
        ∧ 68 < s.free ∧ s.link.ports[(2 : CellNo)].waiting = [.frame .tester 0xFFFF#16 (.take 7#16), .frame .tester 0xFFFF#16 (.take 8#16)]
        ∧ s.link.ports[(1 : CellNo)].waiting = [.frame .tester 0xFFFF#16 (.take 7#16), .frame .tester 0xFFFF#16 (.take 8#16)]
        ∧ (∀ d : CellNo, d ≠ 2 → d ≠ 1 → s.link.ports[d].waiting = [])
        ∧ s.share 2 + 1 < s.tables.settings.cellShareLimit ∧ s.share 1 + 1 < s.tables.settings.cellShareLimit
        ∧ s.roundOrder.idxOf 2 < s.roundOrder.idxOf 1) := by
  refine ⟨by decide +kernel, fun c a rest h => ?_, ?_, by decide +kernel⟩
  · exact oneRound_at (by decide +kernel) c a rest h
  · exact ⟨_, _, _, rfl, rfl, .inr (by decide +kernel)⟩

/-! ### The service of claims (R164 to R172) and the late reply (R71, R200) -/

/-- A state whose every buffer is reserved by a pull that is draining and due, with frames held at the uplink port. -/
def dry (held : List Instr) : State :=
  let s := withChan 0 { aChannel with state := .draining, targets := [], pull := some { first := 0, n := 2048, arrived := 0, deadline := 0 } } State.reset
  { s with link := { s.link with held := held } }

/-- R169, R188: a held LOT.DEFINE has its notice built in its own event, ahead of the LOT.ABORT behind it, whose own notice
waits for the first to leave. -/
theorem test_held_request_notice_first :
    let define : Instr := .lotDefine 1#16 0#8 (Vector.replicate 16 0#8) 10#24 0#8 1#8 (Vector.replicate 6 goodStep)
    let t := after (exec .pullDeadlineExpiry (dry [define, .lotAbort 2#16 0#16]))
    t.link.uplink.map (·.origin) = [.response, .lotState 0, .response] ∧ t.bay.notices = [.lotState 0] ∧ t.link.held = [] := by
  decide +kernel

/-- R166, R169: of two held writes of the forwarding table the first lets the held-off frame be taken as ABSORB in its event. -/
theorem test_held_absorb_write_serves :
    let s := dry [.tableWriteForwardingTable 1#16 (.all (Vector.replicate 9 1#8)), .tableWriteForwardingTable 2#16 (.all (Vector.replicate 9 0#8))]
    let s := { s with tables := { s.tables with settings := { s.tables.settings with cellShareLimit := 0 } } }
    let t := after (exec .pullDeadlineExpiry (withPort 5 { waiting := [.frame .handler 0xFFFF#16 (.take 7#16)] } s))
    t.link.uplink.map (·.origin) = [.response, .response] ∧ t.link.ports[(5 : CellNo)].waiting = []
      ∧ (t.bay.cell 5).commands = [.withdraw [(7#16, none)]] ∧ t.tables.forwarding = Vector.replicate 9 .forward := by
  decide +kernel

/-- R168: a held PART.RESTART, taken for the buffer that port 2's first frame frees (its target leaves channel 0), is followed
by a service of its own, in which port 1 comes ahead of the frame left at port 2. -/
theorem test_restart_in_service :
    let s := withChan 0
      { aChannel with
        segs := [{ number := 0, lot := 0#16, image := [1#8] }], pull := some { first := 1, n := 2047, arrived := 0, deadline := 500 } }
      (withCell 2 { state := .loading, load := some { aLoad with place := .target, deadline := none } } State.reset)
    let stray : Arrival := .frame .tester 0xFFFF#16 (.take 7#16)
    let s := withPort 1 { waiting := [stray] } (withPort 2 { waiting := [.frame .handler 0xFFFF#16 (.state 0#8 0#16), stray] } s)
    let s := { s with tables := { s.tables with forwarding := Vector.replicate 9 .absorb }, link := { s.link with held := [.partRestart 1#16], pointer := 1 } }
    let t := after (exec .heldOffPortService s)
    s.free = 0 ∧ t.part.resetCause = .restart ∧ t.link.held = [] ∧ t.link.pointer = 2
      ∧ t.link.ports[(1 : CellNo)].waiting = [] ∧ t.link.ports[(2 : CellNo)].waiting = [] := by
  decide +kernel

/-- R71, R200: the WITHDRAW of a late TAKE carries the lot of the sublot that another cell holds. -/
theorem test_late_reply_names_lot :
    let t := after (exec (.take 5 .handler 0xFFFF#16 7#16) running)
    (t.bay.cell 5).commands = [.withdraw [(7#16, some 3)]] ∧ withdrawHandle [(7#16, some 3)] = 3#16 := by
  decide +kernel

/-! ### Witnesses: the laws -/

theorem witness_laws :
    State.reset.free + State.reset.occupied + State.reset.reserved = 2048 ∧ 128 ≤ State.reset.tables.settings.loadWatermark
    ∧ State.reset.bay.queue = [] ∧ State.reset.bay.rotation = allCells ∧ State.reset.bay.notices = []
    ∧ (∀ c : CellNo, (State.reset.bay.cell c).commands = [] ∧ (State.reset.bay.cell c).state = .offline) ∧ State.reset.part.clock ≤ Config.clockMax
    ∧ (∃ t, step State.reset = .next t) ∧ State.reset.tables.CatalogueLaw := by
  refine ⟨by decide +kernel, by decide +kernel, rfl, rfl, rfl, by decide +kernel, by decide, ⟨_, rfl⟩, fun i e h => ?_⟩
  simp [State.reset] at h

end Sys2Proof.Tests
end

/-!
SUPPORT. LOT.RETIRE (R23): what it does to the bay in either case, and that the claims of its event owe no notice, so
that the lot's RELEASE mark stays clear.
-/

namespace Sys2Proof.Machine

/-! ### The claims of an event owe nothing -/

theorem notices_issuePull (s : State) (k : ChanNo) : (s.issuePull k).bay.notices = s.bay.notices := by
  unfold State.issuePull
  dsimp only
  split <;> rfl

theorem notices_grantPull (s : State) (k : ChanNo) : (s.grantPull k).bay.notices = s.bay.notices :=
  notices_issuePull s k

/-- R169, R172: claims build owed notices and set no mark, so what is not owed ahead of them is not owed behind them. -/
theorem not_owed_event {s : State} {n : Notice} (hq : s.Quiet) (hn : n ∉ s.bay.notices) :
    n ∉ (s.serveClaims {}).eventEnd.bay.notices :=
  (settle_quiet (P := fun t => n ∉ t.bay.notices)
    (fun t m ht => by rw [notices_buildNotice]; exact fun hm => ht (List.mem_of_mem_filter hm))
    (fun t k ht => by rwa [notices_issuePull])
    (fun t k ht => by rwa [notices_grantPull]) s.claimBound s hq hn).1

/-- What a request that names a lot does not owe is not owed in the state that it answers. -/
theorem not_owed_of_lotRequest {i : Instr} {s t : State} {code : Byte} {tag handle : Half}
    {f : Ctx → Bay → LotNo → Bay × Reply} {b : Bay} {p : Reply} {n : Notice} (he : exec i s = .next (runUplink i s))
    (h : s.TakesRequests) (hs : serveUplink i s.newEvent = s.newEvent.lotRequest code tag handle f)
    (hh : handle.toNat < 256) (hf : f s.ctx s.newEvent.bay ⟨handle.toNat, hh⟩ = (b, p)) (hn : n ∉ b.notices)
    (ht : exec i s = .next t) : n ∉ t.bay.notices := by
  have hf' : f s.newEvent.ctx s.newEvent.bay ⟨handle.toNat, hh⟩ = (b, p) := hf
  have hu : serveUplink i s.newEvent = { s.newEvent with bay := b }.respond (some ⟨handle.toNat, hh⟩) code tag p := by
    simp only [hs, State.lotRequest, lotOf_toNat hh, hf']
  obtain rfl : runUplink i s = t := Host.Outcome.next.inj (he.symm.trans ht)
  rw [runUplink_eq h.1 h.2.1 fun _ => h.2.2, hu]
  exact not_owed_event (quiet_respond h.1 ..) hn

/-! ### Marks and handles -/

theorem records_unowe (s : State) (b : Bay) (n : Notice) :
    ({ s with bay := b.unowe n } : State).records = ({ s with bay := b } : State).records := rfl

@[simp] theorem Bay.lot_unowe (b : Bay) (n : Notice) (h : LotNo) : (b.unowe n).lot h = b.lot h := rfl

theorem handleField_toNat {handle : Half} (h : handle.toNat < 256) : handleField (some ⟨handle.toNat, h⟩) = handle :=
  BitVec.ofNat_toNat ..

/-! ### The retirement of a record (R23) -/

theorem LotState.retirable_iff {st : LotState} : st.retirable = true ↔ st ∈ [.released, .aborted, .defined] := by
  cases st <;> decide

theorem LotState.not_retirable_iff {st : LotState} :
    st.retirable = false ↔ st ∈ [.free, .active, .held, .closing, .complete, .aborting] := by
  cases st <;> decide

/-- R9: freeing a record that may be retired changes its state, which the stamp follows. -/
theorem LotRec.followed_freed_ne {l : LotRec} (hl : l.state.retirable = true) :
    LotRec.followed { stamp := l.stamp } ≠ l.followed := by
  intro hf
  have hst : LotState.free = l.state := congrArg Prod.fst hf
  rw [← hst] at hl
  exact absurd hl (by decide)

/-- R2, R9: the record that a retirement leaves is FREE, with the stamp advanced. -/
theorem stampedRec_freed {l : LotRec} (hl : l.state.retirable = true) :
    stampedRec false l { stamp := l.stamp } = { stamp := l.stamp + 1 } :=
  if_neg (by simp [LotRec.followed_freed_ne hl])

/-- The bay with the record of a lot freed and its RELEASE mark cleared (R158, R173). -/
def Bay.freed (b : Bay) (h : LotNo) : Bay := (b.modLot h fun l => { stamp := l.stamp }).unowe (.release h)

theorem Bay.retire_refused {x : Ctx} {b : Bay} {h : LotNo} (hl : (b.lot h).state.retirable = false) :
    b.retire x h = (b, { status := .state, data := (b.lot h).answer }) :=
  if_neg (ne_true_of_eq_false hl)

theorem Bay.retire_taken {x : Ctx} {b : Bay} {h : LotNo} (hl : (b.lot h).state.retirable = true) (hs : b.stamped = []) :
    b.retire x h = (b.freed h, { status := .done, data := 0#8 :: bytes32 ((b.lot h).stamp + 1) }) := by
  have hlot : (b.freed h).lot h = { stamp := (b.lot h).stamp + 1 } := by
    simp only [Bay.freed, Bay.lot_unowe, Bay.lot_modLot_self, hs, List.not_mem_nil, decide_false, stampedRec_freed hl]
  calc b.retire x h = (b.freed h, (b.freed h).briefReply h .done) := if_pos hl
    _ = _ := by rw [Bay.briefReply, hlot]; rfl

theorem records_freed {s : State} {h : LotNo} (hl : (s.bay.lot h).state.retirable = true) :
    ({ s with bay := s.newEvent.bay.freed h } : State).records = s.records.setLot h { stamp := (s.bay.lot h).stamp + 1 } := by
  rw [Bay.freed, records_unowe, records_modLot, stampedRec_freed hl]

theorem Bay.lotState_owed_freed {b : Bay} {h : LotNo} (hl : (b.lot h).state.retirable = true) (hs : b.stamped = []) :
    .lotState h ∈ (b.freed h).notices :=
  Bay.mem_notices_unowe.2
    ⟨by simp, Bay.mem_notices_modLot.2 (.inl ⟨rfl, LotRec.followed_freed_ne hl, by simp [hs]⟩)⟩

theorem Bay.release_not_owed_freed (b : Bay) (h : LotNo) : .release h ∉ (b.freed h).notices :=
  fun hm => (Bay.mem_notices_unowe.1 hm).1 rfl

/-! ### LOT.RETIRE as a command -/

theorem lotRetire_refused {tag handle : Half} {s : State} (h : s.TakesRequests) (hh : handle.toNat < 256)
    (hl : (s.bay.lot ⟨handle.toNat, hh⟩).state.retirable = false) :
    Answers (.lotRetire tag handle) s s.records (some ⟨handle.toNat, hh⟩) 0x14#8 tag
      { status := .state, data := (s.bay.lot ⟨handle.toNat, hh⟩).answer } :=
  answers_of_lotRequest (b := s.newEvent.bay) rfl h rfl hh (Bay.retire_refused hl) rfl (by simp)

theorem lotRetire_taken {tag handle : Half} {s : State} (h : s.TakesRequests) (hh : handle.toNat < 256)
    (hl : (s.bay.lot ⟨handle.toNat, hh⟩).state.retirable = true) :
    Answers (.lotRetire tag handle) s
      (s.records.setLot ⟨handle.toNat, hh⟩ { stamp := (s.bay.lot ⟨handle.toNat, hh⟩).stamp + 1 })
      (some ⟨handle.toNat, hh⟩) 0x14#8 tag
      { status := .done, data := 0#8 :: bytes32 ((s.bay.lot ⟨handle.toNat, hh⟩).stamp + 1) }
      [.lotState ⟨handle.toNat, hh⟩] :=
  answers_of_lotRequest rfl h rfl hh (Bay.retire_taken hl rfl) (records_freed hl)
    (List.forall_mem_singleton.2 (Bay.lotState_owed_freed (b := s.newEvent.bay) hl rfl))

theorem lotRetire_clears_release {tag handle : Half} {s t : State} (h : s.TakesRequests) (hh : handle.toNat < 256)
    (hl : (s.bay.lot ⟨handle.toNat, hh⟩).state.retirable = true) (ht : exec (.lotRetire tag handle) s = .next t) :
    .release ⟨handle.toNat, hh⟩ ∉ t.bay.notices :=
  not_owed_of_lotRequest rfl h rfl hh (Bay.retire_taken hl rfl) (Bay.release_not_owed_freed _ _) ht

/-- Settles O18: a record that may not be retired is refused as it stands; one that may is freed, and the claims behind
the request do not set its RELEASE mark again. -/
theorem lotRetire : Obligations.LotRetire := by
  intro tag handle s hs hh
  refine ⟨fun hl => lotRetire_refused hs hh (LotState.not_retirable_iff.2 hl), fun hl => ?_⟩
  have hr := LotState.retirable_iff.2 hl
  obtain ⟨t, he, hrec, htraffic, _, hreported⟩ := lotRetire_taken (tag := tag) hs hh hr
  rw [handleField_toNat hh] at htraffic
  exact ⟨t, he, hrec, htraffic, hreported _ (by simp), lotRetire_clears_release hs hh hr he⟩

end Sys2Proof.Machine

/-!
SUPPORT. CELL.RESTORE (R42) and PAUSED (R39): what each does to the bay in every cell state, and both as commands.
-/

namespace Sys2Proof.Machine

/-! ### The restoring of a cell (R42) -/

/-- R42: a cell record given back. -/
def CellRec.restored (r : CellRec) : CellRec := { r with state := .notReady, suspect := false, loadFailures := 0 }

/-- R31: the state, which is followed, changes. -/
theorem CellRec.noticed_restored_ne {r : CellRec} (hr : r.state = .claimed ∨ r.state = .faulted) :
    r.restored.noticed ≠ r.noticed := by
  intro hn
  have hstate : CellState.notReady = r.state := congrArg CellView.state hn
  rw [← hstate] at hr
  exact absurd hr (by decide)

theorem Bay.restore_taken {x : Ctx} {b : Bay} {c : CellNo} (hr : (b.cell c).state = .claimed ∨ (b.cell c).state = .faulted) :
    b.restore x c = (b.modCell c CellRec.restored, { status := .done, data := [1#8] }) := by
  have hreply : (b.modCell c CellRec.restored).cellReply c .done = { status := .done, data := [1#8] } := by
    rw [Bay.cellReply, Bay.cell_modCell_self]
    rfl
  calc b.restore x c = (b.modCell c CellRec.restored, (b.modCell c CellRec.restored).cellReply c .done) := if_pos hr
    _ = _ := by rw [hreply]

theorem Bay.restore_refused {x : Ctx} {b : Bay} {c : CellNo}
    (hr : ¬((b.cell c).state = .claimed ∨ (b.cell c).state = .faulted)) :
    b.restore x c = (b, { status := .state, data := [(b.cell c).state.code] }) := if_neg hr

theorem Bay.cellState_owed_restored {b : Bay} {c : CellNo}
    (hr : (b.cell c).state = .claimed ∨ (b.cell c).state = .faulted) :
    .cellState c ∈ (b.modCell c CellRec.restored).notices :=
  Bay.mem_notices_modCell.2 (.inl ⟨rfl, CellRec.noticed_restored_ne hr⟩)

/-! ### CELL.RESTORE as a command -/

theorem cellRestore_taken {tag : Half} {cell : Byte} {s : State} (h : s.TakesRequests) (hc : cell.toNat < 32)
    (hr : (s.bay.cell ⟨cell.toNat, hc⟩).state = .claimed ∨ (s.bay.cell ⟨cell.toNat, hc⟩).state = .faulted) :
    Answers (.cellRestore tag cell) s
      (s.records.setCell ⟨cell.toNat, hc⟩ (s.bay.cell ⟨cell.toNat, hc⟩).restored) none 0x31#8 tag
      { status := .done, data := [1#8] } [.cellState ⟨cell.toNat, hc⟩] :=
  answers_of_cellRequest rfl h rfl hc (Bay.restore_taken hr) (records_modCell s _ _)
    (List.forall_mem_singleton.2 (Bay.cellState_owed_restored (b := s.newEvent.bay) hr))

theorem cellRestore_refused {tag : Half} {cell : Byte} {s : State} (h : s.TakesRequests) (hc : cell.toNat < 32)
    (hr : ¬((s.bay.cell ⟨cell.toNat, hc⟩).state = .claimed ∨ (s.bay.cell ⟨cell.toNat, hc⟩).state = .faulted)) :
    Answers (.cellRestore tag cell) s s.records none 0x31#8 tag
      { status := .state, data := [(s.bay.cell ⟨cell.toNat, hc⟩).state.code] } :=
  answers_of_cellRequest (b := s.newEvent.bay) rfl h rfl hc (Bay.restore_refused hr) rfl (by simp)

/-- Settles O25: the restoring changes the state of a CLAIMED or FAULTED cell, so that its CELL.STATE mark is set; on any
other cell the request changes nothing. -/
theorem cellRestore : Obligations.CellRestore := fun _ _ _ hs hc =>
  ⟨cellRestore_taken hs hc, fun hclaimed hfaulted => cellRestore_refused hs hc (not_or.2 ⟨hclaimed, hfaulted⟩)⟩

/-! ### The acknowledgement of a PAUSE (R39) -/

/-- R39: the cell runs the sublot that an id names. -/
def CellRec.Runs (r : CellRec) (id : Half) : Prop := r.state = .running ∧ ∃ a, r.assignment = some a ∧ a.id = id

/-- R39: a cell record whose PAUSE has been acknowledged. -/
def CellRec.pauseTaken (r : CellRec) : CellRec := { r with pause := .paused }

theorem CellRec.runs_iff {r : CellRec} {id : Half} :
    r.Runs id ↔ r.state = .running ∧ r.assignment.any (·.id = id) = true := by
  simp [CellRec.Runs, Option.any_eq_true]

/-- R31: the pause state is followed. -/
theorem CellRec.noticed_pauseTaken_ne {r : CellRec} (hr : r.pause = .sent) : r.pauseTaken.noticed ≠ r.noticed := by
  intro hn
  have hp : PauseState.paused = r.pause := congrArg CellView.pause hn
  rw [hr] at hp
  exact absurd hp (by decide)

theorem Bay.pausedFrame_sent {b : Bay} {c : CellNo} {id : Half} (hm : (b.cell c).Runs id) (hp : (b.cell c).pause = .sent) :
    b.pausedFrame c id = b.modCell c CellRec.pauseTaken :=
  (if_pos (CellRec.runs_iff.1 hm)).trans (if_pos hp)

theorem Bay.pausedFrame_unsent {b : Bay} {c : CellNo} {id : Half} (hm : (b.cell c).Runs id) (hp : (b.cell c).pause ≠ .sent) :
    b.pausedFrame c id = b :=
  (if_pos (CellRec.runs_iff.1 hm)).trans (if_neg hp)

theorem Bay.pausedFrame_stray {b : Bay} {c : CellNo} {id : Half} (hm : ¬(b.cell c).Runs id) :
    b.pausedFrame c id = b.protocolError c :=
  if_neg (mt CellRec.runs_iff.2 hm)

/-! ### PAUSED as a command -/

/-- R28: a protocol error changes the record of its cell alone. -/
theorem records_protocolError (s : State) (c : CellNo) :
    ({ s with bay := s.newEvent.bay.protocolError c } : State).records = s.records.setCell c (s.bay.cell c).erred := by
  rw [Bay.protocolError_eq]
  rfl

theorem paused_sent {c : CellNo} {lot id : Half} {s : State} (h : s.TakesFrame c .paused) (hm : (s.bay.cell c).Runs id)
    (hp : (s.bay.cell c).pause = .sent) :
    Takes s c .handler lot (.paused id) (s.records.setCell c (s.bay.cell c).pauseTaken) [.cellState c] :=
  takes_of_effect h (Bay.pausedFrame_sent (b := s.newEvent.bay) hm hp) (records_modCell s c _)
    (List.forall_mem_singleton.2 (Bay.mem_notices_modCell.2 (.inl ⟨rfl, CellRec.noticed_pauseTaken_ne hp⟩)))

theorem paused_unsent {c : CellNo} {lot id : Half} {s : State} (h : s.TakesFrame c .paused) (hm : (s.bay.cell c).Runs id)
    (hp : (s.bay.cell c).pause ≠ .sent) : Takes s c .handler lot (.paused id) s.records :=
  takes_of_effect h (Bay.pausedFrame_unsent (b := s.newEvent.bay) hm hp) rfl (by simp)

theorem paused_stray {c : CellNo} {lot id : Half} {s : State} (h : s.TakesFrame c .paused) (hm : ¬(s.bay.cell c).Runs id) :
    Takes s c .handler lot (.paused id) (s.records.setCell c (s.bay.cell c).erred) :=
  takes_of_effect h (Bay.pausedFrame_stray (b := s.newEvent.bay) hm) (records_protocolError s c) (by simp)

/-- Settles O28: PAUSED for the running sublot is taken once, where a PAUSE is unanswered, and changes nothing otherwise;
for any other sublot, or on a cell that is not RUNNING, it is a protocol error. -/
theorem pausedAcknowledges : Obligations.PausedAcknowledges := fun _ _ _ _ hs =>
  ⟨paused_sent hs, paused_unsent hs, paused_stray hs⟩

end Sys2Proof.Machine

/-!
SUPPORT. Gate profiles (R101): the clamps of a write, the entry as a RESPONSE carries it, and TABLE.WRITE and TABLE.READ
of a profile as commands.
-/

namespace Sys2Proof.Machine

/-! ### Indexes (R190) -/

theorem indexOf_toNat {n : Nat} {b : Byte} (h : b.toNat < n) : indexOf n b = some ⟨b.toNat, h⟩ := dif_pos h

theorem indexOf_none {n : Nat} {b : Byte} (h : n ≤ b.toNat) : indexOf n b = none := dif_neg (Nat.not_lt.2 h)

/-! ### The entry as a RESPONSE carries it (Table 11-10) -/

theorem Tables.reply_profile (t : Tables) {index : Byte} (h : index.toNat < 64) :
    t.reply 1#8 index = writeDone 1#8 index (profileBytes t.profiles[index.toNat]) := by
  have he : t.entryBytes 1#8 index = some (profileBytes t.profiles[index.toNat]) :=
    congrArg (Option.map fun i : Fin 64 => profileBytes t.profiles[i]) (indexOf_toNat h)
  rw [Tables.reply, he]
  rfl

theorem Tables.reply_profile_unknown (t : Tables) {index : Byte} (h : 64 ≤ index.toNat) :
    t.reply 1#8 index = { status := .unknown, data := [] } := by
  have he : t.entryBytes 1#8 index = none :=
    congrArg (Option.map fun i : Fin 64 => profileBytes t.profiles[i]) (indexOf_none h)
  rw [Tables.reply, he]
  rfl

/-! ### TABLE.WRITE of a profile -/

/-- The state with a gate profile replaced. -/
def State.setProfile (s : State) (i : Fin 64) (p : GateProfile) : State := { s with tables := s.tables.setProfile i p }

theorem Tables.reply_setProfile (t : Tables) {index : Byte} (h : index.toNat < 64) (p : GateProfile) :
    (t.setProfile ⟨index.toNat, h⟩ p).reply 1#8 index = writeDone 1#8 index (profileBytes p) := by
  rw [Tables.reply_profile _ h, Tables.setProfile, Vector.getElem_set_self]

theorem serveProfileWrite_taken {tag : Half} {index : Byte} {e : ProfileImage} {s : State} (h : index.toNat < 64) :
    serveProfileWrite tag index e s
      = (s.setProfile ⟨index.toNat, h⟩ (profileOf e)).respond none 0x01#8 tag
          (writeDone 1#8 index (profileBytes (profileOf e))) := by
  rw [serveProfileWrite, indexOf_toNat h, ← Tables.reply_setProfile s.tables h]
  rfl

theorem serveProfileWrite_refused {tag : Half} {index : Byte} {e : ProfileImage} {s : State} (h : 64 ≤ index.toNat) :
    serveProfileWrite tag index e s = s.respond none 0x01#8 tag { status := .unknown, data := [] } := by
  rw [serveProfileWrite, indexOf_none h]
  rfl

theorem profileWrite_taken {tag : Half} {index : Byte} {e : ProfileImage} {s : State} (hs : s.TakesRequests)
    (h : index.toNat < 64) :
    Answers (.tableWriteGateProfile tag index e) s
      { s.records with tables := s.tables.setProfile ⟨index.toNat, h⟩ (profileOf e) } none 0x01#8 tag
      (writeDone 1#8 index (profileBytes (profileOf e))) :=
  answers_of_serve (u := s.newEvent.setProfile ⟨index.toNat, h⟩ (profileOf e)) rfl hs (serveProfileWrite_taken h) rfl
    hs.1 rfl rfl (by simp)

theorem profileWrite_refused {tag : Half} {index : Byte} {e : ProfileImage} {s : State} (hs : s.TakesRequests)
    (h : 64 ≤ index.toNat) :
    Answers (.tableWriteGateProfile tag index e) s s.records none 0x01#8 tag { status := .unknown, data := [] } :=
  answers_unchanged rfl hs (serveProfileWrite_refused h)

/-! ### TABLE.READ -/

/-- R191: a read answers with the tables as they stand. -/
theorem tableRead_answers {tag : Half} {table index : Byte} {s : State} (hs : s.TakesRequests) :
    Answers (.tableRead tag table index) s s.records none 0x02#8 tag (s.tables.reply table index) :=
  answers_unchanged rfl hs rfl

/-! ### The clamps (Table 5-1) -/

theorem finishOf_eq_ite (b : Byte) : finishOf b = if b = 1#8 then .notify else .auto := by
  simp only [finishOf, ← BitVec.toNat_inj]
  rfl

/-- A clamp of every element, element by element. -/
theorem map_eq_ofFn_getElem {n : Nat} (v : Vector Half n) (f : Half → Nat) : v.map f = Vector.ofFn fun k : Fin n => f v[k] := by
  ext i hi
  simp

/-- Settles O6: a write within the table stores the profile clamped field by field and reads it back into its RESPONSE;
out of range it is refused; a read answers with the entry as held. -/
theorem gateProfileWrite : Obligations.GateProfileWrite := by
  intro tag index e s hs p
  have hp : profileOf e = p := by rw [profileOf, map_eq_ofFn_getElem, finishOf_eq_ite, clampTo]
  refine ⟨fun h => hp ▸ profileWrite_taken hs h, profileWrite_refused hs, fun h => ?_, fun h => ?_⟩
  · exact Tables.reply_profile s.tables h ▸ tableRead_answers hs
  · exact Tables.reply_profile_unknown s.tables h ▸ tableRead_answers hs

end Sys2Proof.Machine

/-!
SUPPORT. A UNIT that matches no running sublot (R104, R105): when a unit result matches, what a stray does to the bay,
and that an event which sets no mark leaves none owed that was not owed before it.
-/

namespace Sys2Proof.Machine

/-! ### States that owe no more than another -/

/-- What `OwesNoMore` asks: no new mark, and no CELL.STATE notice queued that was not owed or queued. -/
theorem State.OwesNoMore.of_uplink {s t : State} (hn : ∀ n ∈ t.bay.notices, n ∈ s.bay.notices)
    (hu : ∀ e ∈ t.link.uplink, ∀ c, e.origin = .cellState c → s.Reported (.cellState c)) : s.OwesNoMore t :=
  ⟨hn, fun c ht => ht.elim (fun hm => .inl (hn _ hm)) fun ⟨e, he, ho⟩ => hu e he c ho⟩

theorem State.OwesNoMore.refl (s : State) : s.OwesNoMore s := ⟨fun _ h => h, fun _ h => h⟩

theorem State.OwesNoMore.trans {s t u : State} (hst : s.OwesNoMore t) (htu : t.OwesNoMore u) : s.OwesNoMore u :=
  ⟨fun n h => hst.1 n (htu.1 n h), fun c h => hst.2 c (htu.2 c h)⟩

/-- An entry that is no CELL.STATE notice may join the uplink queue. -/
theorem owesNoMore_pushUplink {s : State} {e : UpEntry} (he : ∀ c, e.origin ≠ .cellState c) :
    s.OwesNoMore (s.pushUplink e) := by
  refine .of_uplink (fun _ h => h) fun x hx c ho => ?_
  rcases List.mem_append.1 hx with hx | hx
  · exact .inr ⟨x, hx, ho⟩
  · exact absurd (List.mem_singleton.1 hx ▸ ho) (he c)

/-! ### The claims and the end of an event -/

theorem Notice.eq_of_origin_cellState {n : Notice} {c : CellNo} (h : n.origin = .cellState c) : n = .cellState c := by
  cases n with
  | cellState c' => exact congrArg Notice.cellState (Origin.cellState.inj h)
  | lotState _ => cases h
  | release _ => cases h

/-- R172: the notice of a mark takes the place of the mark. -/
theorem owesNoMore_buildNotice {s : State} {n : Notice} (hn : n ∈ s.bay.notices) : s.OwesNoMore (s.buildNotice n) := by
  refine .of_uplink (fun m hm => ?_) fun e he c ho => ?_
  · rw [notices_buildNotice] at hm
    exact List.mem_of_mem_filter hm
  · rcases mem_buildNotice.1 he with rfl | he
    · rw [origin_noticeEntry] at ho
      exact .inl (Notice.eq_of_origin_cellState ho ▸ hn)
    · exact .inr ⟨e, he, ho⟩

theorem owesNoMore_issuePull (s : State) (k : ChanNo) : s.OwesNoMore (s.issuePull k) := by
  unfold State.issuePull
  dsimp only
  split
  · exact .refl s
  · exact owesNoMore_pushUplink (e := pullEntry ..) nofun

theorem owesNoMore_grantPull (s : State) (k : ChanNo) : s.OwesNoMore (s.grantPull k) := owesNoMore_issuePull s k

theorem owesNoMore_eventEnd (s : State) : s.OwesNoMore s.eventEnd := by
  simpa only [State.OwesNoMore, State.Reported, State.eventEnd, State.newEvent] using State.OwesNoMore.refl s

theorem mem_notices_of_nextNotice {s : State} {n : Notice} (h : s.nextNotice = some n) : n ∈ s.bay.notices := by
  unfold State.nextNotice at h
  split at h
  · exact List.mem_of_find?_eq_some h
  · cases h

/-- R169: the claims of a quiet state build owed notices and issue pulls, so they owe no more. -/
theorem owesNoMore_settle : ∀ (n : Nat) {s : State}, s.Quiet → s.OwesNoMore (settle n {} s)
  | 0, s, _ => .refl s
  | n + 1, s, hq => by
    unfold settle
    split
    · exact .refl s
    · next m' s' hc =>
      obtain ⟨rfl, hs⟩ := nextClaim_quiet hq hc
      obtain ⟨x, hx, rfl⟩ | ⟨k, _, rfl⟩ | ⟨k, _, rfl⟩ := hs
      · exact (owesNoMore_buildNotice (mem_notices_of_nextNotice hx)).trans (owesNoMore_settle n (quiet_buildNotice hq x))
      · exact (owesNoMore_issuePull s k).trans (owesNoMore_settle n (quiet_issuePull hq k))
      · exact (owesNoMore_grantPull s k).trans (owesNoMore_settle n (quiet_grantPull hq k))

theorem owesNoMore_event {s : State} (hq : s.Quiet) : s.OwesNoMore (s.serveClaims {}).eventEnd :=
  (owesNoMore_settle s.claimBound hq).trans (owesNoMore_eventEnd _)

/-! ### Cell frames that set no mark -/

theorem exec_taken {s : State} {c : CellNo} {src : CellStation} {lot : Half} {m : CellMsg} (h : s.TakesFrame c m.kind) :
    exec (m.instr c src lot) s = .next ((takeArrival c (.frame src lot m) s.newEvent).serveClaims {}).eventEnd := by
  obtain ⟨hq, hup, hclaim⟩ := h
  rw [exec_instr, runEvent, arriveCell_eq (quiet_newEvent hq) hup (hclaim.imp_left decide_eq_true)]

theorem quiet_takeFrame {s : State} (hq : s.Quiet) (c : CellNo) (src : CellStation) (lot : Half) (m : CellMsg) :
    (takeArrival c (.frame src lot m) s).Quiet := by
  simp only [takeArrival]
  split <;> exact hq

/-- R166: the frame's way up adds no notice. -/
theorem owesNoMore_takeFrame {s : State} {c : CellNo} {src : CellStation} (lot : Half) {m : CellMsg}
    (hn : ∀ n ∈ (Bay.cellFrameEffect s.ctx s.bay c src m).notices, n ∈ s.bay.notices) :
    s.OwesNoMore (takeArrival c (.frame src lot m) s) := by
  have heffect : s.OwesNoMore (s.onBay fun x b => b.cellFrameEffect x c src m) :=
    .of_uplink hn fun e he _ ho => .inr ⟨e, he, ho⟩
  simp only [takeArrival]
  split
  · exact heffect.trans (owesNoMore_pushUplink nofun)
  · exact heffect

/-- As `takes_of_effect`, for a frame whose effect sets no mark. -/
theorem takesAnd_owesNoMore_of_effect {s : State} {c : CellNo} {src : CellStation} {lot : Half} {m : CellMsg}
    {r : Records} {b : Bay} (h : s.TakesFrame c m.kind) (hf : Bay.cellFrameEffect s.ctx s.newEvent.bay c src m = b)
    (hr : { s with bay := b }.records = r) (hn : ∀ n ∈ b.notices, n ∈ s.bay.notices) :
    TakesAnd s c src lot m r s.OwesNoMore := by
  obtain ⟨t, he, hrec, htraffic, hsettled, hreported⟩ :=
    takes_of_effect (src := src) (lot := lot) (reported := []) h hf hr (by simp)
  refine ⟨t, he, hrec, htraffic, hsettled, hreported, ?_⟩
  obtain rfl := Host.Outcome.next.inj ((exec_taken h).symm.trans he)
  have htake : s.newEvent.OwesNoMore (takeArrival c (.frame src lot m) s.newEvent) :=
    owesNoMore_takeFrame lot (fun n hm => hn n (hf ▸ hm))
  exact htake.trans (owesNoMore_event (quiet_takeFrame (quiet_newEvent h.1) c src lot m))

/-! ### A unit result that matches nothing (R104) -/

theorem CellRec.unitMatch_eq_some {r : CellRec} {id : Half} {site : Byte} {a : Assignment} {k : SiteNo} :
    r.unitMatch id site = some (a, k) ↔ r.state = .running ∧ r.assignment = some a ∧ a.id = id
      ∧ site.toNat < r.sites.getD 0 ∧ indexOf 8 site = some k := by
  unfold CellRec.unitMatch
  cases r.assignment with
  | none => simp
  | some a' =>
    cases indexOf 8 site with
    | none => simp
    | some k' =>
      simp only [Option.ite_none_right_eq_some, Option.some.injEq, Prod.mk.injEq]
      constructor
      · rintro ⟨⟨hrun, hid, hsite⟩, rfl, rfl⟩
        exact ⟨hrun, rfl, hid, hsite, rfl⟩
      · rintro ⟨hrun, rfl, hid, hsite, rfl⟩
        exact ⟨⟨hrun, hid, hsite⟩, rfl, rfl⟩

/-- R104: a unit result fails to match where one of the three conditions fails. -/
theorem CellRec.unitMatch_eq_none {r : CellRec} {id : Half} {site : Byte}
    (h : r.state ≠ .running ∨ (∀ a, r.assignment = some a → a.id ≠ id) ∨ r.sites.getD 0 ≤ site.toNat ∨ 8 ≤ site.toNat) :
    r.unitMatch id site = none := by
  refine Option.eq_none_iff_forall_ne_some.2 fun ⟨a, k⟩ hm => ?_
  obtain ⟨hrun, ha, hid, hsite, hk⟩ := CellRec.unitMatch_eq_some.1 hm
  rcases h with h | h | h | h
  · exact h hrun
  · exact h a ha hid
  · exact absurd hsite (Nat.not_lt.2 h)
  · exact absurd hk (by simp [indexOf_none h])

/-- R105: a cell record with one more stray unit. -/
def CellRec.strayed (r : CellRec) : CellRec :=
  { r with counters := { r.counters with strays := min (r.counters.strays + 1) 65535 } }

/-- R105: a stray changes nothing that R31 follows. -/
theorem Bay.unitFrame_stray {x : Ctx} {b : Bay} {c : CellNo} {id : Half} {site bin : Byte}
    (h : (b.cell c).unitMatch id site = none) : b.unitFrame x c id site bin = b.setCell c (b.cell c).strayed := by
  rw [Bay.unitFrame, h]
  exact Bay.modCell_quietly rfl

theorem records_setCell (s : State) (c : CellNo) (r : CellRec) :
    ({ s with bay := s.newEvent.bay.setCell c r } : State).records = s.records.setCell c r := rfl

/-- Settles O33: a UNIT that matches nothing writes the stray count of its cell, which no notice follows. -/
theorem unitStray : Obligations.UnitStray := by
  intro c lot id site bin sequence s hs r hstray
  have hnone : (s.newEvent.bay.cell c).unitMatch id site = none := CellRec.unitMatch_eq_none hstray
  exact takesAnd_owesNoMore_of_effect (b := s.newEvent.bay.setCell c r.strayed) (m := .unit id site bin sequence) hs
    (Bay.unitFrame_stray hnone) (records_setCell s c r.strayed) fun _ hn => hn

end Sys2Proof.Machine

/-!
SUPPORT. LOT.SHIP (R155) and the release that it makes (R156, R157): what the release of a COMPLETE lot does to the bay,
and each of the request's checks as a command.
-/

namespace Sys2Proof.Machine

/-! ### The release of a lot (R156, R157) -/

/-- R156: the record of a lot released with a number, its change stamp not yet advanced. -/
def LotRec.released (h : LotNo) (number : Stamp) (clock : Nat) (l : LotRec) : LotRec :=
  { l with
    state := .released, completedAt := none, quarantine := none, quarantineSpent := false
    release := some (l.recordOf h number clock) }

/-- R9: the state, which the stamp follows, changes. -/
theorem LotRec.followed_released_ne {h : LotNo} {number : Stamp} {clock : Nat} {l : LotRec} (hl : l.state = .complete) :
    (l.released h number clock).followed ≠ l.followed := by
  intro hf
  have hst : LotState.released = l.state := congrArg Prod.fst hf
  rw [hl] at hst
  cases hst

/-- R9, R156: the record that a release leaves is the lot's own, shipped, with the stamp advanced. -/
theorem stampedRec_released {h : LotNo} {number : Stamp} {clock : Nat} {l : LotRec} (hl : l.state = .complete) :
    stampedRec false l (l.released h number clock) = l.shipped h number clock :=
  if_neg (by simp [LotRec.followed_released_ne hl])

/-- R157: the bay with the next release number drawn. -/
def Bay.numbered (b : Bay) : Bay := { b with releaseCounter := nextRelease b.releaseCounter }

theorem Bay.releaseLot_eq (x : Ctx) (b : Bay) (h : LotNo) :
    b.releaseLot x h = b.numbered.modLot h (LotRec.released h b.releaseCounter x.clock) := rfl

theorem Bay.lot_releaseLot {x : Ctx} {b : Bay} {h : LotNo} (hl : (b.lot h).state = .complete) (hs : b.stamped = []) :
    (b.releaseLot x h).lot h = (b.lot h).shipped h b.releaseCounter x.clock := by
  have hnot : h ∉ b.numbered.stamped := hs ▸ List.not_mem_nil
  rw [Bay.releaseLot_eq, Bay.lot_modLot_self, decide_eq_false hnot]
  exact stampedRec_released hl

/-- R10: a release owes the lot's LOT.STATE notice and no other; R158's RELEASE mark is not of its making. -/
theorem Bay.mem_notices_releaseLot {x : Ctx} {b : Bay} {h : LotNo} {n : Notice} (hl : (b.lot h).state = .complete)
    (hs : b.stamped = []) : n ∈ (b.releaseLot x h).notices ↔ n = .lotState h ∨ n ∈ b.notices := by
  have hnot : h ∉ b.numbered.stamped := hs ▸ List.not_mem_nil
  rw [Bay.releaseLot_eq, Bay.mem_notices_modLot, and_iff_left ⟨LotRec.followed_released_ne hl, hnot⟩]
  rfl

/-- The drawing of a release number, before the change of one lot, changes the counter alone. -/
theorem records_modLot_numbered (s : State) (h : LotNo) (f : LotRec → LotRec) :
    ({ s with bay := s.newEvent.bay.numbered.modLot h f } : State).records
      = { s.records.setLot h (stampedRec false (s.bay.lot h) (f (s.bay.lot h))) with
          releaseCounter := nextRelease s.bay.releaseCounter } :=
  records_modLot { s with bay := s.bay.numbered } h f

theorem records_releaseLot {s : State} {h : LotNo} (hl : (s.bay.lot h).state = .complete) :
    ({ s with bay := s.newEvent.bay.releaseLot s.ctx h } : State).records
      = { s.records.setLot h ((s.bay.lot h).shipped h s.bay.releaseCounter s.part.clock) with
          releaseCounter := nextRelease s.bay.releaseCounter } := by
  rw [Bay.releaseLot_eq, records_modLot_numbered, ← stampedRec_released hl]
  rfl

/-! ### The checks of LOT.SHIP, in their order -/

theorem Bay.ship_not_complete {stamp : Stamp} {x : Ctx} {b : Bay} {h : LotNo} (hl : (b.lot h).state ≠ .complete) :
    b.ship stamp x h = (b, { status := .state, data := (b.lot h).answer ++ bytes32 (b.lot h).shippedNumber }) :=
  if_pos hl

theorem Bay.ship_stale {stamp : Stamp} {x : Ctx} {b : Bay} {h : LotNo} (hl : (b.lot h).state = .complete)
    (hstamp : stamp ≠ (b.lot h).stamp) : b.ship stamp x h = (b, { status := .stale, data := (b.lot h).answer }) :=
  (if_neg (not_not.2 hl)).trans (if_pos hstamp)

theorem Bay.ship_empty {stamp : Stamp} {x : Ctx} {b : Bay} {h : LotNo} (hl : (b.lot h).state = .complete)
    (hstamp : stamp = (b.lot h).stamp) (hcarried : (b.lot h).carried = 0) :
    b.ship stamp x h = (b, { status := .empty, data := (b.lot h).answer }) :=
  (if_neg (not_not.2 hl)).trans ((if_neg (not_not.2 hstamp)).trans (if_pos hcarried))

/-- R155: what is answered where every check is passed, `l` being the record as released. -/
def LotRec.shipReply (l : LotRec) : Reply :=
  { status := .done, data := l.answer ++ (l.release.map releaseBytes).getD [] }

theorem Bay.ship_taken {stamp : Stamp} {x : Ctx} {b : Bay} {h : LotNo} (hl : (b.lot h).state = .complete)
    (hstamp : stamp = (b.lot h).stamp) (hcarried : 0 < (b.lot h).carried) (hs : b.stamped = []) :
    b.ship stamp x h = (b.releaseLot x h, ((b.lot h).shipped h b.releaseCounter x.clock).shipReply) := by
  have hpassed : b.ship stamp x h = (b.releaseLot x h, ((b.releaseLot x h).lot h).shipReply) :=
    (if_neg (not_not.2 hl)).trans ((if_neg (not_not.2 hstamp)).trans (if_neg hcarried.ne'))
  rw [hpassed, Bay.lot_releaseLot hl hs]

/-! ### LOT.SHIP as a command -/

/-- R1: a request that names a lot out of range is answered UNKNOWN. -/
theorem State.lotRequest_out_of_range {s : State} {code : Byte} {tag handle : Half} {f : Ctx → Bay → LotNo → Bay × Reply}
    (h : 256 ≤ handle.toNat) :
    s.lotRequest code tag handle f = s.respond none code tag { status := .unknown, data := [] } := by
  rw [State.lotRequest, lotOf_none h]
  rfl

/-- A LOT.SHIP that leaves the bay as it is. -/
theorem lotShip_refused {tag handle : Half} {stamp : Stamp} {s : State} {p : Reply} (h : s.TakesRequests)
    (hh : handle.toNat < 256)
    (hp : s.newEvent.bay.ship stamp s.ctx ⟨handle.toNat, hh⟩ = (s.newEvent.bay, p)) :
    Answers (.lotShip tag handle stamp) s s.records (some ⟨handle.toNat, hh⟩) 0x22#8 tag p :=
  answers_of_lotRequest rfl h rfl hh hp rfl (by simp)

theorem lotShip_taken {tag handle : Half} {stamp : Stamp} {s : State} (h : s.TakesRequests) (hh : handle.toNat < 256)
    (hl : (s.bay.lot ⟨handle.toNat, hh⟩).state = .complete) (hstamp : stamp = (s.bay.lot ⟨handle.toNat, hh⟩).stamp)
    (hcarried : 0 < (s.bay.lot ⟨handle.toNat, hh⟩).carried) :
    Answers (.lotShip tag handle stamp) s
      { s.records.setLot ⟨handle.toNat, hh⟩
          ((s.bay.lot ⟨handle.toNat, hh⟩).shipped ⟨handle.toNat, hh⟩ s.bay.releaseCounter s.part.clock) with
        releaseCounter := nextRelease s.bay.releaseCounter }
      (some ⟨handle.toNat, hh⟩) 0x22#8 tag
      ((s.bay.lot ⟨handle.toNat, hh⟩).shipped ⟨handle.toNat, hh⟩ s.bay.releaseCounter s.part.clock).shipReply
      [.lotState ⟨handle.toNat, hh⟩] :=
  answers_of_lotRequest rfl h rfl hh (Bay.ship_taken hl hstamp hcarried rfl) (records_releaseLot hl)
    (List.forall_mem_singleton.2 ((Bay.mem_notices_releaseLot (b := s.newEvent.bay) hl rfl).2 (.inl rfl)))

/-- R158: a lot's RELEASE mark that is clear stays clear. -/
theorem lotShip_sets_no_release {tag handle : Half} {stamp : Stamp} {s t : State} (h : s.TakesRequests)
    (hh : handle.toNat < 256) (hl : (s.bay.lot ⟨handle.toNat, hh⟩).state = .complete)
    (hstamp : stamp = (s.bay.lot ⟨handle.toNat, hh⟩).stamp) (hcarried : 0 < (s.bay.lot ⟨handle.toNat, hh⟩).carried)
    (hclear : .release ⟨handle.toNat, hh⟩ ∉ s.bay.notices) (ht : exec (.lotShip tag handle stamp) s = .next t) :
    .release ⟨handle.toNat, hh⟩ ∉ t.bay.notices := by
  have hrel : .release ⟨handle.toNat, hh⟩ ∉ (s.newEvent.bay.releaseLot s.ctx ⟨handle.toNat, hh⟩).notices := by
    rw [Bay.mem_notices_releaseLot (b := s.newEvent.bay) hl rfl]
    exact not_or.2 ⟨nofun, hclear⟩
  exact not_owed_of_lotRequest rfl h rfl hh (Bay.ship_taken hl hstamp hcarried rfl) hrel ht

/-- Settles O23: each check that fails answers with the bay as it is; where all are passed the lot is released, which owes
its LOT.STATE notice alone, and the claims behind the request set no mark. -/
theorem lotShip : Obligations.LotShip := by
  intro tag handle stamp s hs
  refine ⟨fun hout => answers_unchanged rfl hs (State.lotRequest_out_of_range hout), fun hh => ?_⟩
  refine ⟨?state, ?stale, ?empty, ?done⟩
  case state => exact fun hl => lotShip_refused hs hh (Bay.ship_not_complete hl)
  case stale => exact fun hl hstamp => lotShip_refused hs hh (Bay.ship_stale hl hstamp)
  case empty => exact fun hl hstamp hcarried => lotShip_refused hs hh (Bay.ship_empty hl hstamp hcarried)
  case done =>
    intro hl hstamp hcarried
    have hanswers := lotShip_taken (tag := tag) hs hh hl hstamp hcarried
    refine ⟨hanswers, ?_⟩
    obtain ⟨t, ht, -⟩ := hanswers
    exact ⟨t, ht, fun hclear => lotShip_sets_no_release hs hh hl hstamp hcarried hclear ht⟩

end Sys2Proof.Machine

/-!
SUPPORT. What every operation on the bay keeps, as preorders between records before and after it: of a cell record its
command queue's law and its slot law, of a channel that its pull waits for something and that it takes no more buffers,
of the bay those of all its records, its rotation list and its notice list (`Bay.Drifts`), and with them the law of the
lot table and the dispatch queue (`Bay.Evolves`).
-/

namespace Sys2Proof.Machine

/-! ### Cells and channels -/

/-- R29, R66: the assignment of a cell, OFFERED or RUNNING, names its program slot. -/
def CellRec.SlotLaw (r : CellRec) : Prop :=
  r.state ∈ [.offered, .running] → ∃ (a : Assignment) (k : SlotNo), r.assignment = some a ∧ a.slot = some k

/-- What a change of a cell record keeps. -/
structure CellRec.Evolves (r r' : CellRec) : Prop where
  commands : CommandLaw r.commands → CommandLaw r'.commands
  slot : r.SlotLaw → r'.SlotLaw

theorem CellRec.Evolves.refl (r : CellRec) : r.Evolves r := ⟨id, id⟩

theorem CellRec.Evolves.trans {r r' r'' : CellRec} (h : r.Evolves r') (h' : r'.Evolves r'') : r.Evolves r'' :=
  ⟨h'.commands ∘ h.commands, h'.slot ∘ h.slot⟩

/-- A change that leaves the commands, the state and the assignment of a cell. -/
theorem CellRec.Evolves.of_eq {r r' : CellRec} (hk : r'.commands = r.commands) (hs : r'.state = r.state)
    (ha : r'.assignment = r.assignment) : r.Evolves r' :=
  ⟨by rw [hk]; exact id, by simp only [CellRec.SlotLaw, hs, ha]; exact id⟩

/-- A cell that leaves OFFERED and RUNNING needs no slot. -/
theorem CellRec.Evolves.of_state {r r' : CellRec} (hk : r'.commands = r.commands) (hs : r'.state ∉ [.offered, .running]) :
    r.Evolves r' :=
  ⟨by rw [hk]; exact id, fun _ h => absurd h hs⟩

/-- R89, R90: the channel's pull, if one is outstanding, has a segment still to come. -/
def Channel.Open (ch : Channel) : Prop := ∀ p : Pull, ch.pull = some p → p.arrived < p.n

/-- R161: the buffers that a channel takes, with a segment in them or reserved for one. -/
def Channel.taken (ch : Channel) : Nat := ch.segs.length + ch.reserved

/-- What a change of a channel in the bay keeps. -/
structure Channel.Evolves (ch ch' : Channel) : Prop where
  pull : ch.Open → ch'.Open
  taken : ch.Open → ch'.taken ≤ ch.taken

theorem Channel.Evolves.refl (ch : Channel) : ch.Evolves ch := ⟨id, fun _ => le_rfl⟩

theorem Channel.Evolves.trans {ch ch' ch'' : Channel} (h : ch.Evolves ch') (h' : ch'.Evolves ch'') : ch.Evolves ch'' :=
  ⟨h'.pull ∘ h.pull, fun ho => (h'.taken (h.pull ho)).trans (h.taken ho)⟩

/-- A channel without a pull takes the buffers of its segments. -/
theorem Channel.Evolves.of_none {ch ch' : Channel} (hp : ch'.pull = none) (hs : ch'.segs.length ≤ ch.segs.length) :
    ch.Evolves ch' := by
  have hopen : ch'.Open := fun p h => nomatch hp.symm.trans h
  refine ⟨fun _ => hopen, fun _ => ?_⟩
  simp only [Channel.taken, Channel.reserved, hp]
  omega

/-- A channel that keeps its pull and loses segments. -/
theorem Channel.Evolves.of_segs {ch ch' : Channel} (hp : ch'.pull = ch.pull) (hs : ch'.segs.length ≤ ch.segs.length) :
    ch.Evolves ch' := by
  refine ⟨by simp only [Channel.Open, hp]; exact id, fun _ => ?_⟩
  simp only [Channel.taken, Channel.reserved, hp]
  omega

/-! ### The bay, less the law of its lots -/

/-- What every operation on the bay keeps, the law of the lots apart. -/
structure Bay.Drifts (b b' : Bay) : Prop where
  rotation : b.rotation.Perm allCells → b'.rotation.Perm allCells
  notices : b.notices.Nodup → b'.notices.Nodup
  cells : ∀ c, (b.cell c).Evolves (b'.cell c)
  chans : ∀ k, (b.chan k).Evolves (b'.chan k)

theorem Bay.Drifts.refl (b : Bay) : b.Drifts b := ⟨id, id, fun _ => .refl _, fun _ => .refl _⟩

theorem Bay.Drifts.trans {b b' b'' : Bay} (h : b.Drifts b') (h' : b'.Drifts b'') : b.Drifts b'' :=
  ⟨h'.rotation ∘ h.rotation, h'.notices ∘ h.notices, fun c => (h.cells c).trans (h'.cells c),
    fun k => (h.chans k).trans (h'.chans k)⟩

/-- A change of nothing that these laws are about. -/
theorem Bay.Drifts.of_eq {b b' : Bay} (hr : b'.rotation = b.rotation) (hn : b'.notices = b.notices)
    (hc : b'.cells = b.cells) (hk : b'.channels = b.channels) : b.Drifts b' :=
  ⟨by rw [hr]; exact id, by rw [hn]; exact id, fun c => by simp only [Bay.cell, hc]; exact .refl _,
    fun k => by simp only [Bay.chan, hk]; exact .refl _⟩

theorem Bay.Drifts.owe (b : Bay) (n : Notice) : b.Drifts (b.owe n) :=
  ⟨by rw [Bay.rotation_owe]; exact id, Bay.nodup_owe n, fun c => by simp only [Bay.cell, Bay.cells_owe]; exact .refl _,
    fun k => by simp only [Bay.chan, Bay.channels_owe]; exact .refl _⟩

theorem Bay.Drifts.unowe (b : Bay) (n : Notice) : b.Drifts (b.unowe n) :=
  ⟨id, fun h => h.filter _, fun _ => .refl _, fun _ => .refl _⟩

theorem Bay.Drifts.stampLot (b : Bay) (h : LotNo) : b.Drifts (b.stampLot h) := by
  unfold Bay.stampLot
  split
  · exact .refl b
  · refine .trans ?_ (.owe _ _)
    exact .of_eq rfl rfl rfl rfl

theorem Bay.Drifts.modLot (b : Bay) (h : LotNo) (f : LotRec → LotRec) : b.Drifts (b.modLot h f) := by
  have hset : b.Drifts (b.setLot h (f (b.lot h))) := .of_eq rfl rfl rfl rfl
  unfold Bay.modLot
  split
  · exact hset
  · exact hset.trans (.stampLot _ _)

theorem Bay.Drifts.setCell {b : Bay} {c : CellNo} {r : CellRec} (h : (b.cell c).Evolves r) : b.Drifts (b.setCell c r) := by
  refine ⟨id, id, fun c' => ?_, fun _ => .refl _⟩
  by_cases hc : c = c'
  · subst hc
    rwa [Bay.cell_setCell_self]
  · rw [Bay.cell_setCell_ne b r hc]
    exact .refl _

theorem Bay.Drifts.modCell {b : Bay} {c : CellNo} {f : CellRec → CellRec} (h : (b.cell c).Evolves (f (b.cell c))) :
    b.Drifts (b.modCell c f) := by
  unfold Bay.modCell
  split
  · exact .setCell h
  · exact (Bay.Drifts.setCell h).trans (.owe _ _)

theorem Bay.Drifts.modChan {b : Bay} {k : ChanNo} {f : Channel → Channel} (h : (b.chan k).Evolves (f (b.chan k))) :
    b.Drifts (b.modChan k f) := by
  refine ⟨id, id, fun _ => .refl _, fun k' => ?_⟩
  by_cases hk : k = k'
  · subst hk
    rwa [Bay.chan_modChan_self]
  · rw [Bay.chan_modChan_ne b f hk]
    exact .refl _

theorem Bay.Drifts.leaveQueue (b : Bay) (h : LotNo) : b.Drifts (b.leaveQueue h) :=
  (Bay.Drifts.of_eq (b := b) (b' := { b with queue := b.queue.filter (· ≠ h) }) rfl rfl rfl rfl).trans
    (.modLot _ h fun l => { l with ageDeadline := none })

theorem Bay.Drifts.enqueue (b : Bay) (h : LotNo) : b.Drifts (b.enqueue h) := .of_eq rfl rfl rfl rfl

/-! ### The law of the lots -/

/-- The law of the lot table and the dispatch queue, as a law of the bay. -/
def Bay.LotLaw (b : Bay) : Prop :=
  (∀ h : LotNo, (b.lot h).HoldLaw ∧ (b.lot h).QuantityLaw) ∧ (∀ h : LotNo, h ∈ b.queue ↔ (b.lot h).state = .active)
    ∧ b.queue.Pairwise fun h h' => queuedBefore (b.lot h) h (b.lot h') h' = true

theorem State.lotLaw_iff (s : State) : s.LotLaw ↔ s.bay.LotLaw := Iff.rfl

/-- What every operation on the bay keeps. -/
structure Bay.Evolves (b b' : Bay) : Prop where
  drifts : b.Drifts b'
  lots : b.LotLaw → b'.LotLaw

theorem Bay.Evolves.refl (b : Bay) : b.Evolves b := ⟨.refl b, id⟩

theorem Bay.Evolves.trans {b b' b'' : Bay} (h : b.Evolves b') (h' : b'.Evolves b'') : b.Evolves b'' :=
  ⟨h.drifts.trans h'.drifts, h'.lots ∘ h.lots⟩

/-- An operation that leaves the lots and the dispatch queue. -/
theorem Bay.Evolves.of_drifts {b b' : Bay} (hd : b.Drifts b') (hl : b'.lots = b.lots) (hq : b'.queue = b.queue) :
    b.Evolves b' := ⟨hd, by simp only [Bay.LotLaw, Bay.lot, hl, hq]; exact id⟩

theorem Bay.Evolves.of_eq {b b' : Bay} (hr : b'.rotation = b.rotation) (hn : b'.notices = b.notices)
    (hc : b'.cells = b.cells) (hk : b'.channels = b.channels) (hl : b'.lots = b.lots) (hq : b'.queue = b.queue) :
    b.Evolves b' := .of_drifts (.of_eq hr hn hc hk) hl hq

theorem Bay.Evolves.owe (b : Bay) (n : Notice) : b.Evolves (b.owe n) := .of_drifts (.owe b n) (by simp) (by simp)

theorem Bay.Evolves.unowe (b : Bay) (n : Notice) : b.Evolves (b.unowe n) := .of_drifts (.unowe b n) rfl rfl

theorem Bay.Evolves.setCell {b : Bay} {c : CellNo} {r : CellRec} (h : (b.cell c).Evolves r) : b.Evolves (b.setCell c r) :=
  .of_drifts (.setCell h) rfl rfl

theorem Bay.Evolves.modCell {b : Bay} {c : CellNo} {f : CellRec → CellRec} (h : (b.cell c).Evolves (f (b.cell c))) :
    b.Evolves (b.modCell c f) := .of_drifts (.modCell h) (by simp) (by simp)

theorem Bay.Evolves.modChan {b : Bay} {k : ChanNo} {f : Channel → Channel} (h : (b.chan k).Evolves (f (b.chan k))) :
    b.Evolves (b.modChan k f) := .of_drifts (.modChan h) rfl rfl

/-- A chain of operations, one for each member of a list. -/
theorem Bay.Evolves.foldl {α : Type} {f : Bay → α → Bay} (hf : ∀ (b : Bay) (a : α), b.Evolves (f b a)) :
    ∀ (l : List α) (b : Bay), b.Evolves (l.foldl f b)
  | [], b => .refl b
  | a :: l, b => (hf b a).trans (Bay.Evolves.foldl hf l (f b a))

/-! ### One lot apart -/

/-- The law of the lot table and the dispatch queue for every lot but one. -/
structure Bay.LotLawBut (b : Bay) (h : LotNo) : Prop where
  recs : ∀ h', h ≠ h' → (b.lot h').HoldLaw ∧ (b.lot h').QuantityLaw
  queued : ∀ h', h ≠ h' → (h' ∈ b.queue ↔ (b.lot h').state = .active)
  order : (b.queue.filter (· ≠ h)).Pairwise fun h h' => queuedBefore (b.lot h) h (b.lot h') h' = true

theorem Bay.LotLaw.but {b : Bay} (hb : b.LotLaw) (h : LotNo) : b.LotLawBut h :=
  ⟨fun h' _ => hb.1 h', fun h' _ => hb.2.1 h', hb.2.2.filter _⟩

/-- The law of the other lots does not see the record or the place of the one. -/
theorem Bay.LotLawBut.of_others {b b' : Bay} {h : LotNo} (hb : b.LotLawBut h)
    (hl : ∀ h', h ≠ h' → b'.lot h' = b.lot h') (hq : b'.queue.filter (· ≠ h) = b.queue.filter (· ≠ h)) : b'.LotLawBut h := by
  refine ⟨fun h' hne => by rw [hl h' hne]; exact hb.recs h' hne, fun h' hne => ?_, ?_⟩
  · rw [hl h' hne, ← hb.queued h' hne]
    have hmem (q : List LotNo) : h' ∈ q ↔ h' ∈ q.filter (· ≠ h) := by simp [hne.symm]
    rw [hmem b'.queue, hq, ← hmem]
  · rw [hq]
    refine hb.order.imp_of_mem fun {x y} hx hy hxy => ?_
    simp only [List.mem_filter, decide_eq_true_eq] at hx hy
    rwa [hl x (Ne.symm hx.2), hl y (Ne.symm hy.2)]

theorem Bay.LotLawBut.modLot {b : Bay} {h : LotNo} (hb : b.LotLawBut h) (f : LotRec → LotRec) : (b.modLot h f).LotLawBut h :=
  hb.of_others (fun _ hne => Bay.lot_modLot_ne b f hne) (by rw [Bay.queue_modLot])

theorem Bay.LotLawBut.leaveQueue {b : Bay} {h : LotNo} (hb : b.LotLawBut h) : (b.leaveQueue h).LotLawBut h := by
  refine hb.of_others (fun _ hne => ?_) ?_
  · exact (Bay.lot_modLot_ne _ _ hne)
  · rw [Bay.queue_leaveQueue, List.filter_filter]
    simp

/-- A lot that is not ACTIVE, and out of the queue, joins the law of the others. -/
theorem Bay.LotLawBut.of_idle {b : Bay} {h : LotNo} (hb : b.LotLawBut h) (hq : h ∉ b.queue) (hs : (b.lot h).state ≠ .active)
    (hh : (b.lot h).HoldLaw) (hw : (b.lot h).QuantityLaw) : b.LotLaw := by
  have hf : b.queue.filter (· ≠ h) = b.queue :=
    List.filter_eq_self.2 fun x hx => decide_eq_true fun he => hq (he ▸ hx)
  refine ⟨fun h' => ?_, fun h' => ?_, hf ▸ hb.order⟩
  · by_cases he : h = h'
    · exact he ▸ ⟨hh, hw⟩
    · exact hb.recs h' he
  · by_cases he : h = h'
    · subst he
      exact iff_of_false hq hs
    · exact hb.queued h' he

/-- R51: the order of the queue is strict and total. -/
theorem queuedBefore_total {l l' : LotRec} {h h' : LotNo} (hne : h ≠ h') (hn : queuedBefore l h l' h' = false) :
    queuedBefore l' h' l h = true := by
  have hval : h.val ≠ h'.val := Fin.val_ne_of_ne hne
  unfold queuedBefore at hn ⊢
  cases hc : l.cls <;> cases hc' : l'.cls <;> grind

theorem queuedBefore_trans {l l' l'' : LotRec} {h h' h'' : LotNo} (h1 : queuedBefore l h l' h' = true)
    (h2 : queuedBefore l' h' l'' h'' = true) : queuedBefore l h l'' h'' = true := by
  unfold queuedBefore at h1 h2 ⊢
  grind

/-- R51, R52: a lot put at its place leaves the queue in its order. -/
theorem pairwise_place {b : Bay} {h : LotNo} {q : List LotNo} (hn : ∀ x ∈ q, x ≠ h)
    (hq : q.Pairwise fun h h' => queuedBefore (b.lot h) h (b.lot h') h' = true) :
    (q.takeWhile (b.ahead · h) ++ h :: q.dropWhile (b.ahead · h)).Pairwise
      fun h h' => queuedBefore (b.lot h) h (b.lot h') h' = true := by
  induction q with
  | nil => simp
  | cons x q ih =>
    obtain ⟨hx, hq⟩ := List.pairwise_cons.1 hq
    have hmem : ∀ y ∈ q.takeWhile (b.ahead · h) ++ h :: q.dropWhile (b.ahead · h), y = h ∨ y ∈ q := by
      intro y hy
      rw [List.mem_append, List.mem_cons] at hy
      rcases hy with hy | hy | hy
      · exact .inr ((List.takeWhile_prefix _).subset hy)
      · exact .inl hy
      · exact .inr ((List.dropWhile_suffix _).subset hy)
    by_cases ha : b.ahead x h = true
    · rw [List.takeWhile_cons_of_pos (p := (b.ahead · h)) ha, List.dropWhile_cons_of_pos (p := (b.ahead · h)) ha,
        List.cons_append]
      refine List.pairwise_cons.2 ⟨fun y hy => ?_, ih (fun y hy => hn y (List.mem_cons_of_mem _ hy)) hq⟩
      rcases hmem y hy with rfl | hy
      · rwa [← Bay.ahead_eq]
      · exact hx y hy
    · rw [List.takeWhile_cons_of_neg (p := (b.ahead · h)) ha, List.dropWhile_cons_of_neg (p := (b.ahead · h)) ha,
        List.nil_append]
      have hhx : queuedBefore (b.lot h) h (b.lot x) x = true :=
        queuedBefore_total (hn x List.mem_cons_self) (by rw [← Bay.ahead_eq]; simpa using ha)
      refine List.pairwise_cons.2 ⟨fun y hy => ?_, List.pairwise_cons.2 ⟨hx, hq⟩⟩
      rcases List.mem_cons.1 hy with rfl | hy
      · exact hhx
      · exact queuedBefore_trans hhx (hx y hy)

/-- A lot that is ACTIVE joins the law of the others at its place in the queue. -/
theorem Bay.LotLawBut.enqueue {b : Bay} {h : LotNo} (hb : b.LotLawBut h) (hs : (b.lot h).state = .active)
    (hh : (b.lot h).HoldLaw) (hw : (b.lot h).QuantityLaw) : (b.enqueue h).LotLaw := by
  refine ⟨fun h' => ?_, fun h' => ?_, ?_⟩
  · by_cases he : h = h'
    · exact he ▸ ⟨hh, hw⟩
    · exact hb.recs h' he
  · rw [Bay.mem_enqueue]
    by_cases he : h = h'
    · subst he
      exact iff_of_true (.inl rfl) hs
    · exact (or_iff_right (Ne.symm he)).trans (hb.queued h' he)
  · exact pairwise_place (fun x hx => by simpa using (List.mem_filter.1 hx).2) hb.order

/-! ### Changes of a lot's record that its law does not see -/

/-- The two records agree in what the law of the lots is about. -/
structure LotRec.Like (l l' : LotRec) : Prop where
  state : l'.state = l.state
  saved : l'.saved = l.saved
  holds : l'.holds = l.holds
  remaining : l'.remaining = l.remaining
  route : l'.route = l.route
  cls : l'.cls = l.cls
  queuedAt : l'.queuedAt = l.queuedAt

@[simp] theorem stampedRec_state (s : Bool) (l l' : LotRec) : (stampedRec s l l').state = l'.state := by
  unfold stampedRec; split <;> rfl
@[simp] theorem stampedRec_saved (s : Bool) (l l' : LotRec) : (stampedRec s l l').saved = l'.saved := by
  unfold stampedRec; split <;> rfl
@[simp] theorem stampedRec_holds (s : Bool) (l l' : LotRec) : (stampedRec s l l').holds = l'.holds := by
  unfold stampedRec; split <;> rfl
@[simp] theorem stampedRec_remaining (s : Bool) (l l' : LotRec) : (stampedRec s l l').remaining = l'.remaining := by
  unfold stampedRec; split <;> rfl
@[simp] theorem stampedRec_route (s : Bool) (l l' : LotRec) : (stampedRec s l l').route = l'.route := by
  unfold stampedRec; split <;> rfl
@[simp] theorem stampedRec_cls (s : Bool) (l l' : LotRec) : (stampedRec s l l').cls = l'.cls := by
  unfold stampedRec; split <;> rfl
@[simp] theorem stampedRec_queuedAt (s : Bool) (l l' : LotRec) : (stampedRec s l l').queuedAt = l'.queuedAt := by
  unfold stampedRec; split <;> rfl
@[simp] theorem stampedRec_openSublots (s : Bool) (l l' : LotRec) : (stampedRec s l l').openSublots = l'.openSublots := by
  unfold stampedRec; split <;> rfl
@[simp] theorem stampedRec_stepIndex (s : Bool) (l l' : LotRec) : (stampedRec s l l').stepIndex = l'.stepIndex := by
  unfold stampedRec; split <;> rfl
@[simp] theorem stampedRec_steps (s : Bool) (l l' : LotRec) : (stampedRec s l l').steps = l'.steps := by
  unfold stampedRec; split <;> rfl

theorem stampedRec_like (s : Bool) (l l' : LotRec) : l'.Like (stampedRec s l l') := by
  constructor <;> simp

theorem LotRec.Like.refl (l : LotRec) : l.Like l := ⟨rfl, rfl, rfl, rfl, rfl, rfl, rfl⟩

theorem LotRec.Like.trans {l l' l'' : LotRec} (h : l.Like l') (h' : l'.Like l'') : l.Like l'' :=
  ⟨h'.state.trans h.state, h'.saved.trans h.saved, h'.holds.trans h.holds, h'.remaining.trans h.remaining,
    h'.route.trans h.route, h'.cls.trans h.cls, h'.queuedAt.trans h.queuedAt⟩

theorem LotRec.Like.holdLaw {l l' : LotRec} (h : l.Like l') (hl : l.HoldLaw) : l'.HoldLaw := by
  unfold LotRec.HoldLaw at hl ⊢
  rw [h.state, h.saved, h.holds]
  exact hl

theorem LotRec.Like.quantityLaw {l l' : LotRec} (h : l.Like l') (hl : l.QuantityLaw) : l'.QuantityLaw := by
  unfold LotRec.QuantityLaw at hl ⊢
  rw [h.state, h.saved, h.remaining, h.route]
  exact hl

theorem LotRec.Like.queuedBefore {l l' m m' : LotRec} (h : l.Like l') (hm : m.Like m') (x y : LotNo) :
    queuedBefore l' x m' y = queuedBefore l x m y := by
  unfold Machine.queuedBefore
  rw [h.cls, h.queuedAt, hm.cls, hm.queuedAt]

/-- Lots that are like those before, in the same queue. -/
theorem Bay.LotLaw.of_like {b b' : Bay} (hb : b.LotLaw) (hl : ∀ h, (b.lot h).Like (b'.lot h)) (hq : b'.queue = b.queue) :
    b'.LotLaw := by
  obtain ⟨hrec, hmem, hord⟩ := hb
  refine ⟨fun h => ⟨(hl h).holdLaw (hrec h).1, (hl h).quantityLaw (hrec h).2⟩, fun h => ?_, ?_⟩
  · rw [hq, (hl h).state]
    exact hmem h
  · rw [hq]
    exact hord.imp fun {x y} hxy => by rwa [(hl x).queuedBefore (hl y)]

theorem Bay.like_modLot {b : Bay} {h : LotNo} {f : LotRec → LotRec} (hf : (b.lot h).Like (f (b.lot h))) (h' : LotNo) :
    (b.lot h').Like ((b.modLot h f).lot h') := by
  by_cases he : h = h'
  · subst he
    rw [Bay.lot_modLot_self]
    exact hf.trans (stampedRec_like ..)
  · rw [Bay.lot_modLot_ne b f he]
    exact .refl _

theorem Bay.Evolves.modLot {b : Bay} {h : LotNo} {f : LotRec → LotRec} (hf : (b.lot h).Like (f (b.lot h))) :
    b.Evolves (b.modLot h f) :=
  ⟨.modLot b h f, fun hb => hb.of_like (Bay.like_modLot hf) (by rw [Bay.queue_modLot])⟩

end Sys2Proof.Machine

/-!
SUPPORT. What loads and load channels change of the bay (chapter 4): the channels, the load wait queue and the load records
of the cells, and nothing else (`Bay.Reloads`).
-/

namespace Sys2Proof.Machine

/-- A change of the channels, the load wait queue and the cells' load records alone. -/
structure Bay.Reloads (b b' : Bay) : Prop where
  lots : b'.lots = b.lots
  queue : b'.queue = b.queue
  rotation : b'.rotation = b.rotation
  nextSublot : b'.nextSublot = b.nextSublot
  lastGranted : b'.lastGranted = b.lastGranted
  releaseCounter : b'.releaseCounter = b.releaseCounter
  notices : b'.notices = b.notices
  stamped : b'.stamped = b.stamped
  cells : ∀ c, ∃ ld, b'.cell c = { b.cell c with load := ld }
  chans : ∀ k, (b.chan k).Evolves (b'.chan k)

theorem Bay.Reloads.refl (b : Bay) : b.Reloads b :=
  ⟨rfl, rfl, rfl, rfl, rfl, rfl, rfl, rfl, fun c => ⟨(b.cell c).load, rfl⟩, fun _ => .refl _⟩

theorem Bay.Reloads.trans {b b' b'' : Bay} (h : b.Reloads b') (h' : b'.Reloads b'') : b.Reloads b'' := by
  refine ⟨h'.lots.trans h.lots, h'.queue.trans h.queue, h'.rotation.trans h.rotation, h'.nextSublot.trans h.nextSublot,
    h'.lastGranted.trans h.lastGranted, h'.releaseCounter.trans h.releaseCounter, h'.notices.trans h.notices,
    h'.stamped.trans h.stamped, fun c => ?_, fun k => (h.chans k).trans (h'.chans k)⟩
  obtain ⟨ld, hc⟩ := h.cells c
  obtain ⟨ld', hc'⟩ := h'.cells c
  exact ⟨ld', by rw [hc', hc]⟩

theorem Bay.Reloads.evolves {b b' : Bay} (h : b.Reloads b') : b.Evolves b' := by
  refine .of_drifts ⟨by rw [h.rotation]; exact id, by rw [h.notices]; exact id, fun c => ?_, h.chans⟩ h.lots h.queue
  obtain ⟨ld, hc⟩ := h.cells c
  exact .of_eq (by rw [hc]) (by rw [hc]) (by rw [hc])

theorem Bay.Reloads.foldl {α : Type} {f : Bay → α → Bay} (hf : ∀ (b : Bay) (a : α), b.Reloads (f b a)) :
    ∀ (l : List α) (b : Bay), b.Reloads (l.foldl f b)
  | [], b => .refl b
  | a :: l, b => (hf b a).trans (Bay.Reloads.foldl hf l (f b a))

theorem Bay.Reloads.waitQueue (b : Bay) (q : List CellNo) : b.Reloads { b with waitQueue := q } :=
  ⟨rfl, rfl, rfl, rfl, rfl, rfl, rfl, rfl, fun c => ⟨(b.cell c).load, rfl⟩, fun _ => .refl _⟩

theorem Bay.Reloads.modChan {b : Bay} {k : ChanNo} {f : Channel → Channel} (h : (b.chan k).Evolves (f (b.chan k))) :
    b.Reloads (b.modChan k f) :=
  ⟨rfl, rfl, rfl, rfl, rfl, rfl, rfl, rfl, fun c => ⟨(b.cell c).load, rfl⟩, (Bay.Drifts.modChan h).chans⟩

/-- A change of a cell's load alone owes no notice (R31). -/
theorem Bay.modCell_load (b : Bay) (c : CellNo) (f : CellRec → Option LoadRec) :
    b.modCell c (fun r => { r with load := f r }) = b.setCell c { b.cell c with load := f (b.cell c) } :=
  Bay.modCell_quietly rfl

theorem Bay.Reloads.modCell (b : Bay) (c : CellNo) (f : CellRec → Option LoadRec) :
    b.Reloads (b.modCell c fun r => { r with load := f r }) := by
  rw [Bay.modCell_load]
  refine ⟨rfl, rfl, rfl, rfl, rfl, rfl, rfl, rfl, fun c' => ?_, fun _ => .refl _⟩
  by_cases hc : c = c'
  · subst hc
    exact ⟨_, Bay.cell_setCell_self ..⟩
  · exact ⟨(b.cell c').load, Bay.cell_setCell_ne _ _ hc⟩

theorem Bay.Reloads.setPlace (b : Bay) (c : CellNo) (p : LoadPlace) : b.Reloads (b.setPlace c p) :=
  .modCell b c fun r => r.load.map fun ld : LoadRec => { ld with place := p }

theorem Bay.Reloads.startChannel (x : Ctx) (b : Bay) (k : ChanNo) (c : CellNo) (ld : LoadRec) :
    b.Reloads (b.startChannel x k c ld) :=
  (Bay.Reloads.modChan (.of_none rfl (Nat.zero_le _))).trans (.setPlace _ c _)

theorem Bay.Reloads.joinTargets (b : Bay) (k : ChanNo) (c : CellNo) (ld : LoadRec) : b.Reloads (b.joinTargets k c ld) :=
  (Bay.Reloads.modChan (.of_segs rfl le_rfl)).trans (.setPlace _ c _)

theorem Bay.Reloads.placeLoad (x : Ctx) (b : Bay) (c : CellNo) : b.Reloads (b.placeLoad x c) := by
  unfold Bay.placeLoad
  split
  · exact .refl b
  · next ld _ =>
    dsimp only
    split
    · exact .joinTargets b _ c ld
    · split
      · exact (Bay.Reloads.modChan (.of_segs rfl le_rfl)).trans (.setPlace _ c _)
      · split
        · exact .startChannel x b _ c ld
        · exact (Bay.Reloads.waitQueue b _).trans (.setPlace _ c _)

theorem Bay.Reloads.takeSameImage (b : Bay) (k : ChanNo) (c : CellNo) : b.Reloads (b.takeSameImage k c) := by
  unfold Bay.takeSameImage
  split
  · exact .refl b
  · split
    · exact (Bay.Reloads.waitQueue b _).trans (.joinTargets _ k c _)
    · exact .refl b

theorem Bay.Reloads.takeWaiting (x : Ctx) (b : Bay) (k : ChanNo) : b.Reloads (b.takeWaiting x k) := by
  unfold Bay.takeWaiting
  split
  · split
    · exact .refl b
    · split
      · exact .refl b
      · exact ((Bay.Reloads.waitQueue b _).trans (.startChannel x _ k _ _)).trans
          (.foldl (fun b c => .takeSameImage b k c) _ _)
  · exact .refl b

theorem Bay.Reloads.goIdle (x : Ctx) (b : Bay) (k : ChanNo) : b.Reloads (b.goIdle x k) :=
  (Bay.Reloads.modChan (.of_none rfl (Nat.zero_le _))).trans (.takeWaiting x _ k)

theorem Bay.Reloads.roundEnd (x : Ctx) (b : Bay) (k : ChanNo) : b.Reloads (b.roundEnd x k) := by
  unfold Bay.roundEnd
  split
  · exact .goIdle x b k
  · exact (Bay.Reloads.modChan (.of_none rfl (Nat.zero_le _))).trans (.foldl (fun b (e : CellNo × SlotNo) => .setPlace b e.1 .target) _ _)

theorem Bay.Reloads.endIfDone (x : Ctx) (b : Bay) (k : ChanNo) : b.Reloads (b.endIfDone x k) := by
  unfold Bay.endIfDone
  dsimp only
  split
  · exact .roundEnd x b k
  · exact .refl b

theorem Bay.Reloads.targetLeft (x : Ctx) (b : Bay) (k : ChanNo) : b.Reloads (b.targetLeft x k) := by
  unfold Bay.targetLeft
  dsimp only
  split
  · exact .modChan (.of_segs rfl (List.length_filter_le _ _))
  · split
    · exact .modChan (.of_segs rfl (Nat.zero_le _))
    · exact (Bay.Reloads.modChan (.of_segs rfl (Nat.zero_le _))).trans (.roundEnd x _ k)

theorem Bay.Reloads.leaveChannel (x : Ctx) (c : CellNo) (b : Bay) (k : ChanNo) : b.Reloads (b.leaveChannel x c k) := by
  have hmod : b.Reloads (b.modChan k fun ch =>
      { ch with targets := ch.targets.filter (·.cell ≠ c), nextRound := ch.nextRound.filter (·.1 ≠ c) }) :=
    .modChan (.of_segs rfl le_rfl)
  unfold Bay.leaveChannel
  dsimp only
  split
  · exact hmod.trans (.targetLeft x _ k)
  · exact hmod

theorem Bay.Reloads.leaveLists (x : Ctx) (b : Bay) (c : CellNo) : b.Reloads (b.leaveLists x c) :=
  (Bay.Reloads.waitQueue b _).trans (.foldl (Bay.Reloads.leaveChannel x c) _ _)

theorem Bay.Reloads.pullComplete (x : Ctx) (b : Bay) (k : ChanNo) : b.Reloads (b.pullComplete x k) := by
  have hmod (m : ChannelMode) (q : Channel → Bool) :
      b.Reloads (b.modChan k fun ch => { ch with modeInForce := m, pull := none, slotHeld := q ch }) :=
    .modChan (.of_none rfl le_rfl)
  unfold Bay.pullComplete
  dsimp only
  split
  · exact (hmod _ _).trans (.roundEnd x _ k)
  · exact (hmod _ _).trans (.endIfDone x _ k)

/-- R161: an expected segment takes the buffer that was reserved for it. -/
theorem Channel.Evolves.arrive {ch : Channel} {p : Pull} {segs : List SegBuf} (hp : ch.pull = some p)
    (hs : segs.length ≤ ch.segs.length + 1) (hn : p.arrived + 1 ≠ p.n) :
    ch.Evolves { ch with segs := segs, pull := some { p with arrived := p.arrived + 1 } } := by
  refine ⟨fun h p' hp' => ?_, fun h => ?_⟩
  · have := h p hp
    simp only [Option.some.injEq] at hp'
    subst hp'
    simp only
    omega
  · have := h p hp
    simp only [Channel.taken, Channel.reserved, hp]
    omega

/-- R90, R161: the segment that completes a pull takes the last buffer that was reserved for it. -/
theorem Channel.Evolves.arriveLast {ch ch' : Channel} {p : Pull} (hp : ch.pull = some p) (hp' : ch'.pull = none)
    (hs : ch'.segs.length ≤ ch.segs.length + 1) : ch.Evolves ch' := by
  have hopen : ch'.Open := fun p' h => nomatch hp'.symm.trans h
  refine ⟨fun _ => hopen, fun h => ?_⟩
  have := h p hp
  simp only [Channel.taken, Channel.reserved, hp, hp']
  omega

theorem Bay.modChan_modChan (b : Bay) (k : ChanNo) (f g : Channel → Channel) :
    (b.modChan k f).modChan k g = b.modChan k fun ch => g (f ch) := by
  simp [Bay.modChan, Bay.chan]

theorem Bay.Reloads.takeSegment (x : Ctx) {b : Bay} {k : ChanNo} {p : Pull} (hp : (b.chan k).pull = some p) (sg : SegBuf) :
    b.Reloads (b.takeSegment x k p sg) := by
  have hs (ch : Channel) : (if ch.state = .draining then ch.segs else ch.segs ++ [sg]).length ≤ ch.segs.length + 1 := by
    split <;> simp
  unfold Bay.takeSegment
  dsimp only
  split
  · unfold Bay.pullComplete
    dsimp only
    rw [Bay.modChan_modChan]
    split
    · exact (Bay.Reloads.modChan (.arriveLast hp rfl (hs _))).trans (.roundEnd x _ k)
    · exact (Bay.Reloads.modChan (.arriveLast hp rfl (hs _))).trans (.endIfDone x _ k)
  · next hn => exact .modChan (.arrive hp (hs _) hn)

theorem Bay.Reloads.deliveryComplete (x : Ctx) (b : Bay) (k : ChanNo) (c : CellNo) :
    b.Reloads (b.deliveryComplete x k c) := by
  have hmod : b.Reloads (b.modChan k fun ch => { ch with targets := ch.targets.filter (·.cell ≠ c) }) :=
    .modChan (.of_segs rfl le_rfl)
  exact hmod.trans (.modCell _ c fun r => r.load.map fun ld =>
    { ld with place := .awaiting, deadline := some (deadlineAfter x.clock (seconds x.tables.settings.loadTimeout)) })

theorem Bay.Reloads.delivered (x : Ctx) (b : Bay) (k : ChanNo) (c : CellNo) : b.Reloads (b.delivered x k c) := by
  have hmod : b.Reloads (b.modChan k fun ch =>
      { ch with targets := ch.targets.map fun t => if t.cell = c then { t with pos := t.pos + 1 } else t }) :=
    .modChan (.of_segs rfl le_rfl)
  have hsegs (b : Bay) : b.Reloads (b.modChan k fun ch => { ch with segs := ch.unpassed }) :=
    .modChan (.of_segs rfl (List.length_filter_le _ _))
  unfold Bay.delivered
  dsimp only
  split
  · exact ((hmod.trans (.deliveryComplete x _ k c)).trans (hsegs _)).trans (.endIfDone x _ k)
  · exact (hmod.trans (hsegs _)).trans (.endIfDone x _ k)

theorem Bay.Reloads.modeWritten (b : Bay) (k : ChanNo) (m : ChannelMode) : b.Reloads (b.modeWritten k m) := by
  unfold Bay.modeWritten
  split
  · exact .modChan (.of_segs rfl le_rfl)
  · exact .refl b

/-- R83: the start of a load, the cell's own record apart. -/
theorem Bay.Evolves.startLoad (x : Ctx) (b : Bay) (c : CellNo) (e : CatalogueEntry) : b.Evolves (b.startLoad x c e) := by
  unfold Bay.startLoad
  exact (Bay.Evolves.modCell (.of_state rfl (by simp))).trans (Bay.Reloads.placeLoad x _ c).evolves

theorem Bay.Evolves.abandonLoad (x : Ctx) (b : Bay) (c : CellNo) : b.Evolves (b.abandonLoad x c) := by
  unfold Bay.abandonLoad
  split
  · exact .refl b
  · refine (Bay.Reloads.leaveLists x b c).evolves.trans (Bay.Evolves.modCell ?_)
    generalize (b.leaveLists x c).cell c = r
    exact .of_eq rfl rfl rfl

/-- R36: what a load given up leaves of its cell. -/
theorem Bay.work_abandonLoad (x : Ctx) (b : Bay) (c c' : CellNo) :
    ((b.abandonLoad x c).cell c').state = (b.cell c').state
      ∧ ((b.abandonLoad x c).cell c').assignment = (b.cell c').assignment := by
  unfold Bay.abandonLoad
  split
  · exact ⟨rfl, rfl⟩
  · obtain ⟨ld, hc⟩ := (Bay.Reloads.leaveLists x b c).cells c'
    by_cases he : c = c'
    · subst he
      rw [Bay.cell_modCell_self, hc]
      exact ⟨rfl, rfl⟩
    · rw [Bay.cell_modCell_ne _ _ he, hc]
      exact ⟨rfl, rfl⟩

end Sys2Proof.Machine

/-!
SUPPORT. The command queue of a cell (R184): every placement and every removal keeps its law, so that withdrawals, FINISH,
PAUSE, RESUME and OFFER keep what `CellRec.Evolves` says.
-/

namespace Sys2Proof.Machine

/-! ### Removals and placements -/

/-- A part of a command queue keeps the law. -/
theorem CommandLaw.sublist {q q' : List Command} (h : CommandLaw q) (hs : q'.Sublist q) : CommandLaw q' := by
  obtain ⟨ho, hw, hf, hp, hr, hx, hids⟩ := h
  exact ⟨(hs.countP_le).trans ho, (hs.countP_le).trans hw, (hs.countP_le).trans hf, (hs.countP_le).trans hp,
    (hs.countP_le).trans hr, (hs.count_le _).trans hx, fun ids hm => hids ids (hs.subset hm)⟩

theorem commandLaw_nil : CommandLaw [] := by
  refine ⟨?_, ?_, ?_, ?_, ?_, ?_, ?_⟩ <;> simp

/-- A command joins the tail of a queue that has none of its kind. -/
theorem CommandLaw.concat {q : List Command} {k : Command} (h : CommandLaw q)
    (ho : k.isOffer = true → q.countP Command.isOffer = 0) (hw : k.isWithdraw = true → q.countP Command.isWithdraw = 0)
    (hf : k.isFinish = true → q.countP Command.isFinish = 0) (hp : k.isPause = true → q.countP Command.isPause = 0)
    (hr : k.isResume = true → q.countP Command.isResume = 0) (hx : k ≠ .restart)
    (hids : ∀ ids, k = .withdraw ids → 1 ≤ ids.length ∧ ids.length ≤ 8) : CommandLaw (q ++ [k]) := by
  have hcount {p : Command → Bool} (hq : q.countP p ≤ 1) (hk : p k = true → q.countP p = 0) : (q ++ [k]).countP p ≤ 1 := by
    rw [List.countP_append, List.countP_cons, List.countP_nil]
    split
    · next hpk => rw [hk hpk]
    · simpa using hq
  obtain ⟨qo, qw, qf, qp, qr, qx, qids⟩ := h
  refine ⟨hcount qo ho, hcount qw hw, hcount qf hf, hcount qp hp, hcount qr hr, ?_, fun ids hm => ?_⟩
  · rw [List.count_append, List.count_singleton]
    simpa [hx] using qx
  · rcases List.mem_append.1 hm with hm | hm
    · exact qids ids hm
    · exact hids ids (List.mem_singleton.1 hm).symm

theorem countP_filter_not {q : List Command} (p : Command → Bool) : (q.filter (!p ·)).countP p = 0 := by
  rw [List.countP_eq_zero]
  intro k hk
  simpa using (List.mem_filter.1 hk).2

/-- A queue less one kind, and a command of that kind at its tail. -/
theorem CommandLaw.replace {q : List Command} {k : Command} {p : Command → Bool} (h : CommandLaw q)
    (ho : k.isOffer = true → p = Command.isOffer) (hw : k.isWithdraw = false) (hf : k.isFinish = true → p = Command.isFinish)
    (hp : k.isPause = true → p = Command.isPause) (hr : k.isResume = true → p = Command.isResume) (hx : k ≠ .restart) :
    CommandLaw (q.filter (!p ·) ++ [k]) := by
  refine (h.sublist List.filter_sublist).concat (fun hk => ?_) (fun hk => ?_) (fun hk => ?_) (fun hk => ?_) (fun hk => ?_) hx
    fun ids hk => ?_
  · exact ho hk ▸ countP_filter_not p
  · rw [hw] at hk; cases hk
  · exact hf hk ▸ countP_filter_not p
  · exact hp hk ▸ countP_filter_not p
  · exact hr hk ▸ countP_filter_not p
  · subst hk; cases hw

theorem commandLaw_placeOffer {q : List Command} (h : CommandLaw q) (o : Offer) : CommandLaw (placeOffer q o) :=
  h.replace (fun _ => rfl) rfl nofun nofun nofun nofun

theorem commandLaw_placeFinish {q : List Command} (h : CommandLaw q) (id : Half) (lot : LotNo) :
    CommandLaw (placeFinish q id lot) := by
  unfold placeFinish
  split
  · exact h
  · exact h.replace nofun rfl (fun _ => rfl) nofun nofun nofun

theorem commandLaw_placePause {q : List Command} (h : CommandLaw q) (id : Half) (lot : LotNo) :
    CommandLaw (placePause q id lot) := by
  unfold placePause
  split
  · exact h
  · exact h.replace nofun rfl nofun (fun _ => rfl) nofun nofun

theorem commandLaw_placeResume {q : List Command} (h : CommandLaw q) (id : Half) (lot : LotNo) :
    CommandLaw (placeResume q id lot) := by
  unfold placeResume
  split
  · exact h.sublist List.filter_sublist
  · split
    · exact h
    · exact h.replace nofun rfl nofun nofun (fun _ => rfl) nofun

theorem queuedWithdraw_eq_none {q : List Command} (h : queuedWithdraw q = none) : q.countP Command.isWithdraw = 0 := by
  rw [List.countP_eq_zero]
  intro k hk
  have := List.findSome?_eq_none_iff.1 h k hk
  cases k <;> simp_all [Command.isWithdraw]

/-- R72: an id joins the one WITHDRAW of a queue. -/
theorem CommandLaw.addToWithdraw {q : List Command} (h : CommandLaw q) (id : Half) (lot : Option LotNo)
    (hids : ∀ ids, Command.withdraw ids ∈ q → ids.length < 8) : CommandLaw (q.map (Machine.addToWithdraw id lot)) := by
  have hcount {p : Command → Bool} (hp : ∀ k, p (Machine.addToWithdraw id lot k) = p k) :
      (q.map (Machine.addToWithdraw id lot)).countP p = q.countP p := by
    rw [List.countP_map]
    exact List.countP_congr fun k _ => by simp [hp]
  obtain ⟨qo, qw, qf, qp, qr, qx, _⟩ := h
  refine ⟨?_, ?_, ?_, ?_, ?_, ?_, fun ids hm => ?_⟩
  · rwa [hcount fun k => by cases k <;> rfl]
  · rwa [hcount fun k => by cases k <;> rfl]
  · rwa [hcount fun k => by cases k <;> rfl]
  · rwa [hcount fun k => by cases k <;> rfl]
  · rwa [hcount fun k => by cases k <;> rfl]
  · rw [List.count, hcount fun k => by cases k <;> rfl]
    exact qx
  · obtain ⟨k, hk, he⟩ := List.mem_map.1 hm
    cases k with
    | withdraw ids' =>
      have hlt := hids ids' hk
      have hids' : ids' ++ [(id, lot)] = ids := by simpa [Machine.addToWithdraw] using he
      rw [← hids', List.length_append, List.length_singleton]
      omega
    | _ => cases he

theorem mem_of_queuedWithdraw {q : List Command} {ids : List (Half × Option LotNo)} (h : queuedWithdraw q = some ids) :
    Command.withdraw ids ∈ q := by
  obtain ⟨k, hk, he⟩ := List.exists_of_findSome?_eq_some h
  cases k with
  | withdraw ids' => exact Option.some.inj he ▸ hk
  | _ => cases he

/-- A queue with one WITHDRAW at most has no other than the one that is found. -/
theorem eq_of_queuedWithdraw {q : List Command} {ids ids' : List (Half × Option LotNo)}
    (hc : q.countP Command.isWithdraw ≤ 1) (h : queuedWithdraw q = some ids) (hm : Command.withdraw ids' ∈ q) : ids' = ids := by
  by_contra hne
  have hsub : [Command.withdraw ids', .withdraw ids].Subperm q :=
    List.subperm_of_subset (by simp [hne]) (by simp [hm, mem_of_queuedWithdraw h])
  have hle := hsub.countP_le (p := Command.isWithdraw)
  have htwo : List.countP Command.isWithdraw [.withdraw ids', .withdraw ids] = 2 := rfl
  omega

theorem commandLaw_placeWithdraw {q : List Command} (h : CommandLaw q) (id : Half) (lot : Option LotNo) :
    CommandLaw (placeWithdraw q id lot).1 := by
  unfold placeWithdraw
  split
  · exact h.sublist List.filter_sublist
  · split
    · next hq =>
      exact h.concat nofun (fun _ => queuedWithdraw_eq_none hq) nofun nofun nofun nofun fun ids hk => by
        cases hk; simp
    · next ids hq =>
      split
      · exact h
      · split
        · next hlen =>
          have hlaw := h
          obtain ⟨_, hw, _⟩ := hlaw
          exact h.addToWithdraw _ _ fun ids' hm => eq_of_queuedWithdraw hw hq hm ▸ hlen
        · exact h

/-! ### What the commands do to the cell records -/

/-- A change of the commands alone. -/
theorem CellRec.Evolves.of_commands {r r' : CellRec} (hk : CommandLaw r.commands → CommandLaw r'.commands)
    (hs : r'.state = r.state) (ha : r'.assignment = r.assignment) : r.Evolves r' :=
  ⟨hk, by simp only [CellRec.SlotLaw, hs, ha]; exact id⟩

/-- A change of an assignment that keeps its slot. -/
theorem CellRec.Evolves.of_slot {r r' : CellRec} {f : Assignment → Assignment}
    (hk : CommandLaw r.commands → CommandLaw r'.commands) (hs : r'.state = r.state)
    (ha : r'.assignment = r.assignment.map f) (hf : ∀ a, (f a).slot = a.slot) : r.Evolves r' := by
  refine ⟨hk, fun h hst => ?_⟩
  obtain ⟨a, k, h1, h2⟩ := h (hs ▸ hst)
  exact ⟨f a, k, by rw [ha, h1]; rfl, by rw [hf, h2]⟩

theorem CellRec.evolves_erred (r : CellRec) : r.Evolves r.erred := .of_eq rfl rfl rfl

theorem CellRec.evolves_withdrawn (r : CellRec) (id : Half) (lot : Option LotNo) : r.Evolves (r.withdrawn id lot) := by
  unfold CellRec.withdrawn
  dsimp only
  split <;> exact .of_commands (fun h => commandLaw_placeWithdraw h id lot) rfl rfl

theorem CellRec.evolves_finished (r : CellRec) : r.Evolves r.finished := by
  unfold CellRec.finished
  split
  · exact .refl r
  · next a ha =>
    split
    · exact .refl r
    · refine .of_slot (f := fun a => { a with finishSent := true }) (fun h => ?_) rfl (by rw [ha]; rfl) fun _ => rfl
      exact h.replace nofun rfl (fun _ => rfl) nofun nofun nofun

theorem Bay.Evolves.countCell (b : Bay) (c : CellNo) (f : CellCounters → CellCounters) : b.Evolves (b.countCell c f) :=
  .modCell (.of_eq rfl rfl rfl)

theorem Bay.Evolves.protocolError (b : Bay) (c : CellNo) : b.Evolves (b.protocolError c) := .countCell b c _

theorem Bay.Evolves.modSlot (b : Bay) (c : CellNo) (k : SlotNo) (f : Slot → Slot) : b.Evolves (b.modSlot c k f) :=
  .modCell (.of_eq rfl rfl rfl)

theorem Bay.Evolves.withdrawDue (b : Bay) (c : CellNo) (id : Half) (lot : Option LotNo) :
    b.Evolves (b.withdrawDue c id lot) := by
  rw [Bay.withdrawDue_eq]
  exact .setCell (CellRec.evolves_withdrawn ..)

theorem Bay.Evolves.finishDue (b : Bay) (c : CellNo) : b.Evolves (b.finishDue c) := by
  rw [Bay.finishDue_eq]
  exact .setCell (CellRec.evolves_finished _)

theorem Bay.Evolves.armStall (x : Ctx) (b : Bay) (c : CellNo) : b.Evolves (b.armStall x c) := by
  unfold Bay.armStall
  dsimp only
  split
  · exact .refl b
  · split
    · exact .modCell (.of_eq rfl rfl rfl)
    · exact .refl b

theorem Bay.Evolves.pauseDue (b : Bay) (c : CellNo) : b.Evolves (b.pauseDue c) := by
  unfold Bay.pauseDue
  split
  · exact .refl b
  · exact .modCell (.of_commands (fun h => commandLaw_placePause h _ _) rfl rfl)

theorem Bay.Evolves.resumeCell (x : Ctx) (h : LotNo) (b : Bay) (c : CellNo) : b.Evolves (b.resumeCell x h c) := by
  unfold Bay.resumeCell
  dsimp only
  split
  · exact .refl b
  · split
    · exact (Bay.Evolves.modCell (.of_commands (fun h => commandLaw_placeResume h _ _) rfl rfl)).trans (.armStall x _ c)
    · exact .refl b

/-- R66: an offer names the slot that it is made on. -/
theorem Bay.Evolves.makeOffer (x : Ctx) (b : Bay) (c : CellNo) (k : SlotNo) : b.Evolves (b.makeOffer x c k) := by
  unfold Bay.makeOffer
  split
  · exact .refl b
  · exact .modCell ⟨fun h => commandLaw_placeOffer h _, fun _ _ => ⟨_, k, rfl, rfl⟩⟩

theorem Bay.Evolves.drawId (b : Bay) : b.Evolves b.drawId.2 := .of_eq rfl rfl rfl rfl rfl rfl

/-- R63: a cell goes to the end of the rotation list, which stays a list of all cells. -/
theorem Bay.Evolves.rotate (x : Ctx) (b : Bay) (c : CellNo) : b.Evolves (b.rotate x c) := by
  unfold Bay.rotate
  split
  · refine .of_drifts ⟨fun h => ?_, id, fun _ => .refl _, fun _ => .refl _⟩ rfl rfl
    have hn : b.rotation.Nodup := h.nodup_iff.2 (List.nodup_finRange 32)
    have hm : c ∈ b.rotation := h.mem_iff.2 (List.mem_finRange c)
    have hp : (b.rotation.filter (· ≠ c) ++ [c]).Perm (c :: b.rotation.erase c) := by
      rw [hn.erase_eq_filter]
      exact List.perm_append_comm.trans (by simp; rfl)
    exact (hp.trans (List.perm_cons_erase hm).symm).trans h
  · exact .refl b

end Sys2Proof.Machine

/-!
SUPPORT. The dispatch unit (chapter 3) keeps what `Bay.Evolves` says: a cut takes a cell that is IDLE and a lot of the queue,
and a lot that it leaves without quantity leaves the queue as CLOSING.
-/

namespace Sys2Proof.Machine

/-! ### What leaves the lots and the dispatch queue -/

theorem Bay.lots_queue_makeOffer (x : Ctx) (b : Bay) (c : CellNo) (k : SlotNo) :
    (b.makeOffer x c k).lots = b.lots ∧ (b.makeOffer x c k).queue = b.queue := by
  unfold Bay.makeOffer
  split
  · exact ⟨rfl, rfl⟩
  · exact ⟨Bay.lots_modCell .., Bay.queue_modCell ..⟩

theorem Bay.lots_queue_startLoad (x : Ctx) (b : Bay) (c : CellNo) (e : CatalogueEntry) :
    (b.startLoad x c e).lots = b.lots ∧ (b.startLoad x c e).queue = b.queue := by
  unfold Bay.startLoad
  exact ⟨(Bay.Reloads.placeLoad x _ c).lots.trans (Bay.lots_modCell ..),
    (Bay.Reloads.placeLoad x _ c).queue.trans (Bay.queue_modCell ..)⟩

theorem Bay.lots_queue_rotate (x : Ctx) (b : Bay) (c : CellNo) :
    (b.rotate x c).lots = b.lots ∧ (b.rotate x c).queue = b.queue := by
  unfold Bay.rotate
  split <;> exact ⟨rfl, rfl⟩

/-! ### The cut (R64) -/

/-- R64: the offer or the load of a sublot that has been cut for a cell. -/
def Bay.offerOrLoad (x : Ctx) (b : Bay) (c : CellNo) (program : Half) : Bay :=
  match x.residentSlot (b.cell c) program with
  | some k => b.makeOffer x c k
  | none =>
    match x.tables.entryOf program with
    | some e => b.startLoad x c e
    | none => b

/-- R64: a lot of which `qty` units have been cut as a sublot. -/
def LotRec.lessCut (qty : Nat) (l : LotRec) : LotRec :=
  { l with remaining := l.remaining - qty, openSublots := l.openSublots + 1 }

/-- R65: the bay as it is cut from, an id drawn. -/
def Bay.drawn (b : Bay) : Bay := b.drawId.2

/-- R64: the assignment that a cut of lot `h` makes. -/
def Bay.cutAssignment (x : Ctx) (b : Bay) (h : LotNo) (c : CellNo) : Assignment :=
  { lot := h, step := (b.lot h).openIndex, id := b.drawId.1, qty := b.cutQuantity x h c }

/-- R63 to R66: a cut, the end of the lot's quantity apart. -/
def Bay.cutOpen (x : Ctx) (b : Bay) (h : LotNo) (c : CellNo) : Bay :=
  ((((b.drawn.modLot h (LotRec.lessCut (b.cutQuantity x h c))).modCell c fun r =>
    { r with assignment := some (b.cutAssignment x h c) }).offerOrLoad x c
      ((b.lot h).routeStep (b.lot h).openIndex).program)).rotate x c

/-- R64: a lot with nothing left to cut is CLOSING. -/
def LotRec.toClosing (l : LotRec) : LotRec := { l with state := .closing }

theorem Bay.cut_eq (x : Ctx) (b : Bay) (h : LotNo) (c : CellNo) :
    b.cut x h c = if ((b.cutOpen x h c).lot h).remaining = 0 then ((b.cutOpen x h c).modLot h LotRec.toClosing).leaveQueue h
      else b.cutOpen x h c := rfl

theorem Bay.lots_queue_offerOrLoad (x : Ctx) (b : Bay) (c : CellNo) (program : Half) :
    (b.offerOrLoad x c program).lots = b.lots ∧ (b.offerOrLoad x c program).queue = b.queue := by
  unfold Bay.offerOrLoad
  split
  · exact Bay.lots_queue_makeOffer ..
  · split
    · exact Bay.lots_queue_startLoad ..
    · exact ⟨rfl, rfl⟩

theorem Bay.Evolves.offerOrLoad (x : Ctx) (b : Bay) (c : CellNo) (program : Half) : b.Evolves (b.offerOrLoad x c program) := by
  unfold Bay.offerOrLoad
  split
  · exact .makeOffer ..
  · split
    · exact .startLoad ..
    · exact .refl b

theorem Bay.lots_cutOpen (x : Ctx) (b : Bay) (h : LotNo) (c : CellNo) :
    (b.cutOpen x h c).lots = (b.drawn.modLot h (LotRec.lessCut (b.cutQuantity x h c))).lots := by
  unfold Bay.cutOpen
  rw [(Bay.lots_queue_rotate ..).1, (Bay.lots_queue_offerOrLoad ..).1, Bay.lots_modCell]

theorem Bay.lot_cutOpen (x : Ctx) (b : Bay) (h h' : LotNo) (c : CellNo) :
    (b.cutOpen x h c).lot h' = (b.drawn.modLot h (LotRec.lessCut (b.cutQuantity x h c))).lot h' := by
  simp only [Bay.lot, Bay.lots_cutOpen]

theorem Bay.queue_cutOpen (x : Ctx) (b : Bay) (h : LotNo) (c : CellNo) : (b.cutOpen x h c).queue = b.queue := by
  unfold Bay.cutOpen
  rw [(Bay.lots_queue_rotate ..).2, (Bay.lots_queue_offerOrLoad ..).2, Bay.queue_modCell, Bay.queue_modLot]
  rfl

/-- R58: a cell that qualifies for a lot is IDLE, and the lot is queued. -/
theorem Bay.of_tier {x : Ctx} {b : Bay} {h : LotNo} {c : CellNo} (ht : (b.tier x h c).isSome) :
    h ∈ b.queue ∧ (b.cell c).state = .idle := by
  unfold Bay.tier at ht
  dsimp only at ht
  split at ht
  · next hq => exact ⟨hq.1, hq.2.1⟩
  · cases ht

theorem Bay.Drifts.cutOpen (x : Ctx) {b : Bay} (h : LotNo) {c : CellNo} (hi : (b.cell c).state = .idle) :
    b.Drifts (b.cutOpen x h c) := by
  have hcell : ((b.drawn.modLot h (LotRec.lessCut (b.cutQuantity x h c))).cell c).state = .idle := by
    simp only [Bay.cell, Bay.cells_modLot]
    exact hi
  refine .trans (.trans (.trans (.trans (Bay.Evolves.drawId b).drifts (.modLot ..)) (.modCell (.of_state rfl ?_)))
    (Bay.Evolves.offerOrLoad x _ c _).drifts) (Bay.Evolves.rotate x _ c).drifts
  show ((b.drawn.modLot h (LotRec.lessCut (b.cutQuantity x h c))).cell c).state ∉ _
  rw [hcell]
  decide

theorem Bay.Drifts.cut (x : Ctx) {b : Bay} {h : LotNo} {c : CellNo} (ht : (b.tier x h c).isSome) : b.Drifts (b.cut x h c) := by
  have hopen := Bay.Drifts.cutOpen x h (Bay.of_tier ht).2
  rw [Bay.cut_eq]
  split
  · exact (hopen.trans (.modLot ..)).trans (.leaveQueue ..)
  · exact hopen

/-- R7, R123: a lot that is not HELD has no hold entry and no saved state. -/
theorem LotRec.HoldLaw.of_not_held {l : LotRec} (hl : l.HoldLaw) (hs : l.state ≠ .held) : l.holds = [] ∧ l.saved = none := by
  obtain ⟨hh, hv, _⟩ := hl
  refine ⟨?_, ?_⟩
  · by_contra hne
    exact hs (hh.2 hne)
  · by_contra hne
    exact hs (hv.2 (Option.isSome_iff_ne_none.2 hne))

/-- A record without holds meets the hold law in any state but HELD. -/
theorem LotRec.holdLaw_of_clear {l : LotRec} (hs : l.state ≠ .held) (hh : l.holds = []) (hv : l.saved = none) : l.HoldLaw := by
  refine ⟨iff_of_false hs (by simp [hh]), iff_of_false hs (by simp [hv]), by simp [hh]⟩

/-! ### The record of a lot after a change -/

theorem Bay.like_lot_modLot (b : Bay) (h : LotNo) (f : LotRec → LotRec) : (f (b.lot h)).Like ((b.modLot h f).lot h) := by
  rw [Bay.lot_modLot_self]
  exact stampedRec_like ..

theorem Bay.like_lot_leaveQueue (b : Bay) (h h' : LotNo) : (b.lot h').Like ((b.leaveQueue h).lot h') :=
  Bay.like_modLot (b := { b with queue := b.queue.filter (· ≠ h) }) (f := fun l => { l with ageDeadline := none })
    ⟨rfl, rfl, rfl, rfl, rfl, rfl, rfl⟩ h'

theorem Bay.not_mem_queue_leaveQueue (b : Bay) (h : LotNo) : h ∉ (b.leaveQueue h).queue := by
  simp [Bay.queue_leaveQueue]

/-- A lot whose record is like one that is not ACTIVE, out of the queue, joins the law of the others. -/
theorem Bay.LotLawBut.of_like {b : Bay} {h : LotNo} {l : LotRec} (hb : b.LotLawBut h) (hl : l.Like (b.lot h))
    (hq : h ∉ b.queue) (hs : l.state ≠ .active) (hh : l.HoldLaw) (hw : l.QuantityLaw) : b.LotLaw :=
  hb.of_idle hq (by rwa [hl.state]) (hl.holdLaw hh) (hl.quantityLaw hw)

/-- A lot whose record changes, and not in what queues it. -/
theorem Bay.LotLaw.modLot {b : Bay} {h : LotNo} {f : LotRec → LotRec} (hb : b.LotLaw)
    (hs : (f (b.lot h)).state = .active ↔ (b.lot h).state = .active) (hc : (f (b.lot h)).cls = (b.lot h).cls)
    (ht : (f (b.lot h)).queuedAt = (b.lot h).queuedAt) (hh : (f (b.lot h)).HoldLaw) (hw : (f (b.lot h)).QuantityLaw) :
    (b.modLot h f).LotLaw := by
  obtain ⟨hrec, hmem, hord⟩ := hb
  have hlike := Bay.like_lot_modLot b h f
  have hkey (h' : LotNo) : ((b.modLot h f).lot h').cls = (b.lot h').cls
      ∧ ((b.modLot h f).lot h').queuedAt = (b.lot h').queuedAt
      ∧ (((b.modLot h f).lot h').state = .active ↔ (b.lot h').state = .active) := by
    by_cases he : h = h'
    · subst he
      exact ⟨hlike.cls.trans hc, hlike.queuedAt.trans ht, by rw [hlike.state]; exact hs⟩
    · rw [Bay.lot_modLot_ne b f he]
      exact ⟨rfl, rfl, .rfl⟩
  refine ⟨fun h' => ?_, fun h' => ?_, ?_⟩
  · by_cases he : h = h'
    · subst he
      exact ⟨hlike.holdLaw hh, hlike.quantityLaw hw⟩
    · rw [Bay.lot_modLot_ne b f he]
      exact hrec h'
  · rw [Bay.queue_modLot, (hkey h').2.2]
    exact hmem h'
  · rw [Bay.queue_modLot]
    refine hord.imp fun {y z} hyz => ?_
    unfold queuedBefore at hyz ⊢
    rwa [(hkey y).1, (hkey z).1, (hkey y).2.1, (hkey z).2.1]

theorem Bay.LotLaw.cut (x : Ctx) {b : Bay} (hb : b.LotLaw) {h : LotNo} {c : CellNo} (ht : (b.tier x h c).isSome) :
    (b.cut x h c).LotLaw := by
  have hactive : (b.lot h).state = .active := (hb.2.1 h).1 (Bay.of_tier ht).1
  obtain ⟨hlaw, hqty⟩ := hb.1 h
  obtain ⟨hholds, hsaved⟩ := hlaw.of_not_held (by rw [hactive]; decide)
  obtain ⟨_, _, _, _, hroute⟩ := hqty
  have hbut : (b.cutOpen x h c).LotLawBut h :=
    (hb.but h).of_others (fun h' hne => by rw [Bay.lot_cutOpen, Bay.lot_modLot_ne _ _ hne]; rfl) (by rw [Bay.queue_cutOpen])
  have hlike : ((b.lot h).lessCut (b.cutQuantity x h c)).Like ((b.cutOpen x h c).lot h) := by
    rw [Bay.lot_cutOpen]
    exact Bay.like_lot_modLot b.drawn h (LotRec.lessCut (b.cutQuantity x h c))
  rw [Bay.cut_eq]
  split
  · next hzero =>
    have hlike' := (Bay.like_lot_modLot (b.cutOpen x h c) h LotRec.toClosing).trans (Bay.like_lot_leaveQueue _ h h)
    refine (hbut.modLot LotRec.toClosing).leaveQueue.of_like hlike' (Bay.not_mem_queue_leaveQueue _ _) nofun ?_ ?_
    · exact LotRec.holdLaw_of_clear nofun (hlike.holds.trans hholds) (hlike.saved.trans hsaved)
    · have hsaved' := hlike.saved.trans hsaved
      refine ⟨nofun, fun _ => hzero, fun h => ?_, fun h => ?_, hlike.route ▸ hroute⟩ <;> cases hsaved'.symm.trans h
  · next hpos =>
    have hsaved' := hlike.saved.trans hsaved
    have hstate' := hlike.state.trans hactive
    have hdrawn : (b.drawn.modLot h (LotRec.lessCut (b.cutQuantity x h c))).LotLaw := by
      have hzero : (LotRec.lessCut (b.cutQuantity x h c) (b.lot h)).remaining ≠ 0 := by rw [← hlike.remaining]; exact hpos
      refine Bay.LotLaw.modLot (((Bay.Evolves.drawId b).lots hb)) .rfl rfl rfl ?_ ?_
      · exact hlaw
      · refine ⟨fun _ => Nat.pos_of_ne_zero hzero, fun h => ?_, fun h => ?_, fun h => ?_, hroute⟩
        · cases hactive.symm.trans h
        · cases hsaved.symm.trans h
        · cases hsaved.symm.trans h
    exact hdrawn.of_like (fun h' => by rw [Bay.lot_cutOpen]; exact .refl _) (by rw [Bay.queue_cutOpen, Bay.queue_modLot]; rfl)

theorem Bay.Evolves.cut (x : Ctx) {b : Bay} {h : LotNo} {c : CellNo} (ht : (b.tier x h c).isSome) :
    b.Evolves (b.cut x h c) := ⟨.cut x ht, fun hb => hb.cut x ht⟩

/-! ### The two matches (R61, R62) -/

/-- R62: the chosen cell qualifies. -/
theorem Bay.tier_chooseCell {x : Ctx} {b : Bay} {h : LotNo} {c : CellNo} (hc : b.chooseCell x h = some c) :
    (b.tier x h c).isSome := by
  have hfind {n : Nat} (hf : (b.rotation.find? fun c => b.tier x h c = some n) = some c) : (b.tier x h c).isSome := by
    have ht : b.tier x h c = some n := by simpa using List.find?_some hf
    rw [ht]
    rfl
  unfold Bay.chooseCell at hc
  simp only [Option.orElse_eq_orElse, Option.orElse_eq_or, Option.or_eq_some_iff] at hc
  rcases hc with h1 | ⟨_, h2 | ⟨_, h3⟩⟩
  · exact hfind h1
  · exact hfind h2
  · exact hfind h3

theorem Bay.Evolves.matchLotUpTo (x : Ctx) (h : LotNo) : ∀ (n : Nat) (b : Bay), b.Evolves (b.matchLotUpTo x n h)
  | 0, b => .refl b
  | n + 1, b => by
    rw [Bay.matchLotUpTo]
    split
    · split
      · next c hc => exact (Bay.Evolves.cut x (Bay.tier_chooseCell hc)).trans (Bay.Evolves.matchLotUpTo x h n _)
      · exact .refl b
    · exact .refl b

theorem Bay.Evolves.matchLot (x : Ctx) (b : Bay) (h : LotNo) : b.Evolves (b.matchLot x h) := .matchLotUpTo x h 32 b

theorem Bay.Evolves.matchCell (x : Ctx) (b : Bay) (c : CellNo) : b.Evolves (b.matchCell x c) := by
  unfold Bay.matchCell
  split
  · next h hf => exact .cut x (by simpa using List.find?_some hf)
  · exact .refl b

theorem Bay.Evolves.matchCells (x : Ctx) (b : Bay) (cs : List CellNo) : b.Evolves (b.matchCells x cs) :=
  .foldl (fun b c => .matchCell x b c) cs b

/-! ### Joining the queue (R52, R54) -/

theorem Bay.Drifts.joinQueue (x : Ctx) (b : Bay) (h : LotNo) : b.Drifts (b.joinQueue x h) :=
  ((Bay.Drifts.enqueue b h).trans (.modLot ..)).trans (Bay.Evolves.matchLot x _ h).drifts

/-- A lot that has become ACTIVE, with quantity to cut, joins the queue at its place. -/
theorem Bay.LotLawBut.joinQueue (x : Ctx) {b : Bay} {h : LotNo} {l : LotRec} (hb : b.LotLawBut h) (hl : l.Like (b.lot h))
    (hs : l.state = .active) (hh : l.HoldLaw) (hw : l.QuantityLaw) : (b.joinQueue x h).LotLaw :=
  (Bay.Evolves.matchLot x _ h).lots
    ((Bay.Evolves.modLot ⟨rfl, rfl, rfl, rfl, rfl, rfl, rfl⟩).lots
      (hb.enqueue (by rw [hl.state, hs]) (hl.holdLaw hh) (hl.quantityLaw hw)))

end Sys2Proof.Machine

/-!
SUPPORT. The flow of a lot's steps (sections 1.6, 6.1 and 7.2) keeps what `Bay.Evolves` says: raises keep the hold set in priority
order, a step that opens leaves its lot queued, HELD or COMPLETE, and a return of quantity leaves no CLOSING lot with quantity.
-/

namespace Sys2Proof.Machine

/-! ### The hold set (R123, R124) -/

theorem holdKinds_priority (k : HoldKind) : holdKinds[k.priority - 1]? = some k := by cases k <;> rfl

theorem HoldKind.priority_inj {k k' : HoldKind} (h : k.priority = k'.priority) : k = k' := by
  have hk := holdKinds_priority k
  rw [h, holdKinds_priority k'] at hk
  exact (Option.some.inj hk).symm

theorem mem_raiseIn {holds : List HoldEntry} {e o : HoldEntry} (hn : holds.any (·.kind = e.kind) = false) :
    o ∈ raiseIn holds e ↔ o = e ∨ o ∈ holds := by
  unfold raiseIn
  rw [hn, if_neg Bool.false_ne_true, List.mem_append, List.mem_cons]
  conv_rhs => rw [← List.takeWhile_append_dropWhile (p := fun o : HoldEntry => decide (o.kind.priority < e.kind.priority))
    (l := holds), List.mem_append]
  tauto

/-- R123: a raise keeps the hold set in strict priority order. -/
theorem pairwise_raiseIn {holds : List HoldEntry} (e : HoldEntry)
    (h : holds.Pairwise fun a b => a.kind.priority < b.kind.priority) :
    (raiseIn holds e).Pairwise fun a b => a.kind.priority < b.kind.priority := by
  by_cases ha : holds.any (·.kind = e.kind) = true
  · have hkind (o : HoldEntry) : (if o.kind = e.kind then o.again else o).kind = o.kind := by split <;> rfl
    unfold raiseIn
    rw [if_pos ha, List.pairwise_map]
    simpa only [hkind] using h
  · induction holds with
    | nil => simp [raiseIn]
    | cons o holds ih =>
      obtain ⟨ho, hh⟩ := List.pairwise_cons.1 h
      have hne : o.kind.priority ≠ e.kind.priority := fun he => ha (by simp [HoldKind.priority_inj he])
      have ha' : holds.any (·.kind = e.kind) = false := by
        rw [List.any_cons, Bool.or_eq_true, not_or] at ha
        exact eq_false_of_ne_true ha.2
      by_cases hlt : o.kind.priority < e.kind.priority
      · have hcons : raiseIn (o :: holds) e = o :: raiseIn holds e := by
          simp only [raiseIn, ha', ha, if_neg, Bool.false_eq_true, not_false_eq_true, List.takeWhile_cons, List.dropWhile_cons, hlt,
            decide_true, if_true, List.cons_append]
        rw [hcons]
        refine List.pairwise_cons.2 ⟨fun y hy => ?_, ih hh (by simp [ha'])⟩
        rcases (mem_raiseIn ha').1 hy with rfl | hy
        · exact hlt
        · exact ho y hy
      · have hcons : raiseIn (o :: holds) e = e :: o :: holds := by
          simp only [raiseIn, ha, if_neg, Bool.false_eq_true, not_false_eq_true, List.takeWhile_cons, List.dropWhile_cons, hlt,
            decide_false, List.nil_append]
        rw [hcons]
        refine List.pairwise_cons.2 ⟨fun y hy => ?_, h⟩
        have hlt' : e.kind.priority < o.kind.priority := by omega
        rcases List.mem_cons.1 hy with rfl | hy
        · exact hlt'
        · exact hlt'.trans (ho y hy)

/-! ### The entry of a raise (R7, R125) -/

/-- R123: a lot with one more raise in its hold set. -/
def LotRec.raised (l : LotRec) (e : HoldEntry) : LotRec := { l with holds := raiseIn l.holds e }

/-- R7: a lot that becomes HELD, its former state saved. -/
def LotRec.toHeld (l : LotRec) : LotRec :=
  { l with
    state := .held, saved := l.state.toSaved
    completedAt := none, quarantine := none, quarantineSpent := false }

/-- R123: the entry of a first raise. -/
def raisedEntry (x : Ctx) (l : LotRec) (kind : HoldKind) (origin : HoldOrigin) (detail : HoldDetail) : HoldEntry :=
  { kind := kind, origin := origin, raisedAt := x.clock, stepIndex := l.openIndex, occurrences := 1, detail := detail }

theorem Bay.raiseEntry_eq (x : Ctx) (b : Bay) (h : LotNo) (kind : HoldKind) (origin : HoldOrigin) (detail : HoldDetail) :
    b.raiseEntry x h kind origin detail =
      if (b.lot h).state.holdable then
        let b' := b.modLot h (·.raised (raisedEntry x (b.lot h) kind origin detail))
        if (b.lot h).state = .held then b' else (b'.modLot h LotRec.toHeld).leaveQueue h
      else b := rfl

theorem Bay.Drifts.raiseEntry (x : Ctx) (b : Bay) (h : LotNo) (kind : HoldKind) (origin : HoldOrigin) (detail : HoldDetail) :
    b.Drifts (b.raiseEntry x h kind origin detail) := by
  rw [Bay.raiseEntry_eq]
  split
  · dsimp only
    split
    · exact .modLot ..
    · exact ((Bay.Drifts.modLot ..).trans (.modLot ..)).trans (.leaveQueue ..)
  · exact .refl b

/-- A raise on a lot that is out of the queue where it is HELD. -/
theorem Bay.LotLawBut.raiseEntry (x : Ctx) {b : Bay} {h : LotNo} {l : LotRec} (hb : b.LotLawBut h) (hl : l.Like (b.lot h))
    (hs : l.state.holdable = true) (hq : l.state = .held → h ∉ b.queue) (hh : l.HoldLaw) (hw : l.QuantityLaw)
    (kind : HoldKind) (origin : HoldOrigin) (detail : HoldDetail) : (b.raiseEntry x h kind origin detail).LotLaw := by
  replace hh := hl.holdLaw hh
  replace hw := hl.quantityLaw hw
  rw [← hl.state] at hs hq
  generalize he : raisedEntry x (b.lot h) kind origin detail = e
  have hlike := Bay.like_lot_modLot b h (·.raised e)
  obtain ⟨hheld, hsaved, hord⟩ := hh
  obtain ⟨hact, hclos, hsact, hsclos, hroute⟩ := hw
  have hne : raiseIn (b.lot h).holds e ≠ [] := raiseIn_ne_nil _ e
  rw [Bay.raiseEntry_eq, if_pos hs, he]
  dsimp only
  split
  · next hst =>
    refine (hb.modLot (·.raised e)).of_like hlike ?_ ?_ ⟨iff_of_true hst hne, hsaved, pairwise_raiseIn e hord⟩
      ⟨hact, hclos, hsact, hsclos, hroute⟩
    · rw [Bay.queue_modLot]
      exact hq hst
    · show (b.lot h).state ≠ .active
      rw [hst]
      decide
  · next hst =>
    have hlike' := (Bay.like_lot_modLot (b.modLot h (·.raised e)) h LotRec.toHeld).trans (Bay.like_lot_leaveQueue _ h h)
    refine ((hb.modLot (·.raised e)).modLot LotRec.toHeld).leaveQueue.of_like hlike' (Bay.not_mem_queue_leaveQueue _ _) nofun
      ⟨iff_of_true rfl ?_, iff_of_true rfl ?_, ?_⟩ ⟨nofun, nofun, fun h1 => ?_, fun h1 => ?_, ?_⟩
    · rw [LotRec.toHeld, hlike.holds]
      exact hne
    · rw [LotRec.toHeld, hlike.state]
      show (b.lot h).state.toSaved.isSome = true
      cases hc : (b.lot h).state <;> simp_all [LotState.holdable, LotState.toSaved]
    · rw [LotRec.toHeld, hlike.holds]
      exact pairwise_raiseIn e hord
    · rw [LotRec.toHeld, hlike.remaining]
      refine hact ?_
      have h2 : (b.lot h).state.toSaved = some .active := (congrArg LotState.toSaved hlike.state).symm.trans h1
      cases hc : (b.lot h).state <;> simp_all [LotState.toSaved]
    · rw [LotRec.toHeld, hlike.remaining]
      refine hclos ?_
      have h2 : (b.lot h).state.toSaved = some .closing := (congrArg LotState.toSaved hlike.state).symm.trans h1
      cases hc : (b.lot h).state <;> simp_all [LotState.toSaved]
    · rw [LotRec.toHeld, hlike.route]
      exact hroute

theorem Bay.Evolves.raiseEntry (x : Ctx) (b : Bay) (h : LotNo) (kind : HoldKind) (origin : HoldOrigin) (detail : HoldDetail) :
    b.Evolves (b.raiseEntry x h kind origin detail) := by
  refine ⟨.raiseEntry .., fun hb => ?_⟩
  by_cases hs : (b.lot h).state.holdable = true
  · refine (hb.but h).raiseEntry x (.refl _) hs (fun hst hm => ?_) (hb.1 h).1 (hb.1 h).2 kind origin detail
    cases hst.symm.trans ((hb.2.1 h).1 hm)
  · rw [Bay.raiseEntry_eq, if_neg hs]
    exact hb

/-! ### Records that meet the quantity law -/

theorem LotRec.quantityLaw_of_active {l : LotRec} (hs : l.state = .active) (hr : 0 < l.remaining) (hv : l.saved = none)
    (hroute : l.route.length ≤ 6) : l.QuantityLaw := by
  simp [LotRec.QuantityLaw, hs, hr, hv, hroute]

theorem LotRec.quantityLaw_of_held {l : LotRec} (hs : l.state = .held) (hr : 0 < l.remaining) (hv : l.saved = some .active)
    (hroute : l.route.length ≤ 6) : l.QuantityLaw := by
  simp [LotRec.QuantityLaw, hs, hr, hv, hroute]

theorem LotRec.quantityLaw_of_idle {l : LotRec} (ha : l.state ≠ .active) (hc : l.state ≠ .closing) (hv : l.saved = none)
    (hroute : l.route.length ≤ 6) : l.QuantityLaw := by
  simp [LotRec.QuantityLaw, ha, hc, hv, hroute]

/-! ### Steps (R11 to R15, R152) -/

/-- A lot apart from the law of the others: out of the queue, without holds, its step between two states. -/
structure Bay.Parked (b : Bay) (h : LotNo) : Prop where
  others : b.LotLawBut h
  unqueued : h ∉ b.queue
  holds : (b.lot h).holds = []
  saved : (b.lot h).saved = none
  route : (b.lot h).route.length ≤ 6

theorem Bay.Parked.modLot {b : Bay} {h : LotNo} (hb : b.Parked h) {f : LotRec → LotRec} (hh : (f (b.lot h)).holds = (b.lot h).holds)
    (hs : (f (b.lot h)).saved = (b.lot h).saved) (hr : (f (b.lot h)).route = (b.lot h).route) : (b.modLot h f).Parked h := by
  have hlike := Bay.like_lot_modLot b h f
  refine ⟨hb.others.modLot f, by rw [Bay.queue_modLot]; exact hb.unqueued, ?_, ?_, ?_⟩
  · rw [hlike.holds, hh, hb.holds]
  · rw [hlike.saved, hs, hb.saved]
  · rw [hlike.route, hr]
    exact hb.route

/-- A parked lot that is neither ACTIVE nor CLOSING nor HELD. -/
theorem Bay.Parked.lotLaw {b : Bay} {h : LotNo} (hb : b.Parked h) (ha : (b.lot h).state ≠ .active)
    (hc : (b.lot h).state ≠ .closing) (hh : (b.lot h).state ≠ .held) : b.LotLaw := by
  refine hb.others.of_idle hb.unqueued ha (LotRec.holdLaw_of_clear hh hb.holds hb.saved) ⟨fun h => absurd h ha,
    fun h => absurd h hc, fun h => ?_, fun h => ?_, hb.route⟩ <;> cases hb.saved.symm.trans h

/-- R152: the record of a lot that enters COMPLETE. -/
def LotRec.toComplete (x : Ctx) (l : LotRec) : LotRec :=
  if l.policy = .auto then
    { l with
      state := .complete, completedAt := some x.clock, quarantineSpent := false
      quarantine := some (deadlineAfter x.clock (minutes x.tables.settings.quarantineDelay)) }
  else { l with state := .complete, completedAt := none, quarantine := none, quarantineSpent := false }

theorem Bay.completeLot_eq (x : Ctx) (b : Bay) (h : LotNo) : b.completeLot x h = b.modLot h (LotRec.toComplete x) := rfl

theorem LotRec.state_toComplete (x : Ctx) (l : LotRec) : (l.toComplete x).state = .complete := by
  unfold LotRec.toComplete
  split <;> rfl

theorem Bay.Drifts.completeLot (x : Ctx) (b : Bay) (h : LotNo) : b.Drifts (b.completeLot x h) := .modLot ..

theorem Bay.Parked.completeLot (x : Ctx) {b : Bay} {h : LotNo} (hb : b.Parked h) : (b.completeLot x h).LotLaw := by
  have hst : ((b.completeLot x h).lot h).state = .complete :=
    (Bay.like_lot_modLot b h (LotRec.toComplete x)).state.trans (LotRec.state_toComplete ..)
  have hparked : (b.completeLot x h).Parked h := by
    refine hb.modLot (f := LotRec.toComplete x) ?_ ?_ ?_ <;> unfold LotRec.toComplete <;> split <;> rfl
  exact hparked.lotLaw (by rw [hst]; decide) (by rw [hst]; decide) (by rw [hst]; decide)

theorem LotRec.like_closeStep (l : LotRec) (k : Nat) : l.Like (l.closeStep k) := by
  unfold LotRec.closeStep
  dsimp only
  split <;> exact ⟨rfl, rfl, rfl, rfl, rfl, rfl, rfl⟩

/-- R11: the bay as step `k` of lot `h` opens. -/
def Bay.opened (x : Ctx) (b : Bay) (h : LotNo) (k : Nat) : Bay :=
  b.modLot h fun l => l.openStep k (x.stepInput (b.lot h) k) x.clock

/-- R15: a step of input 0 as it closes. -/
def LotRec.closedEmpty (k : Nat) (l : LotRec) : LotRec := (l.modStep k fun r => { r with closeEvaluated := true }).closeStep k

theorem LotRec.like_closedEmpty (k : Nat) (l : LotRec) : l.Like (l.closedEmpty k) :=
  (LotRec.Like.mk rfl rfl rfl rfl rfl rfl rfl : l.Like (l.modStep k fun r => { r with closeEvaluated := true })).trans
    (LotRec.like_closeStep _ k)

/-- R15: what follows a step of input 0, with at most `n` more steps of input 0. -/
def Bay.openNext (x : Ctx) (n : Nat) (b : Bay) (h : LotNo) (k : Nat) : Bay :=
  if k < (b.lot h).route.length then
    match n with
    | 0 => b
    | n + 1 => Bay.openStep x n b h (k + 1)
  else b.completeLot x h

/-- R11, R18: what a step with an input opens as: held without its program, else queued. -/
def Bay.openActive (x : Ctx) (b : Bay) (h : LotNo) (k : Nat) : Bay :=
  if (x.tables.entryOf ((b.lot h).routeStep k).program).isNone then
    b.raiseEntry x h .program .program (.program ((b.lot h).routeStep k).program none)
  else b.joinQueue x h

theorem Bay.openStep_eq (x : Ctx) (n : Nat) (b : Bay) (h : LotNo) (k : Nat) :
    Bay.openStep x n b h k = if x.stepInput (b.lot h) k = 0 then ((b.opened x h k).modLot h (LotRec.closedEmpty k)).openNext x n h k
      else (b.opened x h k).openActive x h k := by
  rw [Bay.openStep]
  cases n <;> rfl

theorem Bay.Drifts.openActive (x : Ctx) (b : Bay) (h : LotNo) (k : Nat) : b.Drifts (b.openActive x h k) := by
  unfold Bay.openActive
  split
  · exact .raiseEntry ..
  · exact .joinQueue ..

/-- The opening of a step, given what the steps behind one of input 0 keep. -/
theorem Bay.Drifts.openStep_of {x : Ctx} {h : LotNo} {n k : Nat} (hnext : ∀ b : Bay, b.Drifts (b.openNext x n h k)) (b : Bay) :
    b.Drifts (Bay.openStep x n b h k) := by
  have hopen : b.Drifts (b.opened x h k) := .modLot ..
  rw [Bay.openStep_eq]
  split
  · exact (hopen.trans (.modLot _ h (LotRec.closedEmpty k))).trans (hnext _)
  · exact hopen.trans (.openActive ..)

theorem Bay.Drifts.openStep (x : Ctx) (h : LotNo) : ∀ (n : Nat) (b : Bay) (k : Nat), b.Drifts (Bay.openStep x n b h k)
  | 0, b, k => .openStep_of (fun b => by unfold Bay.openNext; split; exacts [.refl _, .completeLot ..]) b
  | n + 1, b, k => .openStep_of
      (fun b => by unfold Bay.openNext; split; exacts [Bay.Drifts.openStep x h n b (k + 1), .completeLot ..]) b

theorem Bay.Parked.openActive (x : Ctx) {b : Bay} {h : LotNo} (hb : b.Parked h) (k : Nat) (hs : (b.lot h).state = .active)
    (hr : 0 < (b.lot h).remaining) : (b.openActive x h k).LotLaw := by
  have hh : (b.lot h).HoldLaw := LotRec.holdLaw_of_clear (by rw [hs]; decide) hb.holds hb.saved
  have hw : (b.lot h).QuantityLaw := LotRec.quantityLaw_of_active hs hr hb.saved hb.route
  unfold Bay.openActive
  split
  · exact hb.others.raiseEntry x (.refl _) (by rw [hs]; rfl) (by rw [hs]; nofun) hh hw _ _ _
  · exact hb.others.joinQueue x (.refl _) hs hh hw

/-- The opening of a step, given what the steps behind one of input 0 leave. -/
theorem Bay.Parked.openStep_of {x : Ctx} {b : Bay} {h : LotNo} {n k : Nat} (hb : b.Parked h)
    (hnext : ∀ b : Bay, b.Parked h → (b.openNext x n h k).LotLaw) : (Bay.openStep x n b h k).LotLaw := by
  have hopen : (b.opened x h k).Parked h := hb.modLot rfl rfl rfl
  rw [Bay.openStep_eq]
  split
  · have hlike := LotRec.like_closedEmpty k ((b.opened x h k).lot h)
    exact hnext _ (hopen.modLot hlike.holds hlike.saved hlike.route)
  · next hz =>
    have hlike : ((b.lot h).openStep k (x.stepInput (b.lot h) k) x.clock).Like ((b.opened x h k).lot h) :=
      Bay.like_lot_modLot b h fun l => l.openStep k (x.stepInput (b.lot h) k) x.clock
    exact hopen.openActive x k hlike.state (by rw [hlike.remaining]; exact Nat.pos_of_ne_zero hz)

/-- R11, R15: a step opens, and the steps of input 0 behind it, up to the last of a route of six. -/
theorem Bay.Parked.openStep (x : Ctx) {h : LotNo} : ∀ (n : Nat) {b : Bay} {k : Nat}, b.Parked h → 6 ≤ n + k →
    (Bay.openStep x n b h k).LotLaw
  | 0, _, _, hb, hk => hb.openStep_of fun b hb => by
      have hroute := hb.route
      unfold Bay.openNext
      rw [if_neg (by omega)]
      exact hb.completeLot x
  | n + 1, _, _, hb, hk => hb.openStep_of fun b hb => by
      unfold Bay.openNext
      split
      · exact Bay.Parked.openStep x n hb (by omega)
      · exact hb.completeLot x

theorem Bay.Drifts.advance (x : Ctx) (b : Bay) (h : LotNo) : b.Drifts (b.advance x h) := by
  unfold Bay.advance
  dsimp only
  split
  · exact (Bay.Drifts.modLot ..).trans (.openStep ..)
  · exact (Bay.Drifts.modLot ..).trans (.completeLot ..)

theorem Bay.Parked.advance (x : Ctx) {b : Bay} {h : LotNo} (hb : b.Parked h) : (b.advance x h).LotLaw := by
  have hclosed : (b.modLot h fun l => l.closeStep (b.lot h).openIndex).Parked h :=
    hb.modLot (LotRec.like_closeStep ..).holds (LotRec.like_closeStep ..).saved (LotRec.like_closeStep ..).route
  unfold Bay.advance
  dsimp only
  split
  · exact hclosed.openStep x 5 (by omega)
  · exact hclosed.completeLot x

/-- A CLOSING lot is out of the queue and without holds. -/
theorem Bay.LotLaw.parked {b : Bay} (hb : b.LotLaw) {h : LotNo} (ha : (b.lot h).state ≠ .active) (hh : (b.lot h).state ≠ .held) :
    b.Parked h := by
  obtain ⟨hholds, hsaved⟩ := (hb.1 h).1.of_not_held hh
  exact ⟨hb.but h, fun hm => ha ((hb.2.1 h).1 hm), hholds, hsaved, (hb.1 h).2.2.2.2.2⟩

/-! ### The step-close evaluation (R147 to R150) -/

/-- R147: the mark of a step that has been evaluated. -/
def LotRec.evaluated (k : Nat) (l : LotRec) : LotRec := l.modStep k fun r => { r with closeEvaluated := true }

/-- R148 to R150: the kinds that the evaluation of a lot raises. -/
def Bay.closing (x : Ctx) (b : Bay) (h : LotNo) : List (HoldKind × HoldOrigin × HoldDetail) :=
  closingRaises (x.profile (b.lot h) (b.lot h).openIndex) ((b.lot h).stepRec (b.lot h).openIndex)

/-- R150: the entries of an evaluation. -/
def Bay.raiseEntries (x : Ctx) (h : LotNo) (b : Bay) (raises : List (HoldKind × HoldOrigin × HoldDetail)) : Bay :=
  raises.foldl (fun b r => b.raiseEntry x h r.1 r.2.1 r.2.2) b

theorem Bay.evaluate_eq (x : Ctx) (b : Bay) (h : LotNo) :
    b.evaluate x h =
      if (b.lot h).state = .closing ∧ b.closing x h = [] then
        ((b.raiseEntries x h (b.closing x h)).modLot h (LotRec.evaluated (b.lot h).openIndex)).advance x h
      else (b.raiseEntries x h (b.closing x h)).modLot h (LotRec.evaluated (b.lot h).openIndex) := rfl

theorem LotRec.like_evaluated (k : Nat) (l : LotRec) : l.Like (l.evaluated k) := ⟨rfl, rfl, rfl, rfl, rfl, rfl, rfl⟩

theorem Bay.Evolves.raiseEntries (x : Ctx) (h : LotNo) : ∀ (raises : List (HoldKind × HoldOrigin × HoldDetail)) (b : Bay),
    b.Evolves (b.raiseEntries x h raises)
  | [], b => .refl b
  | r :: raises, b => (Bay.Evolves.raiseEntry x b h r.1 r.2.1 r.2.2).trans (Bay.Evolves.raiseEntries x h raises _)

theorem Bay.Evolves.evaluate (x : Ctx) (b : Bay) (h : LotNo) : b.Evolves (b.evaluate x h) := by
  have hmod (b' : Bay) (k : Nat) : b'.Evolves (b'.modLot h (LotRec.evaluated k)) := .modLot (LotRec.like_evaluated ..)
  rw [Bay.evaluate_eq]
  split
  · next hc =>
    obtain ⟨hst, hnil⟩ := hc
    rw [hnil]
    refine ⟨(hmod b _).drifts.trans (.advance ..), fun hb => ?_⟩
    have hstate := (Bay.like_lot_modLot b h (LotRec.evaluated (b.lot h).openIndex)).state.trans hst
    exact (((hmod b _).lots hb).parked (by rw [hstate]; decide) (by rw [hstate]; decide)).advance x
  · exact (Bay.Evolves.raiseEntries ..).trans (hmod ..)

/-! ### The return of quantity (R29, R73) -/

theorem Bay.Evolves.dropAssignment {b : Bay} {c : CellNo} (hs : (b.cell c).state ∉ [.offered, .running]) :
    b.Evolves (b.dropAssignment c) := by
  unfold Bay.dropAssignment
  split
  · exact .refl b
  · exact (Bay.Evolves.modCell (.of_state rfl hs)).trans (.modLot ⟨rfl, rfl, rfl, rfl, rfl, rfl, rfl⟩)

/-- R73: a lot with an amount returned. -/
def LotRec.given (amount : Nat) (l : LotRec) : LotRec := { l with remaining := l.remaining + amount }

/-- R73: a lot that is ACTIVE again. -/
def LotRec.toActive (l : LotRec) : LotRec := { l with state := .active }

/-- Table 3-3 for a lot to which an amount has been returned. -/
def Bay.afterGiven (x : Ctx) (b : Bay) (h : LotNo) : Bay :=
  match (b.lot h).state with
  | .active => if 0 < (b.lot h).remaining then b.matchLot x h else b
  | .closing =>
    if 0 < (b.lot h).remaining then (b.modLot h LotRec.toActive).joinQueue x h
    else if (b.lot h).openSublots = 0 ∧ (b.lot h).unevaluated then b.evaluate x h
    else b
  | .held =>
    if (b.lot h).saved = some .closing then
      if 0 < (b.lot h).remaining then b.modLot h fun l => { l with saved := some .active }
      else if (b.lot h).openSublots = 0 ∧ (b.lot h).unevaluated then b.evaluate x h
      else b
    else b
  | .aborting => if (b.lot h).openSublots = 0 then b.modLot h fun l => { l with state := .aborted } else b
  | _ => b

theorem Bay.giveBack_eq (x : Ctx) (b : Bay) (h : LotNo) (amount : Nat) :
    b.giveBack x h amount = (b.modLot h (LotRec.given amount)).afterGiven x h := rfl

theorem Bay.Drifts.afterGiven (x : Ctx) (b : Bay) (h : LotNo) : b.Drifts (b.afterGiven x h) := by
  unfold Bay.afterGiven
  split
  · split
    · exact (Bay.Evolves.matchLot x b h).drifts
    · exact .refl b
  · split
    · exact (Bay.Drifts.modLot ..).trans (.joinQueue ..)
    · split
      · exact (Bay.Evolves.evaluate x b h).drifts
      · exact .refl b
  · split
    · split
      · exact .modLot ..
      · split
        · exact (Bay.Evolves.evaluate x b h).drifts
        · exact .refl b
    · exact .refl b
  · split
    · exact .modLot ..
    · exact .refl b
  · exact .refl b

/-- A lot with an amount returned, its law and its place as they were before. -/
structure Bay.Given (b : Bay) (h : LotNo) : Prop where
  others : b.LotLawBut h
  queued : h ∈ b.queue ↔ (b.lot h).state = .active
  order : b.queue.Pairwise fun h h' => queuedBefore (b.lot h) h (b.lot h') h' = true
  hold : (b.lot h).HoldLaw
  active : (b.lot h).state = .active → 0 < (b.lot h).remaining
  savedActive : (b.lot h).saved = some .active → 0 < (b.lot h).remaining
  route : (b.lot h).route.length ≤ 6

theorem Bay.Given.lotLaw {b : Bay} {h : LotNo} (hb : b.Given h) (hc : (b.lot h).state = .closing → (b.lot h).remaining = 0)
    (hs : (b.lot h).saved = some .closing → (b.lot h).remaining = 0) : b.LotLaw := by
  refine ⟨fun h' => ?_, fun h' => ?_, hb.order⟩
  · by_cases he : h = h'
    · exact he ▸ ⟨hb.hold, hb.active, hc, hb.savedActive, hs, hb.route⟩
    · exact hb.others.recs h' he
  · by_cases he : h = h'
    · exact he ▸ hb.queued
    · exact hb.others.queued h' he

theorem Bay.LotLaw.given {b : Bay} (hb : b.LotLaw) (h : LotNo) (amount : Nat) : (b.modLot h (LotRec.given amount)).Given h := by
  have hlike := Bay.like_lot_modLot b h (LotRec.given amount)
  obtain ⟨hhold, hact, _, hsact, _, hroute⟩ := hb.1 h
  refine ⟨(hb.but h).modLot _, by rw [Bay.queue_modLot, hlike.state]; exact hb.2.1 h, ?_, hlike.holdLaw hhold, fun hs => ?_,
    fun hs => ?_, by rw [hlike.route]; exact hroute⟩
  · rw [Bay.queue_modLot]
    refine hb.2.2.imp fun {y z} hyz => ?_
    have hkey (h' : LotNo) : ((b.modLot h (LotRec.given amount)).lot h').cls = (b.lot h').cls
        ∧ ((b.modLot h (LotRec.given amount)).lot h').queuedAt = (b.lot h').queuedAt := by
      by_cases he : h = h'
      · subst he
        exact ⟨hlike.cls, hlike.queuedAt⟩
      · rw [Bay.lot_modLot_ne b _ he]
        exact ⟨rfl, rfl⟩
    unfold queuedBefore at hyz ⊢
    rwa [(hkey y).1, (hkey z).1, (hkey y).2, (hkey z).2]
  · rw [hlike.remaining]
    exact Nat.lt_add_right amount (hact (hlike.state.symm.trans hs))
  · rw [hlike.remaining]
    exact Nat.lt_add_right amount (hsact (hlike.saved.symm.trans hs))

theorem Bay.Given.afterGiven (x : Ctx) {b : Bay} {h : LotNo} (hb : b.Given h) : (b.afterGiven x h).LotLaw := by
  have hclear (hs : (b.lot h).state ≠ .held) : (b.lot h).holds = [] ∧ (b.lot h).saved = none := hb.hold.of_not_held hs
  have hplain (hc : (b.lot h).state ≠ .closing) (hs : (b.lot h).state ≠ .held) : b.LotLaw :=
    hb.lotLaw (absurd · hc) fun h => nomatch (hclear hs).2.symm.trans h
  unfold Bay.afterGiven
  split
  case h_1 hs =>
    have hlaw := hplain (by rw [hs]; decide) (by rw [hs]; decide)
    split
    · exact (Bay.Evolves.matchLot x b h).lots hlaw
    · exact hlaw
  case h_2 hs =>
    have hnone := (hclear (by rw [hs]; decide)).2
    split
    · next hpos =>
      refine (hb.others.modLot _).joinQueue x (Bay.like_lot_modLot ..) rfl ?_ ?_
      · exact LotRec.holdLaw_of_clear nofun (hclear (by rw [hs]; decide)).1 hnone
      · exact LotRec.quantityLaw_of_active rfl hpos hnone hb.route
    · next hz =>
      have hlaw : b.LotLaw := hb.lotLaw (fun _ => by omega) fun h => nomatch hnone.symm.trans h
      split
      · exact (Bay.Evolves.evaluate x b h).lots hlaw
      · exact hlaw
  case h_3 hs =>
    have hc : (b.lot h).state ≠ .closing := by rw [hs]; decide
    split
    · next hsaved =>
      split
      · next hpos =>
        have hlike := Bay.like_lot_modLot b h (fun l => { l with saved := some .active })
        obtain ⟨hheld, _, hord⟩ := hb.hold
        have hw : LotRec.QuantityLaw { b.lot h with saved := some .active } :=
          LotRec.quantityLaw_of_held hs hpos rfl hb.route
        refine (hb.others.modLot _).of_like hlike ?_ ?_ ⟨hheld, iff_of_true hs rfl, hord⟩ hw
        · rw [Bay.queue_modLot, hb.queued, hs]
          decide
        · show (b.lot h).state ≠ .active
          rw [hs]
          decide
      · have hlaw : b.LotLaw := hb.lotLaw (absurd · hc) fun _ => by omega
        split
        · exact (Bay.Evolves.evaluate x b h).lots hlaw
        · exact hlaw
    · next hsaved => exact hb.lotLaw (absurd · hc) (absurd · hsaved)
  case h_4 hs =>
    have hlaw := hplain (by rw [hs]; decide) (by rw [hs]; decide)
    split
    · have hnone := hclear (by rw [hs]; decide)
      refine hlaw.modLot (iff_of_false nofun (by rw [hs]; decide)) rfl rfl (LotRec.holdLaw_of_clear nofun hnone.1 hnone.2)
        (LotRec.quantityLaw_of_idle nofun nofun hnone.2 hb.route)
    · exact hlaw
  case h_5 h1 h2 h3 h4 =>
    exact hplain (fun hs => h2 hs) (fun hs => h3 hs)

theorem Bay.Evolves.giveBack (x : Ctx) (b : Bay) (h : LotNo) (amount : Nat) : b.Evolves (b.giveBack x h amount) := by
  rw [Bay.giveBack_eq]
  exact ⟨(Bay.Drifts.modLot ..).trans (.afterGiven ..), fun hb => (hb.given h amount).afterGiven x⟩

theorem Bay.Evolves.returnSublot (x : Ctx) {b : Bay} {c : CellNo} (hs : (b.cell c).state ∉ [.offered, .running]) :
    b.Evolves (b.returnSublot x c) := by
  unfold Bay.returnSublot
  split
  · exact .refl b
  · exact (Bay.Evolves.dropAssignment hs).trans (.giveBack ..)

theorem Bay.Evolves.withdrawOffer (x : Ctx) (b : Bay) (c : CellNo) {after : CellState} (hs : after ∉ [.offered, .running]) :
    b.Evolves (b.withdrawOffer x c after) := by
  have hmod : b.Evolves (b.modCell c fun r => { r with state := after, offerDeadline := none }) := .modCell (.of_state rfl hs)
  unfold Bay.withdrawOffer
  dsimp only
  split
  · exact hmod
  · refine (hmod.trans (.withdrawDue ..)).trans (.returnSublot x ?_)
    rw [Bay.withdrawDue_eq, Bay.cell_setCell_self]
    unfold CellRec.withdrawn
    dsimp only
    split <;> (simp only [CellRec.erred, Bay.cell_modCell_self]; exact hs)

end Sys2Proof.Machine

/-!
SUPPORT. Holds, the outcomes of loads and the effects of cell frames (chapters 2 to 7) keep what `Bay.Evolves` says.
-/

namespace Sys2Proof.Machine

/-! ### Cells that leave OFFERED and RUNNING -/

theorem CellRec.Evolves.of_becomes {r r' : CellRec} (st : CellState) (hk : r'.commands = r.commands) (hs : r'.state = st)
    (hst : st ∉ [.offered, .running]) : r.Evolves r' := .of_state hk (hs ▸ hst)

theorem Bay.Evolves.returnSublot_of (x : Ctx) {b : Bay} {c : CellNo} (st : CellState) (hs : (b.cell c).state = st)
    (hst : st ∉ [.offered, .running]) : b.Evolves (b.returnSublot x c) := .returnSublot x (hs ▸ hst)

/-! ### The raise of a kind (R125 to R129) -/

/-- A chain of operations that gathers cells as it goes. -/
theorem Bay.Evolves.foldlPair {α : Type} {f : Bay × List CellNo → α → Bay × List CellNo}
    (hf : ∀ (acc : Bay × List CellNo) (a : α), acc.1.Evolves (f acc a).1) :
    ∀ (l : List α) (acc : Bay × List CellNo), acc.1.Evolves (l.foldl f acc).1
  | [], acc => .refl acc.1
  | a :: l, acc => (hf acc a).trans (Bay.Evolves.foldlPair hf l (f acc a))

theorem Bay.Evolves.holdCell (x : Ctx) (h : LotNo) (acc : Bay × List CellNo) (c : CellNo) :
    acc.1.Evolves (Bay.holdCell x h acc c).1 := by
  unfold Bay.holdCell
  dsimp only
  split
  · split
    · exact .withdrawOffer x _ c (by decide)
    · next hs => exact .returnSublot x (by rw [hs]; decide)
    · split
      · exact .pauseDue ..
      · exact .refl _
    · exact .refl _
  · exact .refl _

/-- R125, R126: the entry of a raise, and what it does to each cell of its lot. -/
def Bay.heldCells (x : Ctx) (b : Bay) (h : LotNo) (kind : HoldKind) (origin : HoldOrigin) (detail : HoldDetail) :
    Bay × List CellNo := allCells.foldl (Bay.holdCell x h) (b.raiseEntry x h kind origin detail, [])

theorem Bay.raise_eq (x : Ctx) (b : Bay) (h : LotNo) (kind : HoldKind) (origin : HoldOrigin) (detail : HoldDetail) :
    b.raise x h kind origin detail =
      if (b.lot h).state.holdable then
        (b.heldCells x h kind origin detail).1.matchCells x (b.heldCells x h kind origin detail).2.reverse
      else b := by
  unfold Bay.raise Bay.heldCells
  generalize allCells.foldl (Bay.holdCell x h) (b.raiseEntry x h kind origin detail, []) = p
  rfl

theorem Bay.Evolves.heldCells (x : Ctx) (b : Bay) (h : LotNo) (kind : HoldKind) (origin : HoldOrigin) (detail : HoldDetail) :
    b.Evolves (b.heldCells x h kind origin detail).1 := by
  have hfold := Bay.Evolves.foldlPair (Bay.Evolves.holdCell x h) allCells (b.raiseEntry x h kind origin detail, [])
  exact (Bay.Evolves.raiseEntry x b h kind origin detail).trans hfold

theorem Bay.Evolves.raise (x : Ctx) (b : Bay) (h : LotNo) (kind : HoldKind) (origin : HoldOrigin) (detail : HoldDetail) :
    b.Evolves (b.raise x h kind origin detail) := by
  rw [Bay.raise_eq]
  split
  · exact (Bay.Evolves.heldCells x b h kind origin detail).trans (.matchCells ..)
  · exact .refl b

/-! ### The restore of a saved state (R8, R137) -/

theorem Bay.lots_queue_resumeCell (x : Ctx) (h : LotNo) (b : Bay) (c : CellNo) :
    (b.resumeCell x h c).lots = b.lots ∧ (b.resumeCell x h c).queue = b.queue := by
  unfold Bay.resumeCell
  dsimp only
  split
  · exact ⟨rfl, rfl⟩
  · split
    · unfold Bay.armStall
      dsimp only
      split
      · exact ⟨Bay.lots_modCell .., Bay.queue_modCell ..⟩
      · split
        · simp
        · exact ⟨Bay.lots_modCell .., Bay.queue_modCell ..⟩
    · exact ⟨rfl, rfl⟩

/-- R137: RESUME for the cells of a lot. -/
def Bay.resumed (x : Ctx) (b : Bay) (h : LotNo) : Bay := allCells.foldl (Bay.resumeCell x h) b

theorem Bay.lots_queue_resumed (x : Ctx) (h : LotNo) (b : Bay) :
    (b.resumed x h).lots = b.lots ∧ (b.resumed x h).queue = b.queue := by
  unfold Bay.resumed
  generalize allCells = cs
  induction cs generalizing b with
  | nil => exact ⟨rfl, rfl⟩
  | cons c cs ih =>
    obtain ⟨hl, hq⟩ := Bay.lots_queue_resumeCell x h b c
    obtain ⟨hl', hq'⟩ := ih (b.resumeCell x h c)
    exact ⟨hl'.trans hl, hq'.trans hq⟩

theorem Bay.lot_resumed (x : Ctx) (h h' : LotNo) (b : Bay) : (b.resumed x h).lot h' = b.lot h' := by
  simp only [Bay.lot, (Bay.lots_queue_resumed x h b).1]

theorem Bay.Evolves.resumed (x : Ctx) (h : LotNo) (b : Bay) : b.Evolves (b.resumed x h) :=
  .foldl (.resumeCell x h) allCells b

/-- R8: a lot in a state that has been restored. -/
def LotRec.restoredTo (state : LotState) (l : LotRec) : LotRec := { l with state := state, saved := none }

theorem Bay.restoreLot_active {x : Ctx} {b : Bay} {h : LotNo} (hs : (b.lot h).saved = some .active) :
    b.restoreLot x h =
      if 0 < (b.lot h).remaining then ((b.modLot h (LotRec.restoredTo .active)).resumed x h).joinQueue x h
      else (b.modLot h (LotRec.restoredTo .active)).resumed x h := by
  unfold Bay.restoreLot
  dsimp only
  rw [hs]
  rfl

theorem Bay.restoreLot_closing {x : Ctx} {b : Bay} {h : LotNo} (hs : (b.lot h).saved = some .closing) :
    b.restoreLot x h =
      if (b.lot h).unevaluated then (b.modLot h (LotRec.restoredTo .closing)).resumed x h
      else (b.modLot h (LotRec.restoredTo .closing)).advance x h := by
  unfold Bay.restoreLot
  dsimp only
  rw [hs]
  rfl

theorem Bay.restoreLot_complete {x : Ctx} {b : Bay} {h : LotNo} (hs : (b.lot h).saved = some .complete) :
    b.restoreLot x h = (b.modLot h fun l => { l with saved := none }).completeLot x h := by
  unfold Bay.restoreLot
  dsimp only
  rw [hs]

theorem Bay.Drifts.restoreLot (x : Ctx) (b : Bay) (h : LotNo) : b.Drifts (b.restoreLot x h) := by
  cases hs : (b.lot h).saved with
  | none =>
    unfold Bay.restoreLot
    dsimp only
    rw [hs]
    exact .refl b
  | some v =>
    cases v with
    | active =>
      have hresumed := (Bay.Drifts.modLot b h (LotRec.restoredTo .active)).trans (Bay.Evolves.resumed x h _).drifts
      rw [Bay.restoreLot_active hs]
      split
      · exact hresumed.trans (.joinQueue ..)
      · exact hresumed
    | closing =>
      rw [Bay.restoreLot_closing hs]
      split
      · exact (Bay.Drifts.modLot ..).trans (Bay.Evolves.resumed x h _).drifts
      · exact (Bay.Drifts.modLot ..).trans (.advance ..)
    | complete =>
      rw [Bay.restoreLot_complete hs]
      exact (Bay.Drifts.modLot ..).trans (.completeLot ..)

/-- A HELD lot whose hold set has become empty. -/
structure Bay.Cleared (b : Bay) (h : LotNo) : Prop where
  others : b.LotLawBut h
  unqueued : h ∉ b.queue
  holds : (b.lot h).holds = []
  saved : (b.lot h).saved.isSome = true
  active : (b.lot h).saved = some .active → 0 < (b.lot h).remaining
  closing : (b.lot h).saved = some .closing → (b.lot h).remaining = 0
  route : (b.lot h).route.length ≤ 6

theorem Bay.Cleared.parked {b : Bay} {h : LotNo} (hb : b.Cleared h) {f : LotRec → LotRec}
    (hh : (f (b.lot h)).holds = (b.lot h).holds) (hs : (f (b.lot h)).saved = none)
    (hr : (f (b.lot h)).route = (b.lot h).route) : (b.modLot h f).Parked h := by
  have hlike := Bay.like_lot_modLot b h f
  refine ⟨hb.others.modLot f, by rw [Bay.queue_modLot]; exact hb.unqueued, ?_, hlike.saved.trans hs, ?_⟩
  · rw [hlike.holds, hh, hb.holds]
  · rw [hlike.route, hr]
    exact hb.route

theorem Bay.Cleared.restoreLot (x : Ctx) {b : Bay} {h : LotNo} (hb : b.Cleared h) : (b.restoreLot x h).LotLaw := by
  obtain ⟨v, hv⟩ := Option.isSome_iff_exists.1 hb.saved
  cases v with
  | active =>
    have hpos := hb.active hv
    have hlike := Bay.like_lot_modLot b h (LotRec.restoredTo .active)
    have hbut : ((b.modLot h (LotRec.restoredTo .active)).resumed x h).LotLawBut h :=
      (hb.others.modLot _).of_others (fun _ _ => Bay.lot_resumed ..) (by rw [(Bay.lots_queue_resumed ..).2])
    rw [Bay.restoreLot_active hv, if_pos hpos]
    have hlike' : ((b.lot h).restoredTo .active).Like (((b.modLot h (LotRec.restoredTo .active)).resumed x h).lot h) := by
      rw [Bay.lot_resumed]
      exact hlike
    exact hbut.joinQueue x hlike' rfl (LotRec.holdLaw_of_clear nofun hb.holds rfl)
      (LotRec.quantityLaw_of_active rfl hpos rfl hb.route)
  | closing =>
    have hparked : (b.modLot h (LotRec.restoredTo .closing)).Parked h := hb.parked rfl rfl rfl
    rw [Bay.restoreLot_closing hv]
    split
    · have hlike := Bay.like_lot_modLot b h (LotRec.restoredTo .closing)
      refine (Bay.Evolves.resumed x h _).lots (hparked.others.of_like hlike hparked.unqueued nofun
        (LotRec.holdLaw_of_clear nofun hb.holds rfl) ?_)
      exact ⟨nofun, fun _ => hb.closing hv, nofun, nofun, hb.route⟩
    · exact hparked.advance x
  | complete =>
    rw [Bay.restoreLot_complete hv]
    exact (hb.parked (f := fun l => { l with saved := none }) rfl rfl rfl).completeLot x

/-! ### Loads that end (R83, R94 to R99) -/

theorem Bay.Evolves.setState {b : Bay} {c : CellNo} {after : CellState} (hs : after ∉ [.offered, .running]) :
    b.Evolves (b.modCell c fun r => { r with state := after }) := .modCell (.of_state rfl hs)

theorem Bay.Evolves.reload (x : Ctx) (b : Bay) (c : CellNo) (program : Half) : b.Evolves (b.reload x c program) := by
  unfold Bay.reload
  split
  · exact .startLoad ..
  · exact ((Bay.Evolves.setState (by decide)).trans (.returnSublot_of x .idle (by rw [Bay.cell_modCell_self]) (by decide))).trans
      (.matchCell ..)

theorem Bay.Evolves.addFailedCell (x : Ctx) (b : Bay) (h : LotNo) (k : Nat) (c : CellNo) :
    b.Evolves (b.addFailedCell x h k c) := by
  unfold Bay.addFailedCell
  dsimp only
  split
  · exact .refl b
  · split
    · exact (Bay.Evolves.modLot ⟨rfl, rfl, rfl, rfl, rfl, rfl, rfl⟩).trans (.raise ..)
    · exact .modLot ⟨rfl, rfl, rfl, rfl, rfl, rfl, rfl⟩

theorem Bay.Evolves.afterFailure (x : Ctx) (b : Bay) (c : CellNo) : b.Evolves (b.afterFailure x c) := by
  unfold Bay.afterFailure
  dsimp only
  split
  · exact (Bay.Evolves.setState (by decide)).trans
      (.returnSublot_of x .faulted (by rw [Bay.cell_modCell_self]) (by decide))
  · split
    · exact .reload ..
    · exact (Bay.Evolves.setState (by decide)).trans (.matchCell ..)

theorem Bay.Evolves.loadFails (x : Ctx) (b : Bay) (c : CellNo) : b.Evolves (b.loadFails x c) := by
  unfold Bay.loadFails
  split
  · exact .refl b
  · have hcount : b.Evolves ((b.abandonLoad x c).modCell c fun r => { r with loadFailures := min (r.loadFailures + 1) 2 }) :=
      (Bay.Evolves.abandonLoad x b c).trans (.modCell (.of_eq rfl rfl rfl))
    dsimp only
    split
    · exact (hcount.trans (.afterFailure ..)).trans (.addFailedCell ..)
    · exact hcount.trans (.afterFailure ..)

/-- R96: a cell whose load has been good, its slot in a state that the catalogue gives it. -/
def CellRec.loaded (ld : LoadRec) (st : SlotState) (clock : Nat) (r : CellRec) : CellRec :=
  { r with
    loadFailures := 0, load := none
    slots := r.slots.set ld.slot { r.slots[ld.slot] with state := st, lastUse := clock } }

theorem CellRec.evolves_loaded (r : CellRec) (ld : LoadRec) (st : SlotState) (clock : Nat) : r.Evolves (r.loaded ld st clock) :=
  .of_eq rfl rfl rfl

theorem Bay.Evolves.loadGood (x : Ctx) (b : Bay) (c : CellNo) : b.Evolves (b.loadGood x c) := by
  have hgood (ld : LoadRec) (st : SlotState) : b.Evolves ((b.leaveLists x c).modCell c (CellRec.loaded ld st x.clock)) :=
    (Bay.Reloads.leaveLists x b c).evolves.trans (.modCell (CellRec.evolves_loaded ..))
  unfold Bay.loadGood
  split
  · exact .refl b
  · next ld _ =>
    dsimp only
    split
    · split
      · exact (hgood ld _).trans (.makeOffer ..)
      · exact (hgood ld _).trans (.reload ..)
    · exact ((hgood ld _).trans (.setState (by decide))).trans (.matchCell ..)

theorem Bay.Evolves.failTargets (x : Ctx) : ∀ (ts : List Target) (b : Bay),
    b.Evolves (ts.foldl (fun b t => b.loadFails x t.cell) b)
  | [], b => .refl b
  | t :: ts, b => (Bay.Evolves.loadFails x b t.cell).trans (Bay.Evolves.failTargets x ts _)

theorem Bay.Reloads.placeLoads (x : Ctx) : ∀ (es : List (CellNo × SlotNo)) (b : Bay),
    b.Reloads (es.foldl (fun b e => b.placeLoad x e.1) b)
  | [], b => .refl b
  | e :: es, b => (Bay.Reloads.placeLoad x b e.1).trans (Bay.Reloads.placeLoads x es _)

/-- R94: the fault of a channel, counted. -/
def Channel.faulted (cause : FaultCause) (ch : Channel) : Channel :=
  { ch with faults := bump16 ch.faults, lastFault := some cause }

theorem Bay.channelFault_eq (x : Ctx) (b : Bay) (k : ChanNo) (cause : FaultCause) :
    b.channelFault x k cause = (b.chan k).nextRound.foldl (fun b e => b.placeLoad x e.1)
      ((b.chan k).targets.foldl (fun b t => b.loadFails x t.cell) ((b.modChan k (Channel.faulted cause)).goIdle x k)) := rfl

theorem Bay.Evolves.channelFault (x : Ctx) (b : Bay) (k : ChanNo) (cause : FaultCause) : b.Evolves (b.channelFault x k cause) := by
  have hmod : b.Evolves (b.modChan k (Channel.faulted cause)) := .modChan (.of_segs rfl le_rfl)
  rw [Bay.channelFault_eq]
  exact ((hmod.trans (Bay.Reloads.goIdle x _ k).evolves).trans (.failTargets x _ _)).trans
    (Bay.Reloads.placeLoads x _ _).evolves

theorem Bay.Evolves.pullExpiry (x : Ctx) (b : Bay) (k : ChanNo) : b.Evolves (b.pullExpiry x k) := by
  unfold Bay.pullExpiry
  split
  · exact (Bay.Evolves.modChan (.of_none rfl le_rfl)).trans (Bay.Reloads.roundEnd x _ k).evolves
  · exact .channelFault ..

/-! ### READY, the replies to an offer and PAUSED -/

theorem Bay.Evolves.readyFrame (x : Ctx) (b : Bay) (c : CellNo) (kit temp sites : Byte) :
    b.Evolves (b.readyFrame x c kit temp sites) := by
  unfold Bay.readyFrame
  split
  · exact .protocolError ..
  · next t _ =>
    have hcap : b.Evolves (b.modCell c fun r => r.capable kit t sites) := .modCell (.of_eq rfl rfl rfl)
    split
    · exact .protocolError ..
    · split
      · exact .protocolError ..
      · exact .protocolError ..
      · exact .protocolError ..
      · exact hcap
      · exact hcap
      · exact ((Bay.Evolves.modCell (.of_becomes .idle rfl rfl (by decide))).trans (.matchCell ..)).trans (.modCell (.of_eq rfl rfl rfl))

theorem Bay.Evolves.lateReply (b : Bay) (c : CellNo) (id : Half) : b.Evolves (b.lateReply c id) := by
  unfold Bay.lateReply
  dsimp only
  split
  · exact .protocolError ..
  · exact .withdrawDue ..

theorem CellRec.openOffer_eq_some {r : CellRec} {id : Half} {a : Assignment} :
    r.openOffer id = some a ↔ r.state = .offered ∧ r.assignment = some a ∧ a.id = id := by
  unfold CellRec.openOffer
  split
  · next hs => simp [hs, Option.filter_eq_some_iff]
  · next hs => simp [hs]

/-- R68: a cell that takes its open offer keeps the slot that it names. -/
theorem CellRec.evolves_taken {r : CellRec} {id : Half} {a : Assignment} (ho : r.openOffer id = some a) :
    r.Evolves { r with state := .running, pause := .none, offerDeadline := none, assignment := some a.zeroed } := by
  obtain ⟨hs, ha, _⟩ := CellRec.openOffer_eq_some.1 ho
  refine ⟨fun h => h, fun h _ => ?_⟩
  obtain ⟨a', k, ha', hk⟩ := h (by simp [hs])
  cases ha.symm.trans ha'
  exact ⟨a.zeroed, k, rfl, hk⟩

theorem Bay.Evolves.takeFrame (x : Ctx) (b : Bay) (c : CellNo) (id : Half) : b.Evolves (b.takeFrame x c id) := by
  unfold Bay.takeFrame
  split
  · exact .lateReply ..
  · next a ho =>
    have htaken : b.Evolves (b.modCell c fun r =>
        { r with state := .running, pause := .none, offerDeadline := none, assignment := some a.zeroed }) :=
      .modCell (CellRec.evolves_taken ho)
    dsimp only
    split
    · exact (htaken.trans (.modSlot ..)).trans (.armStall ..)
    · exact htaken.trans (.armStall ..)

theorem Bay.Evolves.declineFrame (x : Ctx) (b : Bay) (c : CellNo) (id : Half) : b.Evolves (b.declineFrame x c id) := by
  unfold Bay.declineFrame
  split
  · exact .lateReply ..
  · exact (Bay.Evolves.modCell (.of_becomes .notReady rfl rfl (by decide))).trans
      (.returnSublot_of x .notReady (by rw [Bay.cell_modCell_self]) (by decide))

theorem Bay.Evolves.pausedFrame (b : Bay) (c : CellNo) (id : Half) : b.Evolves (b.pausedFrame c id) := by
  unfold Bay.pausedFrame
  dsimp only
  split
  · split
    · exact .modCell (.of_eq rfl rfl rfl)
    · exact .refl b
  · exact .protocolError ..

/-! ### STATE and claims -/

theorem Bay.Evolves.leaveLoading (x : Ctx) (b : Bay) (c : CellNo) {after : CellState} (hs : after ∉ [.offered, .running]) :
    b.Evolves (b.leaveLoading x c after) := by
  refine ((Bay.Evolves.setState hs).trans (.abandonLoad x _ c)).trans (.returnSublot x ?_)
  rw [(Bay.work_abandonLoad x _ c c).1, Bay.cell_modCell_self]
  exact hs

theorem Bay.Evolves.takeover (x : Ctx) (b : Bay) (c : CellNo) : b.Evolves (b.takeover x c) := by
  unfold Bay.takeover
  split
  · exact .setState (by decide)
  · exact .setState (by decide)
  · exact .setState (by decide)
  · exact .withdrawOffer x b c (by decide)
  · exact .leaveLoading x b c (by decide)
  · exact .modCell (.of_eq rfl rfl rfl)
  all_goals exact .refl b

theorem Bay.Evolves.remote (b : Bay) (c : CellNo) : b.Evolves (b.remote c) := by
  unfold Bay.remote
  split
  · exact .setState (by decide)
  · exact .modCell (.of_eq rfl rfl rfl)
  · exact .refl b

theorem Bay.Evolves.stateFrame (x : Ctx) (b : Bay) (c : CellNo) (mode : Byte) (alarm : Half) :
    b.Evolves (b.stateFrame x c mode alarm) := by
  have halarm : b.Evolves (b.modCell c fun r => { r with alarm := alarm }) := .modCell (.of_eq rfl rfl rfl)
  unfold Bay.stateFrame
  dsimp only
  split
  · exact halarm.trans (.takeover ..)
  · exact halarm.trans (.remote ..)
  · exact halarm.trans (.protocolError ..)

theorem Bay.Evolves.claim (x : Ctx) (b : Bay) (c : CellNo) : b.Evolves (b.claim x c) := by
  unfold Bay.claim
  split
  · exact .withdrawOffer x b c (by decide)
  · exact .leaveLoading x b c (by decide)
  · split
    · exact .refl b
    · exact (Bay.Evolves.modCell (.of_eq rfl rfl rfl)).trans (.finishDue ..)
  · exact .setState (by decide)

/-! ### UNIT -/

theorem Bay.Evolves.modAssignment {b : Bay} {c : CellNo} {f : Assignment → Assignment} (hf : ∀ a, (f a).slot = a.slot) :
    b.Evolves (b.modAssignment c f) := .modCell (.of_slot (f := f) id rfl rfl hf)

theorem Bay.Evolves.finishSublot (b : Bay) (c : CellNo) (p : GateProfile) : b.Evolves (b.finishSublot c p) := by
  unfold Bay.finishSublot
  split
  · exact .refl b
  · split
    · split
      · exact .finishDue ..
      · exact .owe ..
    · exact .refl b

theorem Bay.Evolves.stallWatch (x : Ctx) (b : Bay) (c : CellNo) : b.Evolves (b.stallWatch x c) := by
  have hmod : b.Evolves (b.modCell c fun r => { r with stalled := false }) := .modCell (.of_eq rfl rfl rfl)
  unfold Bay.stallWatch
  dsimp only
  split
  · exact hmod.trans (.armStall ..)
  · exact hmod

/-- R110: the raises of a unit on a lot. -/
theorem Bay.Evolves.raises (x : Ctx) (h : LotNo) : ∀ (raises : List (HoldKind × HoldDetail)) (b : Bay),
    b.Evolves (raises.foldl (fun b r => b.raise x h r.1 .gate r.2) b)
  | [], b => .refl b
  | r :: raises, b => (Bay.Evolves.raise x b h r.1 .gate r.2).trans (Bay.Evolves.raises x h raises _)

theorem Bay.Evolves.gateUnit (x : Ctx) (b : Bay) (c : CellNo) (site : SiteNo) : b.Evolves (b.gateUnit x c site) := by
  unfold Bay.gateUnit
  split
  · exact .refl b
  · dsimp only
    split
    · split
      · exact (Bay.Evolves.modCell (.of_eq rfl rfl rfl)).trans (.raises ..)
      · exact .raises ..
    · exact .refl b

theorem Bay.Evolves.countUnit (x : Ctx) (b : Bay) (c : CellNo) (a : Assignment) (site : SiteNo) (bin : BinNo) :
    b.Evolves (b.countUnit x c a site bin) := by
  unfold Bay.countUnit
  dsimp only
  generalize x.profile (b.lot a.lot) a.step = p
  have hlot : b.Evolves (b.modLot a.lot fun l => l.modStep a.step fun r => r.counted bin (inBins p.goodBins bin)) :=
    .modLot ⟨rfl, rfl, rfl, rfl, rfl, rfl, rfl⟩
  have hcell (b : Bay) : b.Evolves (b.modAssignment c fun a => a.counted site bin (inBins p.goodBins bin)) :=
    .modAssignment fun _ => rfl
  exact (((hlot.trans (hcell _)).trans (.finishSublot _ c p)).trans (.stallWatch x _ c)).trans (.gateUnit x _ c site)

theorem Bay.Evolves.unitFrame (x : Ctx) (b : Bay) (c : CellNo) (id : Half) (site bin : Byte) :
    b.Evolves (b.unitFrame x c id site bin) := by
  unfold Bay.unitFrame
  split
  · exact .countCell ..
  · dsimp only
    split
    · exact .raise ..
    · exact .countUnit ..

/-! ### TALLY and the close of a sublot -/

theorem CellRec.afterClose_unslotted (r : CellRec) : r.afterClose ∉ [.offered, .running] := by
  unfold CellRec.afterClose
  split
  · decide
  · split
    · decide
    · split <;> decide

theorem Bay.Evolves.closeSublot {b : Bay} {c : CellNo} {after : CellState} (hs : after ∉ [.offered, .running]) :
    b.Evolves (b.closeSublot c after) :=
  ((Bay.Evolves.modCell (.of_state rfl hs)).trans (.dropAssignment (by rw [Bay.cell_modCell_self]; exact hs))).trans (.owe ..)

theorem Bay.Evolves.dropUnretained (x : Ctx) (b : Bay) (c : CellNo) (a : Assignment) : b.Evolves (b.dropUnretained x c a) := by
  unfold Bay.dropUnretained
  split
  · exact .refl b
  · dsimp only
    split
    · exact .refl b
    · split
      · exact .modSlot ..
      · exact .refl b

/-- R145: a closing TALLY, up to the raise. -/
def Bay.tallied (x : Ctx) (b : Bay) (c : CellNo) (a : Assignment) (missing : BitVec 24) : Bay :=
  ((b.modLot a.lot fun l => l.modStep a.step fun r => { r with missing := add24 r.missing missing.toNat }).modCell c
    fun r => { r with commands := r.commands.filter (!·.finishes a.id) }).dropUnretained x c a

/-- R144: the raise of a TALLY out of tolerance. -/
def Bay.tallyRaised (x : Ctx) (b : Bay) (c : CellNo) (a : Assignment) (fault : Option BinNo) : Bay :=
  match fault with
  | some k => b.raise x a.lot .tally .count (.tally c (some k))
  | none => b

theorem Bay.closingTally_eq (x : Ctx) (b : Bay) (c : CellNo) (a : Assignment) (bins : Vector (BitVec 24) 16)
    (missing : BitVec 24) :
    b.closingTally x c a bins missing =
      let b' := b.tallied x c a missing
      let done := ((b'.closeSublot c (b'.cell c).afterClose).tallyRaised x c a
        (tallyFault (x.profile (b.lot a.lot) a.step) bins a.bins)).giveBack x a.lot (a.qty - a.units)
      if (b'.cell c).afterClose = .idle then done.matchCell x c else done := rfl

theorem Bay.Evolves.tallied (x : Ctx) (b : Bay) (c : CellNo) (a : Assignment) (missing : BitVec 24) :
    b.Evolves (b.tallied x c a missing) :=
  ((Bay.Evolves.modLot ⟨rfl, rfl, rfl, rfl, rfl, rfl, rfl⟩).trans
    (.modCell (.of_commands (fun h => h.sublist List.filter_sublist) rfl rfl))).trans (.dropUnretained ..)

theorem Bay.Evolves.tallyRaised (x : Ctx) (b : Bay) (c : CellNo) (a : Assignment) (fault : Option BinNo) :
    b.Evolves (b.tallyRaised x c a fault) := by
  unfold Bay.tallyRaised
  split
  · exact .raise ..
  · exact .refl b

theorem Bay.Evolves.closingTally (x : Ctx) (b : Bay) (c : CellNo) (a : Assignment) (bins : Vector (BitVec 24) 16)
    (missing : BitVec 24) : b.Evolves (b.closingTally x c a bins missing) := by
  have hdone := (((Bay.Evolves.tallied x b c a missing).trans
    (.closeSublot (c := c) (CellRec.afterClose_unslotted ((b.tallied x c a missing).cell c)))).trans
    (.tallyRaised x _ c a (tallyFault (x.profile (b.lot a.lot) a.step) bins a.bins))).trans
    (.giveBack x _ a.lot (a.qty - a.units))
  rw [Bay.closingTally_eq]
  dsimp only
  split
  · exact hdone.trans (.matchCell ..)
  · exact hdone

theorem Bay.Evolves.tallyFrame (x : Ctx) (b : Bay) (c : CellNo) (id : Half) (bins : Vector (BitVec 24) 16)
    (missing : BitVec 24) : b.Evolves (b.tallyFrame x c id bins missing) := by
  unfold Bay.tallyFrame
  dsimp only
  split
  · exact .protocolError ..
  · split
    · exact .closingTally ..
    · exact .protocolError ..

/-! ### LOADED and TSTATE -/

theorem Bay.Evolves.loadedFrame (x : Ctx) (b : Bay) (c : CellNo) (program : Half) (revision slot result : Byte) :
    b.Evolves (b.loadedFrame x c program revision slot result) := by
  unfold Bay.loadedFrame
  dsimp only
  split
  · exact .refl b
  · split
    · exact .refl b
    · split
      · exact .protocolError ..
      · split
        · exact .loadGood ..
        · exact .loadFails ..

theorem Bay.Evolves.slotLost (x : Ctx) (b : Bay) (c : CellNo) (program : Half) : b.Evolves (b.slotLost x c program) := by
  unfold Bay.slotLost
  dsimp only
  split
  · exact .refl b
  · split
    · exact (Bay.Evolves.withdrawOffer x b c (by decide)).trans (.matchCell ..)
    · exact .raise ..
    · exact .refl b

theorem Bay.Evolves.failDelivering (x : Ctx) (b : Bay) (c : CellNo) : b.Evolves (b.failDelivering x c) := by
  unfold Bay.failDelivering
  split
  · exact .loadFails ..
  · exact .refl b

theorem Bay.Evolves.memoryLost (x : Ctx) (b : Bay) (c : CellNo) : b.Evolves (b.memoryLost x c) := by
  have hempty := (Bay.Evolves.failDelivering x b c).trans
    (.modCell (c := c) (f := fun r => { r with slots := r.slots.map fun s => if s.held then s.emptied else s }) (.of_eq rfl rfl rfl))
  unfold Bay.memoryLost
  dsimp only
  split
  · exact hempty
  · exact hempty.trans (.slotLost ..)

theorem Bay.Evolves.altered (x : Ctx) (b : Bay) (c : CellNo) (k : SlotNo) : b.Evolves (b.altered x c k) := by
  have hmod : b.Evolves (b.modSlot c k fun s => { s with state := .altered }) := .modSlot ..
  unfold Bay.altered
  dsimp only
  split
  · exact .failDelivering ..
  · split
    · exact hmod.trans (.slotLost ..)
    · exact hmod
  · split
    · exact hmod.trans (.slotLost ..)
    · exact hmod
  · exact .refl b

theorem Bay.Evolves.tstateFrame (x : Ctx) (b : Bay) (c : CellNo) (code slot : Byte) :
    b.Evolves (b.tstateFrame x c code slot) := by
  unfold Bay.tstateFrame
  split
  · exact .memoryLost ..
  · split
    · exact .altered ..
    · exact .protocolError ..
  · exact .protocolError ..

/-- Every cell frame keeps the laws of the bay. -/
theorem Bay.Evolves.cellFrameEffect (x : Ctx) (b : Bay) (c : CellNo) (src : CellStation) (m : CellMsg) :
    b.Evolves (b.cellFrameEffect x c src m) := by
  unfold Bay.cellFrameEffect
  split
  · exact .protocolError ..
  · cases m with
    | ready kit temp sites => exact .readyFrame ..
    | take id => exact .takeFrame ..
    | decline id => exact .declineFrame ..
    | unit id site bin seq => exact .unitFrame ..
    | tally id bins q missing => exact .tallyFrame ..
    | paused id => exact .pausedFrame ..
    | state mode alarm => exact .stateFrame ..
    | loaded program revision slot result => exact .loadedFrame ..
    | tstate code slot => exact .tstateFrame ..

/-! ### Loss of a cell's link (R48, R49) -/

theorem Bay.Evolves.lostSublot (x : Ctx) (b : Bay) (c : CellNo) (a : Assignment) : b.Evolves (b.lostSublot x c a) := by
  have hclose : b.Evolves (b.closeSublot c .offline) := .closeSublot (by decide)
  exact (hclose.trans (.raise x _ a.lot .tally .count (.tally c none))).trans (.giveBack x _ a.lot (a.qty - a.units))

theorem Bay.Evolves.endWork (x : Ctx) (b : Bay) (c : CellNo) : b.Evolves (b.endWork x c) := by
  have hoff : b.Evolves (b.modCell c fun r => { r with state := .offline, offerDeadline := none }) :=
    .modCell (.of_becomes .offline rfl rfl (by decide))
  have hcell : ((b.modCell c fun r => { r with state := .offline, offerDeadline := none }).cell c).state = .offline := by
    rw [Bay.cell_modCell_self]
  unfold Bay.endWork
  dsimp only
  split
  · exact hoff.trans (.returnSublot_of x .offline hcell (by decide))
  · exact (hoff.trans (.abandonLoad ..)).trans
      (.returnSublot_of x .offline ((Bay.work_abandonLoad ..).1.trans hcell) (by decide))
  · exact hoff.trans (.lostSublot ..)
  · exact hoff

theorem Bay.Evolves.linkLost (x : Ctx) (b : Bay) (c : CellNo) : b.Evolves (b.linkLost x c) := by
  have hclear (b : Bay) : b.Evolves (b.modCell c fun r => { r with commands := [], slots := r.slots.map Slot.emptied }) :=
    .modCell (.of_commands (fun _ => commandLaw_nil) rfl rfl)
  unfold Bay.linkLost
  dsimp only
  split
  · exact hclear b
  · exact (((Bay.Evolves.endWork x b c).trans (hclear _)).trans (.modCell (.of_eq rfl rfl rfl))).trans (.owe ..)

end Sys2Proof.Machine

/-!
SUPPORT. Requests, table writes, expiries and resets keep what `Bay.Evolves` says of the bay.
-/

namespace Sys2Proof.Machine

/-- A lot out of the queue takes a record that is out of it too. -/
theorem Bay.LotLaw.modIdle {b : Bay} {h : LotNo} {f : LotRec → LotRec} (hb : b.LotLaw) (hs : (b.lot h).state ≠ .active)
    (hs' : (f (b.lot h)).state ≠ .active) (hh : (f (b.lot h)).HoldLaw) (hw : (f (b.lot h)).QuantityLaw) :
    (b.modLot h f).LotLaw := by
  refine ((hb.but h).modLot f).of_like (Bay.like_lot_modLot b h f) ?_ hs' hh hw
  rw [Bay.queue_modLot, hb.2.1 h]
  exact hs

/-! ### LOT.DEFINE, LOT.START and promotion -/

theorem Bay.Evolves.promote (x : Ctx) (b : Bay) (h : LotNo) : b.Evolves (b.promote x h) := by
  have hlike := Bay.like_lot_modLot b h fun l => { l with cls := .expedited, ageDeadline := none }
  unfold Bay.promote
  dsimp only
  split
  · next hq =>
    refine ⟨((Bay.Drifts.modLot ..).trans (.enqueue ..)).trans (Bay.Evolves.matchLot ..).drifts, fun hb => ?_⟩
    obtain ⟨hh, hw⟩ := hb.1 h
    refine (Bay.Evolves.matchLot ..).lots (((hb.but h).modLot _).enqueue ?_ (hlike.holdLaw hh) (hlike.quantityLaw hw))
    rw [hlike.state]
    rw [Bay.queue_modLot] at hq
    exact (hb.2.1 h).1 hq
  · next hq =>
    refine ⟨.modLot .., fun hb => ?_⟩
    rw [Bay.queue_modLot, hb.2.1 h] at hq
    exact hb.modIdle hq hq (hb.1 h).1 (hb.1 h).2

/-- R17: a route that is defined has at most 6 steps. -/
theorem length_definedSteps {stepCount : Byte} {steps : Vector StepImage 6} :
    (definedSteps stepCount steps).length ≤ 6 := by
  simp [definedSteps]

theorem Bay.state_lowestFree {b : Bay} {h : LotNo} (hf : b.lowestFree = some h) : (b.lot h).state = .free := by
  simpa using List.find?_some hf

theorem Bay.Evolves.define (b : Bay) (nameLength : Byte) (name : Vector Byte 16) (start : BitVec 24) (policy stepCount : Byte)
    (steps : Vector StepImage 6) : b.Evolves (b.define nameLength name start policy stepCount steps).1 := by
  unfold Bay.define
  split
  · exact .refl b
  · next p _ =>
    split
    · exact .refl b
    · split
      · exact .refl b
      · split
        · exact .refl b
        · next h hf =>
          dsimp only
          refine ⟨.modLot .., fun hb => hb.modIdle ?_ nofun (LotRec.holdLaw_of_clear nofun rfl rfl)
            (LotRec.quantityLaw_of_idle nofun nofun rfl ?_)⟩
          · rw [Bay.state_lowestFree hf]
            decide
          · show ((definedSteps stepCount steps).map routeStepOf).length ≤ 6
            rw [List.length_map]
            exact length_definedSteps

theorem Bay.Evolves.start (x : Ctx) (b : Bay) (h : LotNo) : b.Evolves (b.start x h).1 := by
  unfold Bay.start
  dsimp only
  split
  · next hs =>
    refine ⟨.openStep .., fun hb => (hb.parked ?_ ?_).openStep x 5 (by omega)⟩ <;> rw [hs] <;> decide
  · split
    · dsimp only
      split
      · exact .promote ..
      · exact .refl b
    · exact .refl b

/-! ### LOT.ABORT -/

/-- R21: a lot whose abort has begun. -/
def Bay.Aborting (b : Bay) (h : LotNo) : Prop := (b.lot h).state = .aborting ∨ (b.lot h).state = .aborted

theorem Bay.Aborting.modLot {b : Bay} {h : LotNo} (hb : b.Aborting h) {h' : LotNo} {f : LotRec → LotRec}
    (hf : (f (b.lot h')).state = (b.lot h').state ∨ (f (b.lot h')).state = .aborted) : (b.modLot h' f).Aborting h := by
  unfold Bay.Aborting at hb ⊢
  by_cases he : h' = h
  · subst he
    rw [(Bay.like_lot_modLot b h' f).state]
    rcases hf with hf | hf
    · rw [hf]
      exact hb
    · exact .inr hf
  · rw [Bay.lot_modLot_ne b f he]
    exact hb

theorem Bay.Aborting.of_lots {b b' : Bay} {h : LotNo} (hb : b.Aborting h) (hl : b'.lots = b.lots) : b'.Aborting h := by
  unfold Bay.Aborting Bay.lot
  rw [hl]
  exact hb

theorem Bay.lots_setCell_eq {b : Bay} {c : CellNo} {r : CellRec} : (b.setCell c r).lots = b.lots := rfl

theorem Bay.Aborting.giveBack (x : Ctx) {b : Bay} {h : LotNo} (hb : b.Aborting h) (amount : Nat) :
    (b.giveBack x h amount).Aborting h := by
  have hgiven : (b.modLot h (LotRec.given amount)).Aborting h := hb.modLot (.inl rfl)
  rw [Bay.giveBack_eq]
  unfold Bay.afterGiven
  split
  case h_1 hs => rcases hgiven with h1 | h1 <;> cases hs.symm.trans h1
  case h_2 hs => rcases hgiven with h1 | h1 <;> cases hs.symm.trans h1
  case h_3 hs => rcases hgiven with h1 | h1 <;> cases hs.symm.trans h1
  case h_4 hs =>
    split
    · exact hgiven.modLot (.inr rfl)
    · exact hgiven
  case h_5 => exact hgiven

theorem Bay.Aborting.returnSublot (x : Ctx) {b : Bay} {h : LotNo} {c : CellNo} (hb : b.Aborting h)
    (hc : ∀ a, (b.cell c).assignment = some a → a.lot = h) : (b.returnSublot x c).Aborting h := by
  unfold Bay.returnSublot
  split
  · exact hb
  · next a ha =>
    rw [hc a ha]
    refine Bay.Aborting.giveBack x ?_ _
    unfold Bay.dropAssignment
    rw [ha]
    exact (hb.of_lots (Bay.lots_modCell ..)).modLot (.inl rfl)

theorem CellRec.assignment_withdrawn (r : CellRec) (id : Half) (lot : Option LotNo) :
    (r.withdrawn id lot).assignment = r.assignment := by
  unfold CellRec.withdrawn
  dsimp only
  split <;> rfl

theorem Bay.Aborting.withdrawOffer (x : Ctx) {b : Bay} {h : LotNo} {c : CellNo} (hb : b.Aborting h)
    (hc : ∀ a, (b.cell c).assignment = some a → a.lot = h) (after : CellState) : (b.withdrawOffer x c after).Aborting h := by
  unfold Bay.withdrawOffer
  dsimp only
  rw [Bay.cell_modCell_self]
  split
  · exact hb.of_lots (Bay.lots_modCell ..)
  · rw [Bay.withdrawDue_eq]
    refine Bay.Aborting.returnSublot x (hb.of_lots (Bay.lots_modCell ..)) fun a' ha' => ?_
    rw [Bay.cell_setCell_self, CellRec.assignment_withdrawn, Bay.cell_modCell_self] at ha'
    exact hc a' ha'

theorem Bay.Aborting.abortCell (x : Ctx) {h : LotNo} {acc : Bay × List CellNo} (hb : acc.1.Aborting h) (c : CellNo) :
    (Bay.abortCell x h acc c).1.Aborting h := by
  unfold Bay.abortCell
  dsimp only
  split
  · next hany =>
    have hc : ∀ a, (acc.1.cell c).assignment = some a → a.lot = h := by
      intro a ha
      rw [ha] at hany
      simpa using hany
    split
    · exact hb.withdrawOffer x hc _
    · exact hb.returnSublot x hc
    · dsimp only
      rw [Bay.finishDue_eq]
      exact hb.of_lots rfl
    · exact hb
  · exact hb

theorem Bay.Evolves.abortCell (x : Ctx) (h : LotNo) (acc : Bay × List CellNo) (c : CellNo) :
    acc.1.Evolves (Bay.abortCell x h acc c).1 := by
  unfold Bay.abortCell
  dsimp only
  split
  · split
    · exact .withdrawOffer x _ c (by decide)
    · next hs => exact .returnSublot x (by rw [hs]; decide)
    · exact .finishDue ..
    · exact .refl _
  · exact .refl _

/-- R21: the record of a lot whose abort begins. -/
def LotRec.toAborting (l : LotRec) : LotRec :=
  { l with
    state := .aborting, saved := none, holds := [], completedAt := none, quarantine := none, quarantineSpent := false }

/-- R21: the cells of a lot whose abort has begun, dealt with. -/
def Bay.abortCells (x : Ctx) (b : Bay) (h : LotNo) : Bay × List CellNo :=
  allCells.foldl (Bay.abortCell x h) ((b.modLot h LotRec.toAborting).leaveQueue h, [])

/-- R21: a lot without an open sublot has been aborted. -/
def Bay.abortDone (b : Bay) (h : LotNo) : Bay :=
  if (b.lot h).openSublots = 0 then b.modLot h fun l => { l with state := .aborted } else b

theorem Bay.abortLot_eq (x : Ctx) (b : Bay) (h : LotNo) :
    b.abortLot x h = ((b.abortCells x h).1.abortDone h).matchCells x (b.abortCells x h).2.reverse := by
  unfold Bay.abortLot Bay.abortCells
  delta LotRec.toAborting
  dsimp only
  generalize allCells.foldl (Bay.abortCell x h) _ = p
  rfl

theorem Bay.Aborting.foldl_abortCell (x : Ctx) {h : LotNo} : ∀ (cs : List CellNo) {acc : Bay × List CellNo}, acc.1.Aborting h →
    (cs.foldl (Bay.abortCell x h) acc).1.Aborting h
  | [], _, hb => hb
  | c :: cs, _, hb => Bay.Aborting.foldl_abortCell x cs (hb.abortCell x c)

theorem Bay.Evolves.abortDone {b : Bay} {h : LotNo} (ha : b.Aborting h) : b.Evolves (b.abortDone h) := by
  unfold Bay.abortDone
  split
  · refine ⟨.modLot .., fun hb => ?_⟩
    have hst : (b.lot h).state ≠ .active ∧ (b.lot h).state ≠ .held := by
      rcases ha with ha | ha <;> rw [ha] <;> decide
    have hparked := hb.parked hst.1 hst.2
    exact hb.modIdle hst.1 nofun (LotRec.holdLaw_of_clear nofun hparked.holds hparked.saved)
      (LotRec.quantityLaw_of_idle nofun nofun hparked.saved hparked.route)
  · exact .refl b

theorem Bay.Evolves.toAborting (b : Bay) (h : LotNo) : b.Evolves ((b.modLot h LotRec.toAborting).leaveQueue h) := by
  refine ⟨(Bay.Drifts.modLot ..).trans (.leaveQueue ..), fun hb => ?_⟩
  exact ((hb.but h).modLot _).leaveQueue.of_like ((Bay.like_lot_modLot b h LotRec.toAborting).trans (Bay.like_lot_leaveQueue _ h h))
    (Bay.not_mem_queue_leaveQueue _ _) nofun (LotRec.holdLaw_of_clear nofun rfl rfl)
    (LotRec.quantityLaw_of_idle nofun nofun rfl (hb.1 h).2.2.2.2.2)

theorem Bay.Evolves.abortLot (x : Ctx) (b : Bay) (h : LotNo) : b.Evolves (b.abortLot x h) := by
  have hcells : ((b.modLot h LotRec.toAborting).leaveQueue h).Evolves (b.abortCells x h).1 :=
    Bay.Evolves.foldlPair (Bay.Evolves.abortCell x h) allCells ((b.modLot h LotRec.toAborting).leaveQueue h, [])
  have hbegun : ((b.modLot h LotRec.toAborting).leaveQueue h).Aborting h :=
    .inl ((Bay.like_lot_leaveQueue _ h h).state.trans (Bay.like_lot_modLot b h LotRec.toAborting).state)
  have habort : (b.abortCells x h).1.Aborting h := Bay.Aborting.foldl_abortCell x allCells hbegun
  rw [Bay.abortLot_eq]
  exact (((Bay.Evolves.toAborting b h).trans hcells).trans (.abortDone habort)).trans (.matchCells ..)

theorem Bay.Evolves.abort (x : Ctx) (b : Bay) (h : LotNo) : b.Evolves (b.abort x h).1 := by
  unfold Bay.abort
  dsimp only
  split
  · next hs =>
    dsimp only
    refine ⟨.modLot .., fun hb => ?_⟩
    have hparked := hb.parked (h := h) (by rw [hs]; decide) (by rw [hs]; decide)
    exact hb.modIdle (by rw [hs]; decide) nofun (LotRec.holdLaw_of_clear nofun hparked.holds hparked.saved)
      (LotRec.quantityLaw_of_idle nofun nofun hparked.saved hparked.route)
  · split
    · dsimp only
      exact .abortLot ..
    · exact .refl b

/-! ### LOT.RETIRE, LOT.SHIP and the release of a lot -/

theorem Bay.Evolves.retire (x : Ctx) (b : Bay) (h : LotNo) : b.Evolves (b.retire x h).1 := by
  unfold Bay.retire
  split
  · next hr =>
    have hs : (b.lot h).state ≠ .active := fun hs => by rw [hs] at hr; cases hr
    refine .trans ⟨.modLot .., fun hb => ?_⟩ (.unowe ..)
    exact hb.modIdle hs nofun (LotRec.holdLaw_of_clear nofun rfl rfl)
      (LotRec.quantityLaw_of_idle nofun nofun rfl (Nat.zero_le _))
  · exact .refl b

theorem Bay.Evolves.releaseLot (x : Ctx) {b : Bay} {h : LotNo} (hs : (b.lot h).state = .complete) :
    b.Evolves (b.releaseLot x h) := by
  rw [Bay.releaseLot_eq]
  refine .trans (b' := b.numbered) (.of_eq rfl rfl rfl rfl rfl rfl) ⟨.modLot .., fun hb => ?_⟩
  have hparked := hb.parked (h := h) (by show (b.lot h).state ≠ _; rw [hs]; decide) (by show (b.lot h).state ≠ _; rw [hs]; decide)
  exact hb.modIdle (by show (b.lot h).state ≠ _; rw [hs]; decide) nofun
    (LotRec.holdLaw_of_clear nofun hparked.holds hparked.saved)
    (LotRec.quantityLaw_of_idle nofun nofun hparked.saved hparked.route)

theorem Bay.Evolves.ship (stamp : Stamp) (x : Ctx) (b : Bay) (h : LotNo) : b.Evolves (b.ship stamp x h).1 := by
  unfold Bay.ship
  dsimp only
  split
  · exact .refl b
  · next hs =>
    split
    · exact .refl b
    · split
      · exact .refl b
      · exact .releaseLot x (not_not.1 hs)

/-! ### HOLD.SET and HOLD.RELEASE -/

theorem Bay.Evolves.holdSet (detail : BitVec 32) (x : Ctx) (b : Bay) (h : LotNo) : b.Evolves (b.holdSet detail x h).1 := by
  unfold Bay.holdSet
  split
  · dsimp only
    exact .raise ..
  · exact .refl b

/-- R135, R136: a lot without a kind in its hold set, waived where the mode is taken so. -/
def LotRec.without (k : HoldKind) (m : ReleaseMode) (l : LotRec) : LotRec :=
  match l.modeTaken k m with
  | .waive => { l with holds := l.holds.filter (·.kind ≠ k) }.modStep l.openIndex fun r => { r with waivers := r.waivers.add k }
  | .clear => { l with holds := l.holds.filter (·.kind ≠ k) }

theorem Bay.releaseHold_eq (x : Ctx) (b : Bay) (h : LotNo) (k : HoldKind) (m : ReleaseMode) :
    b.releaseHold x h k m =
      if ((b.modLot h (LotRec.without k m)).lot h).holds = [] then (b.modLot h (LotRec.without k m)).restoreLot x h
      else b.modLot h (LotRec.without k m) := rfl

/-- R135: what the removal of a kind leaves. -/
theorem LotRec.like_without (l : LotRec) (k : HoldKind) (m : ReleaseMode) :
    LotRec.Like { l with holds := l.holds.filter (·.kind ≠ k) } (l.without k m) := by
  unfold LotRec.without
  split <;> exact ⟨rfl, rfl, rfl, rfl, rfl, rfl, rfl⟩

theorem Bay.Drifts.releaseHold (x : Ctx) (b : Bay) (h : LotNo) (k : HoldKind) (m : ReleaseMode) :
    b.Drifts (b.releaseHold x h k m) := by
  rw [Bay.releaseHold_eq]
  split
  · exact (Bay.Drifts.modLot ..).trans (.restoreLot ..)
  · exact .modLot ..

theorem Bay.LotLaw.releaseHold (x : Ctx) {b : Bay} (hb : b.LotLaw) {h : LotNo} (hs : (b.lot h).state = .held) (k : HoldKind)
    (m : ReleaseMode) : (b.releaseHold x h k m).LotLaw := by
  obtain ⟨⟨hheld, hsaved, hord⟩, _, _, hact, hclos, hroute⟩ := hb.1 h
  have hlike := ((b.lot h).like_without k m).trans (Bay.like_lot_modLot b h (LotRec.without k m))
  have hbut := (hb.but h).modLot (LotRec.without k m)
  have hq : h ∉ (b.modLot h (LotRec.without k m)).queue := by
    rw [Bay.queue_modLot, hb.2.1 h, hs]
    decide
  rw [Bay.releaseHold_eq]
  split
  · next hnil =>
    refine Bay.Cleared.restoreLot x ⟨hbut, hq, hnil, ?_, fun h1 => ?_, fun h1 => ?_, ?_⟩
    · rw [hlike.saved]
      exact hsaved.1 hs
    · rw [hlike.remaining]
      exact hact (hlike.saved.symm.trans h1)
    · rw [hlike.remaining]
      exact hclos (hlike.saved.symm.trans h1)
    · rw [hlike.route]
      exact hroute
  · next hnil =>
    rw [hlike.holds] at hnil
    refine hbut.of_like hlike hq ?_ ⟨iff_of_true hs hnil, hsaved, hord.filter _⟩ (hb.1 h).2
    show (b.lot h).state ≠ .active
    rw [hs]
    decide

/-- R134: a kind is named only of a HELD lot. -/
theorem LotRec.holds_of_releasedKind {l : LotRec} {target : ReleaseTarget} {k : HoldKind} (hk : l.releasedKind target = some k) :
    l.holds ≠ [] := by
  intro hn
  cases target <;> simp [LotRec.releasedKind, LotRec.leading, hn] at hk

theorem Bay.Evolves.holdRelease (target : ReleaseTarget) (m : ReleaseMode) (stamp : Stamp) (x : Ctx) (b : Bay) (h : LotNo) :
    b.Evolves (b.holdRelease target m stamp x h).1 := by
  unfold Bay.holdRelease
  dsimp only
  split
  · exact .refl b
  · split
    · exact .refl b
    · next k hk =>
      exact ⟨.releaseHold .., fun hb => hb.releaseHold x ((hb.1 h).1.1.2 (LotRec.holds_of_releasedKind hk)) k m⟩

/-! ### Cells and tables -/

theorem Bay.Evolves.restore (x : Ctx) (b : Bay) (c : CellNo) : b.Evolves (b.restore x c).1 := by
  unfold Bay.restore
  dsimp only
  split
  · dsimp only
    exact .modCell (.of_becomes .notReady rfl rfl (by decide))
  · exact .refl b

theorem Bay.Evolves.staleSlots (b : Bay) (before after : Option CatalogueEntry) : b.Evolves (b.staleSlots before after) := by
  refine .of_drifts ⟨fun h => h, fun h => h, fun c => ?_, fun k => .refl _⟩ rfl rfl
  have hcell : (b.staleSlots before after).cell c
      = { b.cell c with slots := (b.cell c).slots.map fun s => if staledBy before after s then { s with state := .stale } else s } := by
    simp [Bay.cell, Bay.staleSlots]
  rw [hcell]
  exact .of_eq rfl rfl rfl

theorem Bay.Evolves.stallWritten (b : Bay) (c : CellNo) (k : CellConfig) : b.Evolves (b.stallWritten c k) := by
  unfold Bay.stallWritten
  split
  · exact .modCell (.of_eq rfl rfl rfl)
  · exact .refl b

theorem Bay.Evolves.reformAges (x : Ctx) (b : Bay) : b.Evolves (b.reformAges x) :=
  .foldl (fun _ _ => .modLot ⟨rfl, rfl, rfl, rfl, rfl, rfl, rfl⟩) b.queue b

theorem Bay.Evolves.rotationWritten (b : Bay) (m : Turning) : b.Evolves (b.rotationWritten m) := by
  unfold Bay.rotationWritten
  split
  · exact .of_drifts ⟨fun _ => .refl _, fun h => h, fun _ => .refl _, fun _ => .refl _⟩ rfl rfl
  · exact .refl b

/-! ### Expiries -/

theorem Bay.Evolves.offerExpiry (x : Ctx) (b : Bay) (c : CellNo) : b.Evolves (b.offerExpiry x c) :=
  (Bay.Evolves.countCell ..).trans (.withdrawOffer x _ c (by decide))

theorem Bay.Evolves.stallExpiry (x : Ctx) (b : Bay) (c : CellNo) : b.Evolves (b.stallExpiry x c) := by
  unfold Bay.stallExpiry
  split
  · exact (Bay.Evolves.modCell (.of_eq rfl rfl rfl)).trans (.finishDue ..)
  · exact ((Bay.Evolves.modCell (.of_eq rfl rfl rfl)).trans (.owe ..)).trans (.armStall ..)

theorem Bay.Evolves.quarantineExpiry (x : Ctx) {b : Bay} {h : LotNo} (hs : (b.lot h).state = .complete) :
    b.Evolves (b.quarantineExpiry x h) := by
  unfold Bay.quarantineExpiry
  split
  · exact (Bay.Evolves.releaseLot x hs).trans (.owe ..)
  · exact (Bay.Evolves.modLot ⟨rfl, rfl, rfl, rfl, rfl, rfl, rfl⟩).trans (.owe ..)

/-- A deadline that is taken is one of those held. -/
theorem mem_of_foldl_earlier {ι : Type} : ∀ (ds : List (ι × Nat)) (best : Option (ι × Nat)) {e : ι × Nat},
    ds.foldl earlier best = some e → e ∈ ds ∨ best = some e
  | [], _, _, h => .inr h
  | d :: ds, best, e, h => by
    rcases mem_of_foldl_earlier ds (earlier best d) h with hm | hb
    · exact .inl (List.mem_cons_of_mem _ hm)
    · unfold earlier at hb
      split at hb
      · exact .inl (Option.some.inj hb ▸ List.mem_cons_self)
      · split at hb
        · exact .inl (Option.some.inj hb ▸ List.mem_cons_self)
        · exact .inr hb

theorem mem_of_firstDue {ι : Type} {clock : Nat} {ds : List (ι × Nat)} {i : ι} (h : firstDue clock ds = some i) :
    ∃ d, (i, d) ∈ ds ∧ d ≤ clock := by
  obtain ⟨⟨j, d⟩, he, hi⟩ := Option.map_eq_some_iff.1 h
  cases hi
  rcases mem_of_foldl_earlier _ _ he with hm | hn
  · rw [List.mem_filter] at hm
    exact ⟨d, hm.1, by simpa using hm.2⟩
  · cases hn

theorem Bay.state_of_quarantineDue {b : Bay} {clock : Nat} {h : LotNo} (hd : firstDue clock b.quarantineDeadlines = some h) :
    (b.lot h).state = .complete := by
  obtain ⟨d, hm, _⟩ := mem_of_firstDue hd
  unfold Bay.quarantineDeadlines at hm
  obtain ⟨h', _, he⟩ := List.mem_filterMap.1 hm
  split at he
  · next hc =>
    obtain ⟨_, _, heq⟩ := Option.map_eq_some_iff.1 he
    cases heq
    exact hc.1
  · cases he

/-! ### Resets -/

theorem commandLaw_restart : CommandLaw [.restart] := by
  refine ⟨by decide, by decide, by decide, by decide, by decide, by decide, fun ids hm => ?_⟩
  cases List.mem_singleton.1 hm

/-- A bay whose lots are all FREE and whose queue is empty. -/
theorem Bay.lotLaw_of_free {b : Bay} (hf : ∀ h, ∃ stamp, b.lot h = { stamp := stamp }) (hq : b.queue = []) : b.LotLaw := by
  refine ⟨fun h => ?_, fun h => ?_, by rw [hq]; exact .nil⟩
  · obtain ⟨stamp, hl⟩ := hf h
    rw [hl]
    exact ⟨LotRec.holdLaw_of_clear nofun rfl rfl, LotRec.quantityLaw_of_idle nofun nofun rfl (Nat.zero_le _)⟩
  · obtain ⟨stamp, hl⟩ := hf h
    rw [hl, hq]
    exact iff_of_false (List.not_mem_nil) nofun

theorem Bay.Evolves.restarted (t : Tables) (b : Bay) : b.Evolves (b.restarted t) := by
  refine ⟨⟨fun _ => .refl _, fun _ => .nil, fun c => ?_, fun k => ?_⟩, fun _ => Bay.lotLaw_of_free (fun h => ?_) rfl⟩
  · have hcell : (b.restarted t).cell c = (b.cell c).restarted := by simp [Bay.cell, Bay.restarted]
    rw [hcell]
    exact ⟨fun _ => commandLaw_restart, fun _ h => by simp [CellRec.restarted] at h⟩
  · have hchan : (b.restarted t).chan k = Channel.restarted t.channels[k] (b.chan k) := by simp [Bay.chan, Bay.restarted]
    rw [hchan]
    exact .of_none rfl (Nat.zero_le _)
  · exact ⟨(b.lot h).stamp, by simp [Bay.lot, Bay.restarted, LotRec.restarted]⟩

end Sys2Proof.Machine

/-!
SUPPORT. What every update of the state keeps (`State.Keeps`), and what it does to the pool: the buffers that it takes besides
those that were taken (`State.Leads`), so that a claim that is granted keeps the pool's sum (R161, R163).
-/

namespace Sys2Proof.Machine

/-! ### The buffers that are not free (R161) -/

/-- A sum over a vector, as a sum over its places. -/
theorem sum_map_toList {α : Type} {n : Nat} (v : Vector α n) (f : α → Nat) :
    (v.toList.map f).sum = ∑ i : Fin n, f v[i] := by
  rw [← List.sum_ofFn]
  congr 1
  apply List.ext_getElem <;> simp

theorem sum_map_le {α : Type} {n : Nat} {v w : Vector α n} {f : α → Nat} (h : ∀ i : Fin n, f v[i] ≤ f w[i]) :
    (v.toList.map f).sum ≤ (w.toList.map f).sum := by
  rw [sum_map_toList, sum_map_toList]
  exact Finset.sum_le_sum fun i _ => h i

/-- A sum over a vector less one place. -/
theorem sum_map_set {α : Type} {n : Nat} (v : Vector α n) (j : Fin n) (a : α) (f : α → Nat) :
    ((v.set j a).toList.map f).sum + f v[j] = (v.toList.map f).sum + f a := by
  rw [sum_map_toList, sum_map_toList, ← Finset.add_sum_erase _ _ (Finset.mem_univ j),
    ← Finset.add_sum_erase _ (fun i : Fin n => f v[i]) (Finset.mem_univ j)]
  have hrest : ∑ i ∈ Finset.univ.erase j, f (v.set j a)[i] = ∑ i ∈ Finset.univ.erase j, f v[i] := by
    refine Finset.sum_congr rfl fun i hi => ?_
    have hne : j.val ≠ i.val := fun he => Finset.ne_of_mem_erase hi (Fin.ext he.symm)
    simp [hne]
  have hself : f (v.set j a)[j] = f a := by simp
  omega

/-- R161: the buffers that are not free. -/
def State.used (s : State) : Nat :=
  s.link.uplink.length + (s.link.ports.toList.map fun p => p.downlink.length).sum + (s.bay.channels.toList.map Channel.taken).sum

theorem State.used_eq (s : State) : s.used = s.occupied + s.reserved := by
  have hsum : (s.bay.channels.toList.map Channel.taken).sum
      = (s.bay.channels.toList.map fun ch => ch.segs.length).sum + (s.bay.channels.toList.map Channel.reserved).sum := by
    rw [sum_map_toList, sum_map_toList, sum_map_toList, ← Finset.sum_add_distrib]
    rfl
  unfold State.used State.occupied State.reserved
  omega

theorem State.free_eq (s : State) : s.free = 2048 - s.used := by
  rw [State.used_eq]
  rfl

theorem State.poolLaw_iff (s : State) :
    s.PoolLaw ↔ s.used ≤ 2048 ∧ s.bay.PullsOpen ∧ 128 ≤ s.tables.settings.loadWatermark := by
  have hsum : s.free + s.occupied + s.reserved = Config.poolSize ↔ s.used ≤ 2048 := by
    rw [State.free_eq, State.used_eq]
    show _ = 2048 ↔ _
    omega
  rw [State.PoolLaw, hsum]

/-! ### What an update keeps -/

/-- What an update of the state keeps, the pool apart. -/
structure State.Minds (s t : State) : Prop where
  pending : t.pending = s.pending
  lots : s.LotLaw → t.LotLaw
  rotation : s.RotationLaw → t.RotationLaw
  notices : s.NoticeLaw → t.NoticeLaw
  commands : s.CommandLaw → t.CommandLaw
  slots : s.SlotLaw → t.SlotLaw
  clock : s.ClockLaw → t.ClockLaw
  tables : s.tables.InRange → t.tables.InRange

/-- What every update of the state keeps. -/
structure State.Keeps (s t : State) : Prop where
  minds : s.Minds t
  pool : s.PoolLaw → t.PoolLaw

/-- What an update keeps that takes at most `n` further buffers. -/
structure State.Leads (s t : State) (n : Nat) : Prop where
  minds : s.Minds t
  watermark : 128 ≤ s.tables.settings.loadWatermark → 128 ≤ t.tables.settings.loadWatermark
  pulls : s.bay.PullsOpen → t.bay.PullsOpen
  used : s.bay.PullsOpen → t.used ≤ s.used + n

theorem State.Minds.refl (s : State) : s.Minds s := ⟨rfl, id, id, id, id, id, id, id⟩

theorem State.Minds.trans {s t u : State} (h : s.Minds t) (h' : t.Minds u) : s.Minds u :=
  ⟨h'.pending.trans h.pending, h'.lots ∘ h.lots, h'.rotation ∘ h.rotation, h'.notices ∘ h.notices, h'.commands ∘ h.commands,
    h'.slots ∘ h.slots, h'.clock ∘ h.clock, h'.tables ∘ h.tables⟩

theorem State.Keeps.refl (s : State) : s.Keeps s := ⟨.refl s, id⟩

theorem State.Keeps.trans {s t u : State} (h : s.Keeps t) (h' : t.Keeps u) : s.Keeps u :=
  ⟨h.minds.trans h'.minds, h'.pool ∘ h.pool⟩

theorem State.Leads.refl (s : State) : s.Leads s 0 := ⟨.refl s, id, id, fun _ => le_rfl⟩

theorem State.Leads.trans {s t u : State} {m n : Nat} (h : s.Leads t m) (h' : t.Leads u n) : s.Leads u (m + n) :=
  ⟨h.minds.trans h'.minds, h'.watermark ∘ h.watermark, h'.pulls ∘ h.pulls, fun ho => by
    have h1 := h.used ho
    have h2 := h'.used (h.pulls ho)
    omega⟩

theorem State.Leads.mono {s t : State} {m n : Nat} (h : s.Leads t m) (hmn : m ≤ n) : s.Leads t n :=
  ⟨h.minds, h.watermark, h.pulls, fun ho => (h.used ho).trans (by omega)⟩

/-- An update that takes no more buffers than are free keeps the pool's sum. -/
theorem State.Leads.keeps {s t : State} {n : Nat} (h : s.Leads t n) (hn : n ≤ s.free) : s.Keeps t := by
  refine ⟨h.minds, fun hp => ?_⟩
  rw [State.poolLaw_iff] at hp ⊢
  obtain ⟨hused, hpulls, hmark⟩ := hp
  rw [State.free_eq] at hn
  have := h.used hpulls
  exact ⟨by omega, h.pulls hpulls, h.watermark hmark⟩

theorem State.Leads.keeps_zero {s t : State} (h : s.Leads t 0) : s.Keeps t := h.keeps (Nat.zero_le _)

/-! ### Updates of one part of the state -/

theorem Bay.Drifts.pullsOpen {b b' : Bay} (h : b.Drifts b') (ho : b.PullsOpen) : b'.PullsOpen := fun k => (h.chans k).pull (ho k)

theorem Bay.Drifts.taken_le {b b' : Bay} (h : b.Drifts b') (ho : b.PullsOpen) :
    (b'.channels.toList.map Channel.taken).sum ≤ (b.channels.toList.map Channel.taken).sum :=
  sum_map_le fun k => (h.chans k).taken (ho k)

theorem State.Minds.bay {s : State} {b : Bay} (h : s.bay.Evolves b) : s.Minds { s with bay := b } :=
  ⟨rfl, h.lots, h.drifts.rotation, h.drifts.notices, fun hc c => (h.drifts.cells c).commands (hc c),
    fun hc c => (h.drifts.cells c).slot (hc c), id, id⟩

theorem State.Leads.bay {s : State} {b : Bay} (h : s.bay.Evolves b) : s.Leads { s with bay := b } 0 :=
  ⟨.bay h, id, h.drifts.pullsOpen, fun ho => by
    have := h.drifts.taken_le ho
    simp only [State.used]
    omega⟩

theorem State.Leads.onBay {s : State} {f : Ctx → Bay → Bay} (h : s.bay.Evolves (f s.ctx s.bay)) : s.Leads (s.onBay f) 0 := .bay h

/-- An update of the link that queues at most `n` more frames. -/
theorem State.Leads.link {s : State} {l : Link} {n : Nat}
    (h : l.uplink.length + (l.ports.toList.map fun p => p.downlink.length).sum
      ≤ s.link.uplink.length + (s.link.ports.toList.map fun p => p.downlink.length).sum + n) : s.Leads { s with link := l } n :=
  ⟨⟨rfl, id, id, id, id, id, id, id⟩, id, id, fun _ => by
    simp only [State.used]
    omega⟩

theorem State.Leads.modPort {s : State} {c : CellNo} {f : CellPort → CellPort} {n : Nat}
    (h : (f s.link.ports[c]).downlink.length ≤ s.link.ports[c].downlink.length + n) : s.Leads (s.modPort c f) n := by
  refine .link ?_
  have hset := sum_map_set s.link.ports c (f s.link.ports[c]) fun p => p.downlink.length
  dsimp only at hset ⊢
  omega

theorem State.Leads.pushUplink (s : State) (e : UpEntry) : s.Leads (s.pushUplink e) 1 :=
  .link (by simp only [List.length_append, List.length_singleton]; omega)

theorem State.Leads.pushExpress (s : State) (h : LotNo) (e : UpEntry) : s.Leads (s.pushExpress h e) 1 := by
  refine .link ?_
  have hlen := congrArg List.length (List.take_append_drop (s.link.expressPlace h) s.link.uplink)
  simp only [List.length_append, List.length_cons] at hlen ⊢
  omega

theorem State.Leads.respond (s : State) (lot : Option LotNo) (code : Byte) (tag : Half) (p : Reply) :
    s.Leads (s.respond lot code tag p) 1 := .pushUplink ..

theorem State.Leads.newEvent (s : State) : s.Leads s.newEvent 0 := .bay (.of_eq rfl rfl rfl rfl rfl rfl)

theorem State.Leads.eventEnd (s : State) : s.Leads s.eventEnd 0 := by
  have hlink : s.Leads { s with link := { s.link with ports := s.portsAfter } } 0 := by
    refine .link ?_
    have hsum : (s.portsAfter.toList.map fun p => p.downlink.length).sum
        ≤ (s.link.ports.toList.map fun p => p.downlink.length).sum := sum_map_le fun c => by simp [State.portsAfter]
    exact Nat.add_le_add_left hsum _
  exact hlink.trans (.newEvent _)

theorem free_eventEnd (s : State) : s.eventEnd.free = s.free := by
  have hports : (s.portsAfter.toList.map fun p => p.downlink.length) = s.link.ports.toList.map fun p => p.downlink.length := by
    apply List.ext_getElem <;> simp [State.portsAfter]
  have hused : s.eventEnd.used = s.used := by
    simp only [State.used, State.eventEnd, State.newEvent, hports]
  rw [State.free_eq, hused, State.free_eq]

/-- A count of the link. -/
theorem State.Leads.stray (s : State) : s.Leads s.stray 0 := .link le_rfl

theorem State.Leads.uplinkCheckFailure (s : State) : s.Leads s.uplinkCheckFailure 0 := .link le_rfl

end Sys2Proof.Machine

/-!
SUPPORT. Every frame and every request, each with the buffer that it claims, keeps what `State.Keeps` says.
-/

namespace Sys2Proof.Machine

/-! ### Tables (R27, R75, R101, R192) -/

theorem State.Leads.tables {s : State} {t : Tables} (hr : s.tables.InRange → t.InRange)
    (hw : t.settings = s.tables.settings ∨ 128 ≤ t.settings.loadWatermark) : s.Leads { s with tables := t } 0 := by
  refine ⟨⟨rfl, id, id, id, id, id, id, hr⟩, fun h => ?_, id, fun _ => le_rfl⟩
  rcases hw with hw | hw
  · rw [← hw] at h
    exact h
  · exact hw

theorem State.Leads.tablesBay {s : State} {t : Tables} {b : Bay} (hb : s.bay.Evolves b) (hr : s.tables.InRange → t.InRange)
    (hw : t.settings = s.tables.settings ∨ 128 ≤ t.settings.loadWatermark) : s.Leads { s with tables := t, bay := b } 0 :=
  (State.Leads.tables hr hw).trans (.bay (s := { s with tables := t }) hb)

theorem State.Leads.part {s : State} {p : Part} (hc : p.clock ≤ Config.clockMax ∨ p.clock = s.part.clock) :
    s.Leads { s with part := p } 0 := by
  refine ⟨⟨rfl, id, id, id, id, id, fun h => ?_, id⟩, id, id, fun _ => le_rfl⟩
  rcases hc with hc | hc
  · exact hc
  · show p.clock ≤ _
    rw [hc]
    exact h

/-- A property of every place of a vector, after a write of one. -/
theorem forall_set {α : Type} {n : Nat} {v : Vector α n} {p : α → Prop} (h : ∀ i : Fin n, p v[i]) (j : Fin n) {a : α} (ha : p a) :
    ∀ i : Fin n, p (v.set j a)[i] := by
  intro i
  by_cases he : j = i
  · subst he
    simpa using ha
  · simpa [Fin.val_ne_of_ne he] using h i

theorem profileOf_inRange (e : ProfileImage) : (profileOf e).InRange := by
  have hceil (b : BinNo) : (profileOf e).ceilings[b] ≤ 10000 := by simp [profileOf]
  refine ⟨?_, ⟨?_, ?_⟩, hceil, ?_, ⟨?_, ?_⟩, ?_, ?_, ?_, ⟨?_, ?_⟩, ⟨?_, ?_⟩⟩ <;> simp only [profileOf, clampTo] <;> omega

theorem cellConfigOf_inRange (cap : Half) (stall : Byte) (soak : Half) : (cellConfigOf cap stall soak).InRange := by
  refine ⟨?_, ?_, ?_⟩ <;> simp only [cellConfigOf] <;> omega

theorem Tables.InRange.profile {t : Tables} (h : t.InRange) (i : Fin 64) (e : ProfileImage) :
    (t.setProfile i (profileOf e)).InRange :=
  ⟨h.1, forall_set (p := GateProfile.InRange) h.2.1 i (profileOf_inRange e), h.2.2.1, h.2.2.2⟩

theorem Tables.heldElsewhere_iff {t : Tables} {i : Fin 128} {program : Half} :
    t.heldElsewhere i program = true ↔ ∃ (j : Fin 128) (o : CatalogueEntry), j ≠ i ∧ t.catalogue[j] = some o ∧ o.program = program := by
  simp only [Tables.heldElsewhere, List.any_eq_true, List.mem_finRange, true_and, Bool.and_eq_true, decide_eq_true_eq,
    Option.any_eq_true]
  refine exists_congr fun j => ?_
  constructor
  · rintro ⟨hne, o, ho, hp⟩
    exact ⟨o, hne, ho, hp⟩
  · rintro ⟨o, hne, ho, hp⟩
    exact ⟨hne, o, ho, hp⟩

/-- R75: a catalogue write that no other entry's id refuses keeps the law of the catalogue. -/
theorem Tables.CatalogueLaw.write {t : Tables} (h : t.CatalogueLaw) {i : Fin 128} {program : Half} (revision : Byte)
    (segsLessOne : Half) (noRetain : Byte) (hn : ¬(program ≠ 0#16 ∧ t.heldElsewhere i program = true)) :
    Tables.CatalogueLaw { t with catalogue := t.catalogue.set i (catalogueOf program revision segsLessOne noRetain) } := by
  have hat (j : Fin 128) (o : CatalogueEntry)
      (ho : (t.catalogue.set i (catalogueOf program revision segsLessOne noRetain))[j] = some o) :
      (j = i ∧ program ≠ 0#16 ∧ o.program = program ∧ o.segs = segsLessOne.toNat + 1) ∨ (j ≠ i ∧ t.catalogue[j] = some o) := by
    by_cases hj : i = j
    · subst hj
      refine .inl ⟨rfl, ?_⟩
      simp only [Fin.getElem_fin, Vector.getElem_set_self, catalogueOf] at ho
      split at ho
      · cases ho
      · next hp =>
        cases ho
        exact ⟨hp, rfl, rfl⟩
    · refine .inr ⟨fun he => hj he.symm, ?_⟩
      simpa [Fin.val_ne_of_ne hj] using ho
  intro j e he
  rcases hat j e he with ⟨rfl, hp, hep, hes⟩ | ⟨hj, hold⟩
  · refine ⟨by rw [hep]; exact hp, by have := segsLessOne.isLt; omega, fun k o ho hop => ?_⟩
    rcases hat k o ho with ⟨hk, _⟩ | ⟨hk, ho⟩
    · exact hk
    · exact absurd ⟨hp, Tables.heldElsewhere_iff.2 ⟨k, o, hk, ho, hop.trans hep⟩⟩ hn
  · obtain ⟨hz, hsegs, huniq⟩ := h j e hold
    refine ⟨hz, hsegs, fun k o ho hop => ?_⟩
    rcases hat k o ho with ⟨rfl, hp, hkp, _⟩ | ⟨_, ho⟩
    · exact absurd ⟨hp, Tables.heldElsewhere_iff.2 ⟨j, e, hj, hold, by rw [← hkp, ← hop]⟩⟩ hn
    · exact huniq k o ho hop

/-! ### Requests on tables -/

theorem State.Leads.written (s : State) (tag : Half) (table index : Byte) : s.Leads (s.written tag table index) 1 := .respond ..

theorem State.Leads.writeRefused (s : State) (tag : Half) (status : Status) : s.Leads (s.writeRefused tag status) 1 := .respond ..

/-- An update without a buffer, and its answer. -/
theorem State.Leads.answered {s t u : State} (h : s.Leads t 0) (h' : t.Leads u 1) : s.Leads u 1 := h.trans h'

theorem State.Leads.tablesWritten {s : State} {t : Tables} (hr : s.tables.InRange → t.InRange)
    (hw : t.settings = s.tables.settings ∨ 128 ≤ t.settings.loadWatermark) (tag : Half) (table index : Byte) :
    s.Leads ({ s with tables := t }.written tag table index) 1 := .answered (.tables hr hw) (.written ..)

theorem leads_profileWrite (tag : Half) (index : Byte) (e : ProfileImage) (s : State) :
    s.Leads (serveProfileWrite tag index e s) 1 := by
  unfold serveProfileWrite
  split
  · exact .writeRefused ..
  · exact .answered (.tables (fun h => h.profile _ e) (.inl rfl)) (.written ..)

theorem leads_catalogueWrite (tag : Half) (index : Byte) (program : Half) (revision : Byte) (segsLessOne : Half) (noRetain : Byte)
    (s : State) : s.Leads (serveCatalogueWrite tag index program revision segsLessOne noRetain s) 1 := by
  unfold serveCatalogueWrite
  split
  · exact .writeRefused ..
  · split
    · exact .writeRefused ..
    · next hn =>
      dsimp only
      refine .answered ?_ (.written ..)
      exact .tablesBay (.staleSlots ..) (fun ⟨h1, h2, h3, h4⟩ => ⟨h1, h2, h3, h4.write _ _ _ hn⟩) (.inl rfl)

theorem leads_cellConfigWrite (tag : Half) (index : Byte) (cap : Half) (stall : Byte) (soak : Half) (s : State) :
    s.Leads (serveCellConfigWrite tag index cap stall soak s) 1 := by
  unfold serveCellConfigWrite
  split
  · exact .writeRefused ..
  · dsimp only
    refine .answered ?_ (.written ..)
    exact .tablesBay (.stallWritten ..)
      (fun ⟨h1, h2, h3, h4⟩ => ⟨h1, h2, forall_set (p := CellConfig.InRange) h3 _ (cellConfigOf_inRange ..), h4⟩) (.inl rfl)

theorem leads_groupWrite (tag : Half) (index inUse value mask : Byte) (s : State) :
    s.Leads (serveGroupWrite tag index inUse value mask s) 1 := by
  unfold serveGroupWrite
  split
  · exact .writeRefused ..
  · refine .tablesWritten ?_ ?_ ..
    exacts [fun h => h, .inl rfl]

theorem leads_forwardingWrite (tag : Half) (e : ForwardImage) (s : State) : s.Leads (serveForwardingWrite tag e s) 1 := by
  unfold serveForwardingWrite
  split
  · refine .tablesWritten ?_ ?_ ..
    exacts [fun h => h, .inl rfl]
  · split
    · exact .writeRefused ..
    · refine .tablesWritten ?_ ?_ ..
      exacts [fun h => h, .inl rfl]

theorem leads_channelWrite (tag : Half) (index mode round enable : Byte) (s : State) :
    s.Leads (serveChannelWrite tag index mode round enable s) 1 := by
  unfold serveChannelWrite
  split
  · exact .writeRefused ..
  · dsimp only
    refine .answered ?_ (.written ..)
    exact .tablesBay ((Bay.Reloads.modeWritten ..).trans (.takeWaiting ..)).evolves (fun h => h) (.inl rfl)

/-! ### Requests on the settings (R192) -/

theorem State.Leads.setSettings {s : State} {k : Settings} (hr : s.tables.settings.InRange → k.InRange)
    (hw : k.loadWatermark = s.tables.settings.loadWatermark ∨ 128 ≤ k.loadWatermark) : s.Leads (s.setSettings k) 0 := by
  refine ⟨⟨rfl, id, id, id, id, id, id, fun ⟨h1, h2⟩ => ⟨hr h1, h2⟩⟩, fun h => ?_, id, fun _ => le_rfl⟩
  show 128 ≤ k.loadWatermark
  omega

/-- A write of a setting and its answer. -/
theorem State.Leads.settingWritten {s t : State} (h : s.Leads t 0) (tag : Half) (number : Byte) :
    s.Leads (t.settingWritten tag number) 1 := .answered h (.written ..)

theorem State.Leads.setting {s : State} {k : Settings} {tag : Half} {number : Byte}
    (hr : s.tables.settings.InRange → k.InRange)
    (hw : k.loadWatermark = s.tables.settings.loadWatermark ∨ 128 ≤ k.loadWatermark) :
    s.Leads ((s.setSettings k).settingWritten tag number) 1 := .settingWritten (.setSettings hr hw) ..

theorem leads_ageLimit (tag value : Half) (s : State) : s.Leads (serveAgeLimit tag value s) 1 := by
  unfold serveAgeLimit
  dsimp only
  refine .settingWritten ?_ ..
  split
  · exact .refl s
  · exact (State.Leads.setSettings (s := s) (k := { s.tables.settings with ageLimit := min value.toNat 1440 })
      (fun ⟨_, h⟩ => ⟨min_le_right _ _, h⟩) (.inl rfl)).trans (.onBay (.reformAges ..))

theorem leads_rotationMode (tag value : Half) (s : State) : s.Leads (serveRotationMode tag value s) 1 := by
  unfold serveRotationMode
  dsimp only
  exact .settingWritten ((State.Leads.setSettings (k := { s.tables.settings with rotationMode := turningOf value })
    (fun h => h) (.inl rfl)).trans (.bay (.rotationWritten ..))) ..

theorem clampTo_mem {lo hi : Nat} (h : lo ≤ hi) (n : Nat) : lo ≤ clampTo lo hi n ∧ clampTo lo hi n ≤ hi := by
  simp only [clampTo]
  omega

theorem leads_offerTimeout (tag value : Half) (s : State) : s.Leads (serveOfferTimeout tag value s) 1 := by
  unfold serveOfferTimeout
  exact .setting (fun ⟨h1, _, h⟩ => ⟨h1, clampTo_mem (by omega) _, h⟩) (.inl rfl)

theorem leads_pullLimit (tag value : Half) (s : State) : s.Leads (servePullLimit tag value s) 1 := by
  unfold servePullLimit
  exact .setting (fun ⟨h1, h2, _, h⟩ => ⟨h1, h2, clampTo_mem (by omega) _, h⟩) (.inl rfl)

theorem leads_grantOrder (tag value : Half) (s : State) : s.Leads (serveGrantOrder tag value s) 1 := by
  unfold serveGrantOrder
  exact .setting (fun h => h) (.inl rfl)

theorem leads_creditWindow (tag value : Half) (s : State) : s.Leads (serveCreditWindow tag value s) 1 := by
  unfold serveCreditWindow
  exact .setting (fun ⟨h1, h2, h3, _, h⟩ => ⟨h1, h2, h3, clampTo_mem (by omega) _, h⟩) (.inl rfl)

theorem leads_loadTimeout (tag value : Half) (s : State) : s.Leads (serveLoadTimeout tag value s) 1 := by
  unfold serveLoadTimeout
  exact .setting (fun ⟨h1, h2, h3, h4, _, h⟩ => ⟨h1, h2, h3, h4, clampTo_mem (by omega) _, h⟩) (.inl rfl)

theorem leads_loadWatermark (tag value : Half) (s : State) : s.Leads (serveLoadWatermark tag value s) 1 := by
  unfold serveLoadWatermark
  exact .setting (fun ⟨h1, h2, h3, h4, h5, _, h⟩ => ⟨h1, h2, h3, h4, h5, clampTo_mem (by omega) _, h⟩)
    (.inr (clampTo_mem (by omega) _).1)

theorem leads_cellShareLimit (tag value : Half) (s : State) : s.Leads (serveCellShareLimit tag value s) 1 := by
  unfold serveCellShareLimit
  exact .setting (fun ⟨h1, h2, h3, h4, h5, h6, _, h⟩ => ⟨h1, h2, h3, h4, h5, h6, clampTo_mem (by omega) _, h⟩)
    (.inl rfl)

theorem leads_quarantineDelay (tag value : Half) (s : State) : s.Leads (serveQuarantineDelay tag value s) 1 := by
  unfold serveQuarantineDelay
  exact .setting (fun ⟨h1, h2, h3, h4, h5, h6, h7, _⟩ => ⟨h1, h2, h3, h4, h5, h6, h7, min_le_right _ _⟩) (.inl rfl)

/-! ### Requests on lots, cells and the part -/

theorem leads_lotRequest {s : State} {code : Byte} {tag handle : Half} {f : Ctx → Bay → LotNo → Bay × Reply}
    (hf : ∀ (x : Ctx) (b : Bay) (h : LotNo), b.Evolves (f x b h).1) : s.Leads (s.lotRequest code tag handle f) 1 := by
  unfold State.lotRequest
  split
  · exact .respond ..
  · exact .answered (.bay (hf ..)) (.respond ..)

theorem leads_cellRequest {s : State} {code : Byte} {tag : Half} {cell : Byte} {f : Ctx → Bay → CellNo → Bay × Reply}
    (hf : ∀ (x : Ctx) (b : Bay) (c : CellNo), b.Evolves (f x b c).1) : s.Leads (s.cellRequest code tag cell f) 1 := by
  unfold State.cellRequest
  split
  · exact .respond ..
  · exact .answered (.bay (hf ..)) (.respond ..)

theorem leads_holdRelease (tag handle : Half) (kind mode : Byte) (stamp : Stamp) (s : State) :
    s.Leads (serveHoldRelease tag handle kind mode stamp s) 1 := by
  refine leads_lotRequest fun x b h => ?_
  split
  · exact .holdRelease ..
  · exact .refl b

theorem leads_lotRead (tag handle : Half) (s : State) : s.Leads (serveLotRead tag handle s) 1 := by
  unfold serveLotRead
  exact leads_lotRequest fun _ b _ => .refl b

theorem leads_cellRead (tag : Half) (cell : Byte) (s : State) : s.Leads (serveCellRead tag cell s) 1 := by
  unfold serveCellRead
  exact leads_cellRequest fun _ b _ => .refl b

theorem leads_cellClaim (tag : Half) (cell : Byte) (s : State) : s.Leads (serveCellClaim tag cell s) 1 := by
  unfold serveCellClaim
  exact leads_cellRequest fun x b c => .claim x b c

theorem leads_lotDefine (tag : Half) (nameLength : Byte) (name : Vector Byte 16) (start : BitVec 24) (policy stepCount : Byte)
    (steps : Vector StepImage 6) (s : State) : s.Leads (serveLotDefine tag nameLength name start policy stepCount steps s) 1 :=
  .answered (.bay (.define ..)) (.respond ..)

theorem leads_timeSet (tag : Half) (clock : BitVec 48) (s : State) : s.Leads (serveTimeSet tag clock s) 1 := by
  refine .answered (.part (.inl ?_)) (.respond ..)
  have := clock.isLt
  show clock.toNat ≤ 281474976710655
  omega

theorem State.Leads.restarted (s : State) : s.Leads s.restarted 0 := by
  have hlink : s.Leads { s with link := s.link.restarted } 0 := by
    refine .link ?_
    have hports : (s.link.restarted.ports.toList.map fun p => p.downlink.length).sum = 0 := by
      rw [sum_map_toList]
      exact Finset.sum_eq_zero fun c _ => by simp [Link.restarted, CellPort.restarted]
    rw [hports]
    exact Nat.zero_le _
  have hbay : State.Leads { s with link := s.link.restarted }
      { s with bay := s.bay.restarted s.tables, link := s.link.restarted } 0 := .bay (.restarted ..)
  exact (hlink.trans hbay).trans (.part (p := { s.part with resetCause := .restart }) (.inr rfl))

theorem leads_partRestart (tag : Half) (s : State) : s.Leads (servePartRestart tag s) 1 :=
  .answered (.restarted s) (.respond ..)

/-! ### Other frames of the uplink port -/

theorem keeps_makeCopy (kind : Byte) (lot : Half) (payload : List Byte) (s : State) (i : Fin 64) :
    s.Keeps (State.makeCopy kind lot payload s i) := by
  unfold State.makeCopy
  dsimp only
  split
  · next hc =>
    have hfree : 64 < s.free := by
      simp only [State.copyGranted, Bool.and_eq_true, decide_eq_true_eq] at hc
      exact hc.2.1
    exact (State.Leads.modPort (n := 1) (by simp)).keeps (by omega)
  · exact (State.Leads.onBay (.countCell ..)).keeps_zero

/-- A chain of updates of the state, one for each member of a list. -/
theorem State.Keeps.foldl {α : Type} {f : State → α → State} (hf : ∀ (s : State) (a : α), s.Keeps (f s a)) :
    ∀ (l : List α) (s : State), s.Keeps (l.foldl f s)
  | [], s => .refl s
  | a :: l, s => (hf s a).trans (State.Keeps.foldl hf l (f s a))

theorem keeps_through (dst : Half) (kind : Byte) (lot : Half) (payload : List Byte) (s : State) :
    s.Keeps (serveThrough dst kind lot payload s) := by
  unfold serveThrough
  split
  · exact (State.Leads.uplinkCheckFailure s).keeps_zero
  · split
    · exact (State.Leads.stray s).keeps_zero
    · split
      · exact (State.Leads.stray s).keeps_zero
      · exact .foldl (keeps_makeCopy kind lot payload) _ s

theorem leads_segmentFor (s : State) (k : ChanNo) (lot program : Half) (revision : Byte) (number : Half) (image : List Byte) :
    s.Leads (s.segmentFor k lot program revision number image) 0 := by
  unfold State.segmentFor
  dsimp only
  split
  · next p im hp him =>
    split
    · exact .stray s
    · split
      · exact .onBay (Bay.Reloads.takeSegment _ hp _).evolves
      · split
        · exact .stray s
        · exact .onBay (.channelFault ..)
  · exact .stray s

theorem leads_segment (lot : Half) (channel : Byte) (program : Half) (revision : Byte) (number : Half) (image : List Byte)
    (s : State) : s.Leads (serveSegment lot channel program revision number image s) 0 := by
  unfold serveSegment
  split
  · exact .uplinkCheckFailure s
  · split
    · exact .stray s
    · split
      · exact .stray s
      · exact leads_segmentFor ..

/-- R188: a request takes one buffer, that of its RESPONSE. -/
theorem leads_request {i : Instr} (hi : isRequest i = true) (s : State) : s.Leads (serveUplink i s) 1 := by
  cases i with
  | partRestart tag => exact leads_partRestart ..
  | tableWriteGateProfile tag index entry => exact leads_profileWrite ..
  | tableWriteCatalogue tag index program revision segsLessOne noRetain => exact leads_catalogueWrite ..
  | tableWriteCellConfiguration tag index cap stall soak => exact leads_cellConfigWrite ..
  | tableWriteGroupTable tag index inUse value mask => exact leads_groupWrite ..
  | tableWriteForwardingTable tag entry => exact leads_forwardingWrite ..
  | tableWriteLoadChannelSettings tag index mode round enable => exact leads_channelWrite ..
  | tableWriteAgeLimit tag value => exact leads_ageLimit ..
  | tableWriteRotationMode tag value => exact leads_rotationMode ..
  | tableWriteOfferTimeout tag value => exact leads_offerTimeout ..
  | tableWritePullLimit tag value => exact leads_pullLimit ..
  | tableWriteGrantOrder tag value => exact leads_grantOrder ..
  | tableWriteCreditWindow tag value => exact leads_creditWindow ..
  | tableWriteLoadTimeout tag value => exact leads_loadTimeout ..
  | tableWriteLoadWatermark tag value => exact leads_loadWatermark ..
  | tableWriteCellShareLimit tag value => exact leads_cellShareLimit ..
  | tableWriteQuarantineDelay tag value => exact leads_quarantineDelay ..
  | tableRead tag table index => exact .respond ..
  | lotDefine tag nameLength name start policy stepCount steps => exact leads_lotDefine ..
  | lotStart tag handle => exact leads_lotRequest .start
  | lotRead tag handle => exact leads_lotRead ..
  | lotAbort tag handle => exact leads_lotRequest .abort
  | lotRetire tag handle => exact leads_lotRequest .retire
  | holdSet tag handle detail => exact leads_lotRequest (.holdSet detail)
  | holdRelease tag handle kind mode stamp => exact leads_holdRelease ..
  | lotShip tag handle stamp => exact leads_lotRequest (.ship stamp)
  | cellClaim tag cell => exact leads_cellClaim ..
  | cellRestore tag cell => exact leads_cellRequest .restore
  | cellRead tag cell => exact leads_cellRead ..
  | timeSet tag clock => exact leads_timeSet ..
  | partRead tag => exact .respond ..
  | requestUnknownCode code tag => exact .respond ..
  | _ => cases hi

/-- What the uplink port takes keeps the laws, a request where a buffer is free for it. -/
theorem keeps_serveUplink {i : Instr} {s : State} (h : isRequest i = true → 1 ≤ s.free) : s.Keeps (serveUplink i s) := by
  by_cases hi : isRequest i = true
  · exact (leads_request hi s).keeps (h hi)
  · cases i with
    | segment lot channel slot program revision number image => exact (leads_segment ..).keeps_zero
    | throughFrame dst kind lot payload => exact keeps_through ..
    | uplinkStray => exact (State.Leads.stray s).keeps_zero
    | frameCheckFailure port =>
      cases port with
      | uplink => exact (State.Leads.uplinkCheckFailure s).keeps_zero
      | cell c => exact .refl s
    | _ => first | exact .refl s | exact absurd rfl hi

/-! ### Frames of a cell port -/

theorem keeps_takeArrival {c : CellNo} {a : Arrival} {s : State} (h : s.takenFreely a = true ∨ 1 ≤ s.free) :
    s.Keeps (takeArrival c a s) := by
  unfold takeArrival
  split
  · next src lot m =>
    have heffect : s.Leads (s.onBay fun x b => b.cellFrameEffect x c src m) 0 := .onBay (.cellFrameEffect ..)
    dsimp only
    split
    · next hf =>
      have hfree : 1 ≤ s.free := by
        rcases h with h | h
        · rw [State.takenFreely, hf] at h
          cases h
        · exact h
      exact (heffect.trans (.pushUplink ..)).keeps hfree
    · exact heffect.keeps_zero
  · exact (State.Leads.modPort (n := 0) (by exact le_rfl)).keeps_zero
  · exact (State.Leads.onBay (.protocolError ..)).keeps_zero
  · exact (State.Leads.modPort (n := 0) (by exact le_rfl)).keeps_zero
  · exact (State.Leads.onBay (.protocolError ..)).keeps_zero

theorem free_of_cellClaimGranted {s : State} {c : CellNo} (h : s.cellClaimGranted c = true) : 64 < s.free :=
  (of_decide_eq_true h).1

theorem keeps_arriveCell (c : CellNo) (a : Arrival) (s : State) : s.Keeps (arriveCell c a s) := by
  have hwait (w : List Arrival) : s.Keeps (s.modPort c fun p => { p with waiting := w }) :=
    (State.Leads.modPort (n := 0) (by exact le_rfl)).keeps_zero
  unfold arriveCell
  dsimp only
  split
  · exact .refl s
  · split
    · exact (State.Leads.modPort (n := 0) (by exact le_rfl)).keeps_zero
    · unfold presentArrival
      split
      · next hg =>
        rw [Bool.or_eq_true] at hg
        exact keeps_takeArrival (hg.imp_right fun h => by have := free_of_cellClaimGranted h; omega)
      · exact hwait [a]

theorem keeps_arriveUplink (i : Instr) (s : State) : s.Keeps (arriveUplink i s) := by
  unfold arriveUplink
  split
  · exact .refl s
  · split
    · exact (State.Leads.link (n := 0) (by exact le_rfl)).keeps_zero
    · next hn =>
      rw [not_or, not_and] at hn
      exact keeps_serveUplink fun hi => Nat.pos_of_ne_zero (hn.2 hi)

end Sys2Proof.Machine

/-!
SUPPORT. Claims, events and steps keep what `State.Keeps` says. With it the laws of the state are settled: each is kept by
every step (O56, O57, O58), every command answers and keeps the queue of commands (O3), and the reset state meets all (O59).
-/

namespace Sys2Proof.Machine

/-! ### Notices and pulls -/

theorem free_pos_of_nextNotice {s : State} {n : Notice} (h : s.nextNotice = some n) : 1 ≤ s.free := by
  unfold State.nextNotice at h
  split at h
  · next hf => exact hf
  · cases h

theorem leads_buildNotice (s : State) (n : Notice) : s.Leads (s.buildNotice n) 1 := by
  have hunowe : s.Leads { s with bay := s.bay.unowe n } 0 := .bay (.unowe ..)
  unfold State.buildNotice
  dsimp only
  split
  · exact hunowe.trans (.pushExpress ..)
  · exact hunowe.trans (.pushExpress ..)
  · exact hunowe.trans (.pushUplink ..)

theorem keeps_buildNotice {s : State} {n : Notice} (h : s.nextNotice = some n) : s.Keeps (s.buildNotice n) :=
  (leads_buildNotice s n).keeps (free_pos_of_nextNotice h)

/-- R89: the pull that a channel issues. -/
def State.pullOf (s : State) (k : ChanNo) : Pull :=
  { first := (s.bay.chan k).base - (s.bay.chan k).current, n := s.pullSize k, arrived := 0
    deadline := deadlineAfter s.part.clock (seconds s.tables.settings.loadTimeout) }

/-- R89: a channel that has issued a pull. -/
def State.pulledChan (s : State) (k : ChanNo) : Channel :=
  { s.bay.chan k with
    state := if (s.bay.chan k).state = .gathering then .pulling else (s.bay.chan k).state
    current := (s.bay.chan k).current - s.pullSize k, slotHeld := true, pull := some (s.pullOf k) }

/-- R89: the bay after a pull has been issued. -/
def State.pulledBay (s : State) (k : ChanNo) : Bay := s.bay.modChan k fun _ => s.pulledChan k

theorem State.issuePull_none {s : State} {k : ChanNo} (h : (s.bay.chan k).image = none) : s.issuePull k = s := by
  unfold State.issuePull
  dsimp only
  rw [h]

theorem State.issuePull_some {s : State} {k : ChanNo} {im : Image} (h : (s.bay.chan k).image = some im) :
    s.issuePull k =
      { s with bay := s.pulledBay k }.pushUplink
        (pullEntry s.part.station k im ((s.bay.chan k).base - (s.bay.chan k).current) (s.pullSize k)) := by
  unfold State.issuePull
  dsimp only
  split
  · next hn => cases hn.symm.trans h
  · next im' hs =>
    cases hs.symm.trans h
    rfl

theorem Bay.channels_modChan (b : Bay) (k : ChanNo) (f : Channel → Channel) :
    (b.modChan k f).channels = b.channels.set k (f (b.chan k)) := rfl

theorem Bay.lotLaw_of_eq {b b' : Bay} (hl : b'.lots = b.lots) (hq : b'.queue = b.queue) (h : b.LotLaw) : b'.LotLaw := by
  unfold Bay.LotLaw Bay.lot at h ⊢
  rwa [hl, hq]

/-- R163, R164: a pull, and its PULL, leave the notice reserve: the watermark is above it. -/
theorem keeps_issuePull {s : State} {k : ChanNo} (hp : (s.bay.chan k).pull = none) (hn : 1 ≤ s.pullSize k) :
    s.Keeps (s.issuePull k) := by
  cases him : (s.bay.chan k).image with
  | none =>
    rw [State.issuePull_none him]
    exact .refl s
  | some im =>
    rw [State.issuePull_some him]
    refine ⟨⟨rfl, Bay.lotLaw_of_eq rfl rfl, id, id, id, id, id, id⟩, fun hpool => ?_⟩
    rw [State.poolLaw_iff] at hpool ⊢
    obtain ⟨hused, hopen, hmark⟩ := hpool
    have hsize : s.pullSize k ≤ s.free - s.tables.settings.loadWatermark := by
      unfold State.pullSize
      omega
    rw [State.free_eq] at hsize
    have hsum := sum_map_set s.bay.channels k (s.pulledChan k) Channel.taken
    have hold : s.bay.channels[k].taken = (s.bay.chan k).segs.length := by
      show (s.bay.chan k).segs.length + (s.bay.chan k).reserved = _
      rw [Channel.reserved, hp]
      rfl
    have hnew : (s.pulledChan k).taken = (s.bay.chan k).segs.length + s.pullSize k := rfl
    refine ⟨?_, fun j p hj => ?_, hmark⟩
    · simp only [State.used, State.pushUplink, State.pulledBay, Bay.channels_modChan, List.length_append, List.length_singleton]
        at hused ⊢
      simp only [State.used] at hsize
      rw [hold, hnew] at hsum
      omega
    · replace hj : ((s.pulledBay k).chan j).pull = some p := hj
      by_cases he : k = j
      · subst he
        rw [State.pulledBay, Bay.chan_modChan_self] at hj
        cases Option.some.inj hj
        exact hn
      · rw [State.pulledBay, Bay.chan_modChan_ne _ _ he] at hj
        exact hopen j p hj

theorem keeps_grantPull {s : State} {k : ChanNo} (hp : (s.bay.chan k).pull = none) (hn : 1 ≤ s.pullSize k) :
    s.Keeps (s.grantPull k) := by
  have hgrant : (s.issuePull k).Leads (s.grantPull k) 0 :=
    .bay (b := { (s.issuePull k).bay with lastGranted := some k }) (.of_eq rfl rfl rfl rfl rfl rfl)
  exact (keeps_issuePull hp hn).trans hgrant.keeps_zero

theorem of_nextReissue {s : State} {k : ChanNo} (h : s.nextReissue = some k) : (s.bay.chan k).pull = none ∧ 1 ≤ s.pullSize k := by
  have hk := List.find?_some h
  simp only [Bool.and_eq_true, decide_eq_true_eq, Option.isNone_iff_eq_none] at hk
  obtain ⟨⟨⟨_, hp⟩, _⟩, hn⟩ := hk
  exact ⟨hp, hn⟩

theorem of_nextGrant {s : State} {k : ChanNo} (h : s.nextGrant = some k) : (s.bay.chan k).pull = none ∧ 1 ≤ s.pullSize k := by
  unfold State.nextGrant at h
  split at h
  · have hk := List.find?_some h
    simp only [Channel.waitingForGrant, Bool.and_eq_true, decide_eq_true_eq, Option.isNone_iff_eq_none] at hk
    obtain ⟨⟨⟨⟨_, hp⟩, _⟩, _⟩, hn⟩ := hk
    exact ⟨hp, hn⟩
  · cases h

/-! ### Frames that wait at ports (R168, R169) -/

theorem free_modPort {s : State} {c : CellNo} {f : CellPort → CellPort} (h : (f s.link.ports[c]).downlink = s.link.ports[c].downlink) :
    (s.modPort c f).free = s.free := by
  have hset := sum_map_set s.link.ports c (f s.link.ports[c]) fun p => p.downlink.length
  have hused : (s.modPort c f).used = s.used := by
    simp only [State.used, State.modPort]
    rw [h] at hset
    omega
  rw [State.free_eq, hused, State.free_eq]

theorem waiting_eventEnd (s : State) (c : CellNo) : s.eventEnd.link.ports[c].waiting = s.link.ports[c].waiting := by
  show s.portsAfter[c].waiting = _
  simp [State.portsAfter]

theorem portEligible_of_nextPort {s : State} {drain : Option CellNo} {c : CellNo} (h : s.nextPort drain = some c) :
    s.portEligible c = true := by
  unfold State.nextPort at h
  simp only [Option.orElse_eq_orElse, Option.orElse_eq_or, Option.or_eq_some_iff] at h
  rcases h with h | ⟨_, h⟩
  · have hd := (Option.filter_eq_some_iff.1 h).2
    unfold State.drainable at hd
    unfold State.portEligible
    split at hd
    · cases hd
    · rw [hd]
      rfl
  · simpa using List.find?_some h

theorem State.Leads.pointed (s : State) (c : CellNo) : s.Leads { s with link := { s.link with pointer := c } } 0 := .link le_rfl

theorem State.Leads.unheld (s : State) (q : List Instr) : s.Leads { s with link := { s.link with held := q } } 0 := .link le_rfl

/-- R168: the frame at the head of a port, taken from it. -/
def State.unwaited (s : State) (c : CellNo) (rest : List Arrival) : State :=
  s.modPort c fun p => { p with waiting := rest }

theorem State.Leads.unwaited (s : State) (c : CellNo) (rest : List Arrival) : s.Leads (s.unwaited c rest) 0 := .modPort le_rfl

theorem free_unwaited (s : State) (c : CellNo) (rest : List Arrival) : (s.unwaited c rest).free = s.free := free_modPort rfl

theorem State.takeWaiting_cons {s : State} {c : CellNo} {a : Arrival} {rest : List Arrival}
    (h : s.link.ports[c].waiting = a :: rest) :
    s.takeWaiting c = takeArrival c a { s.eventEnd.unwaited c rest with
      link := { (s.eventEnd.unwaited c rest).link with pointer := c } } := by
  unfold State.takeWaiting
  dsimp only
  split
  · next hn => cases (hn.symm.trans (waiting_eventEnd s c)).trans h
  · next a' rest' hw =>
    cases (hw.symm.trans (waiting_eventEnd s c)).trans h
    rfl

theorem keeps_takePointed {t : State} {c : CellNo} {a : Arrival} (h : t.takenFreely a = true ∨ 1 ≤ t.free) :
    t.Keeps (takeArrival c a { t with link := { t.link with pointer := c } }) :=
  (State.Leads.pointed t c).keeps_zero.trans (keeps_takeArrival h)

theorem takenFreely_eq {s t : State} (h : t.tables = s.tables) (a : Arrival) : t.takenFreely a = s.takenFreely a := by
  unfold State.takenFreely State.forwarding
  rw [h]

theorem tables_eventEnd (s : State) : s.eventEnd.tables = s.tables := rfl

theorem keeps_takeWaiting {s : State} {c : CellNo} (h : s.portEligible c = true) : s.Keeps (s.takeWaiting c) := by
  have hend := (State.Leads.eventEnd s).keeps_zero
  unfold State.portEligible at h
  split at h
  · cases h
  · next a rest hw =>
    rw [Bool.or_eq_true] at h
    have hfree := free_unwaited s.eventEnd c rest
    rw [free_eventEnd] at hfree
    have htables : (s.eventEnd.unwaited c rest).tables = s.tables := tables_eventEnd s
    rw [State.takeWaiting_cons hw]
    refine (hend.trans (State.Leads.unwaited _ c rest).keeps_zero).trans (keeps_takePointed ?_)
    rw [hfree, takenFreely_eq htables]
    exact h.imp id fun hg => by have := free_of_cellClaimGranted hg; omega

theorem keeps_serveUnheld {t : State} {i : Instr} (h : isRequest i = true → 1 ≤ t.free) :
    t.Keeps (serveUplink i { t with link := { t.link with held := t.link.held.tail } }) :=
  (State.Leads.unheld t t.link.held.tail).keeps_zero.trans (keeps_serveUplink h)

theorem keeps_takeHeld {s : State} {i : Instr} (h : isRequest i = true → 1 ≤ s.free) : s.Keeps (s.takeHeld i) := by
  refine (State.Leads.eventEnd s).keeps_zero.trans (keeps_serveUnheld fun hi => ?_)
  rw [free_eventEnd]
  exact h hi

theorem free_of_nextRequest {s : State} {i : Instr} (h : s.nextRequest = some i) : 1 ≤ s.free := by
  have hi := (Option.filter_eq_some_iff.1 h).2
  rw [Bool.and_eq_true] at hi
  exact of_decide_eq_true hi.2

theorem free_of_nextHeld {s : State} {i : Instr} (h : s.nextHeld = some i) (hi : isRequest i = true) : 1 ≤ s.free := by
  have hf := (Option.filter_eq_some_iff.1 h).2
  rw [hi] at hf
  exact of_decide_eq_true hf

/-! ### The claims of an event (R169) -/

theorem keeps_nextClaim {m m' : Claims} {s s' : State} (h : nextClaim m s = some (m', s')) : s.Keeps s' := by
  unfold nextClaim at h
  simp only [Option.orElse_eq_orElse, Option.orElse_eq_or, Option.or_eq_some_iff, Option.map_eq_some_iff, Prod.mk.injEq] at h
  rcases h with ⟨i, hi, _, rfl⟩ | ⟨_, ⟨n, hn, _, rfl⟩ | ⟨_, ⟨k, hk, _, rfl⟩ | ⟨_, ⟨k, hk, _, rfl⟩ | ⟨_, ⟨c, hc, _, rfl⟩ | ⟨_, i, hi, _, rfl⟩⟩⟩⟩⟩
  · split at hi
    · exact keeps_takeHeld fun _ => free_of_nextRequest hi
    · cases hi
  · exact keeps_buildNotice hn
  · exact keeps_issuePull (of_nextReissue hk).1 (of_nextReissue hk).2
  · exact keeps_grantPull (of_nextGrant hk).1 (of_nextGrant hk).2
  · exact keeps_takeWaiting (portEligible_of_nextPort hc)
  · exact keeps_takeHeld (free_of_nextHeld hi)

theorem keeps_settle : ∀ (n : Nat) (m : Claims) (s : State), s.Keeps (settle n m s)
  | 0, _, s => .refl s
  | n + 1, m, s => by
    unfold settle
    split
    · exact .refl s
    · next m' s' hc => exact (keeps_nextClaim hc).trans (keeps_settle n m' s')

/-- An event keeps the laws if its own effects do. -/
theorem keeps_runEvent {f : State → State} (hf : ∀ s : State, s.Keeps (f s)) (s : State) : s.Keeps (runEvent f s) :=
  (((State.Leads.newEvent s).keeps_zero.trans (hf _)).trans (keeps_settle ..)).trans (State.Leads.eventEnd _).keeps_zero

/-! ### The effects of commands that are no frames -/

theorem keeps_expire {ι : Type} {ds : Bay → List (ι × Nat)} {take : Ctx → Bay → ι → Bay} {s : State}
    (h : ∀ i, firstDue s.part.clock (ds s.bay) = some i → s.bay.Evolves (take s.ctx s.bay i)) : s.Keeps (s.expire ds take) := by
  unfold State.expire
  split
  · exact .refl s
  · next i hi => exact (State.Leads.onBay (h i hi)).keeps_zero

theorem keeps_expireOffer (s : State) : s.Keeps (expireOffer s) := keeps_expire fun _ _ => .offerExpiry ..

theorem keeps_expireStall (s : State) : s.Keeps (expireStall s) := keeps_expire fun _ _ => .stallExpiry ..

theorem keeps_expireAge (s : State) : s.Keeps (expireAge s) := keeps_expire fun _ _ => .promote ..

theorem keeps_expirePull (s : State) : s.Keeps (expirePull s) := keeps_expire fun _ _ => .pullExpiry ..

theorem keeps_expireLoad (s : State) : s.Keeps (expireLoad s) := keeps_expire fun _ _ => .loadFails ..

theorem keeps_expireQuarantine (s : State) : s.Keeps (expireQuarantine s) :=
  keeps_expire fun _ hi => .quarantineExpiry _ (Bay.state_of_quarantineDue hi)

theorem keeps_passTime (s : State) : s.Keeps (passTime s) := by
  unfold passTime
  dsimp only
  split
  · exact keeps_expireOffer s
  · split
    · exact keeps_expireStall s
    · split
      · exact keeps_expireAge s
      · split
        · exact keeps_expirePull s
        · split
          · exact keeps_expireLoad s
          · split
            · exact keeps_expireQuarantine s
            · exact (State.Leads.part (.inl (min_le_right _ _))).keeps_zero

theorem keeps_loseCellLine (c : CellNo) (s : State) : s.Keeps (loseCellLine c s) :=
  ((State.Leads.modPort (n := 0) (f := CellPort.lost) (Nat.zero_le _)).trans (.onBay (.linkLost ..))).keeps_zero

theorem keeps_recoverCellLine (c : CellNo) (s : State) : s.Keeps (recoverCellLine c s) :=
  (State.Leads.modPort (n := 0) (by exact le_rfl)).keeps_zero

theorem keeps_endUplinkSending (s : State) : s.Keeps (endUplinkSending s) := by
  unfold endUplinkSending
  split
  · refine (State.Leads.link (n := 0) ?_).keeps_zero
    simp only [List.length_tail]
    omega
  · exact .refl s

theorem keeps_beginCommand (c : CellNo) (s : State) : s.Keeps (beginCommand c s) := by
  unfold beginCommand
  dsimp only
  split
  · exact .refl s
  · next k rest hk =>
    split
    · have hbay : s.Leads (s.onBay fun _ b => b.modCell c fun r => { r with commands := rest }) 0 :=
        .onBay (.modCell (.of_commands (fun h => h.sublist (hk ▸ List.sublist_cons_self k rest)) rfl rfl))
      exact hbay.keeps_zero.trans (State.Leads.modPort (n := 0) (by exact le_rfl)).keeps_zero
    · exact .refl s

theorem keeps_endSegmentCopy (c : CellNo) (s : State) : s.Keeps (endSegmentCopy c s) := by
  unfold endSegmentCopy
  split
  · exact .refl s
  · have hport : s.Keeps (s.modPort c fun p => { p with tx := {} }) :=
      (State.Leads.modPort (n := 0) (by exact le_rfl)).keeps_zero
    dsimp only
    split
    · exact hport.trans (State.Leads.onBay (Bay.Reloads.delivered ..).evolves).keeps_zero
    · exact hport

theorem keeps_endDownlinkCopy (c : CellNo) (s : State) : s.Keeps (endDownlinkCopy c s) := by
  unfold endDownlinkCopy
  split
  · exact (State.Leads.modPort (n := 0) (by simp)).keeps_zero
  · exact .refl s

theorem keeps_buildIf (f : Notice → Bool) (s : State) : s.Keeps (buildIf f s) := by
  unfold buildIf
  split
  · exact .refl s
  · next n hn =>
    split
    · exact keeps_buildNotice hn
    · exact .refl s

theorem keeps_grantNext (s : State) : s.Keeps (grantNext s) := by
  unfold grantNext
  split
  · exact .refl s
  · next k hk => exact keeps_grantPull (of_nextGrant hk).1 (of_nextGrant hk).2

theorem keeps_reissueNext (s : State) : s.Keeps (reissueNext s) := by
  unfold reissueNext
  split
  · exact .refl s
  · next k hk => exact keeps_issuePull (of_nextReissue hk).1 (of_nextReissue hk).2

/-! ### Power-on -/

theorem tables_inRange_default : ({} : Tables).InRange := by
  refine ⟨by simp [Settings.InRange], fun i => ?_, fun c => ?_, fun i e h => ?_⟩
  · simp [GateProfile.InRange]
  · simp [CellConfig.InRange]
  · simp at h

/-- A state whose records are at their defaults. -/
structure State.Blank (s : State) : Prop where
  cells : ∀ c, s.bay.cell c = {}
  lots : ∀ h, s.bay.lot h = {}
  chans : ∀ k, s.bay.chan k = {}
  ports : ∀ c : CellNo, s.link.ports[c].downlink = []
  uplink : s.link.uplink = []
  queue : s.bay.queue = []
  rotation : s.bay.rotation = allCells
  notices : s.bay.notices = []
  clock : s.part.clock = 0
  tables : s.tables = {}

/-- R160: every buffer of a blank state is free. -/
theorem State.Blank.used {s : State} (h : s.Blank) : s.used = 0 := by
  have hports : (s.link.ports.toList.map fun p => p.downlink.length).sum = 0 := by
    rw [sum_map_toList]
    exact Finset.sum_eq_zero fun c _ => by rw [h.ports c]; rfl
  have hchans : (s.bay.channels.toList.map Channel.taken).sum = 0 := by
    rw [sum_map_toList]
    exact Finset.sum_eq_zero fun k _ => congrArg Channel.taken (h.chans k)
  unfold State.used
  rw [hports, hchans, h.uplink]
  rfl

/-- A blank state meets every law. -/
theorem State.Blank.laws {s : State} (h : s.Blank) :
    s.PoolLaw ∧ s.LotLaw ∧ s.RotationLaw ∧ s.NoticeLaw ∧ s.CommandLaw ∧ s.SlotLaw ∧ s.ClockLaw ∧ s.tables.InRange := by
  refine ⟨?_, Bay.lotLaw_of_free (fun n => ⟨0#32, h.lots n⟩) h.queue, ?_, ?_, fun c => ?_, fun c hs => ?_, ?_, ?_⟩
  · rw [State.poolLaw_iff, h.used, h.tables]
    refine ⟨Nat.zero_le _, fun k p hp => ?_, by decide⟩
    rw [h.chans k] at hp
    cases hp
  · rw [State.RotationLaw, h.rotation]
  · rw [State.NoticeLaw, h.notices]
    exact List.nodup_nil
  · rw [h.cells c]
    exact commandLaw_nil
  · rw [h.cells c] at hs
    simp at hs
  · rw [State.ClockLaw, h.clock]
    exact Nat.zero_le _
  · rw [h.tables]
    exact tables_inRange_default

theorem blank_poweredOn (strap : BitVec 9) (cellLines : BitVec 32) (uplinkLine : Bool) (s : State) :
    (s.poweredOn strap cellLines uplinkLine).Blank := by
  constructor <;> simp [State.poweredOn, Bay.cell, Bay.lot, Bay.chan, allCells]

theorem blank_reset : State.reset.Blank := by
  constructor <;> simp [State.reset, Bay.cell, Bay.lot, Bay.chan, allCells]

theorem keeps_poweredOn (strap : BitVec 9) (cellLines : BitVec 32) (uplinkLine : Bool) (s : State) :
    s.Keeps (s.poweredOn strap cellLines uplinkLine) := by
  obtain ⟨hpool, hlots, hrotation, hnotices, hcommands, hslots, hclock, htables⟩ :=
    (blank_poweredOn strap cellLines uplinkLine s).laws
  exact ⟨⟨rfl, fun _ => hlots, fun _ => hrotation, fun _ => hnotices, fun _ => hcommands, fun _ => hslots, fun _ => hclock,
    fun _ => htables⟩, fun _ => hpool⟩

/-! ### Commands and steps -/

/-- A command answers a next state that keeps the laws. -/
def Steady (i : Instr) (s : State) : Prop := ∃ t, exec i s = .next t ∧ s.Keeps t

theorem steady_of_event {i : Instr} {f : State → State} (he : ∀ s, exec i s = .next (runEvent f s))
    (hf : ∀ s : State, s.Keeps (f s)) (s : State) : Steady i s := ⟨_, he s, keeps_runEvent hf s⟩

theorem steady_of_uplink {i : Instr} (he : ∀ s, exec i s = .next (runUplink i s)) (s : State) : Steady i s :=
  steady_of_event he (keeps_arriveUplink i) s

theorem steady_of_cell {i : Instr} {c : CellNo} {a : Arrival} (he : ∀ s, exec i s = .next (runEvent (arriveCell c a) s))
    (s : State) : Steady i s := steady_of_event he (keeps_arriveCell c a) s

/-- Every command answers a next state, and keeps every law of the state. -/
theorem steady (i : Instr) (s : State) : Steady i s := by
  cases i with
  | powerOn strap cellLines uplinkLine => exact ⟨_, rfl, keeps_poweredOn ..⟩
  | ready c src lot kit temp sites => exact steady_of_cell (fun _ => rfl) s
  | take c src lot id => exact steady_of_cell (fun _ => rfl) s
  | decline c src lot id => exact steady_of_cell (fun _ => rfl) s
  | unit c src lot id site bin sequence => exact steady_of_cell (fun _ => rfl) s
  | tally c src lot id bins returned missing => exact steady_of_cell (fun _ => rfl) s
  | paused c src lot id => exact steady_of_cell (fun _ => rfl) s
  | state c src lot mode alarm => exact steady_of_cell (fun _ => rfl) s
  | loaded c src lot program revision slot result => exact steady_of_cell (fun _ => rfl) s
  | tstate c src lot code slot => exact steady_of_cell (fun _ => rfl) s
  | frameCheckFailure port =>
    cases port with
    | uplink => exact steady_of_uplink (fun _ => rfl) s
    | cell c => exact steady_of_cell (fun _ => rfl) s
  | sourceCheckFailure c => exact steady_of_cell (fun _ => rfl) s
  | destinationError c => exact steady_of_cell (fun _ => rfl) s
  | wrongKindOrLength c => exact steady_of_cell (fun _ => rfl) s
  | cellLineStateLoss c => exact steady_of_event (fun _ => rfl) (keeps_loseCellLine c) s
  | cellLineStateRecovery c => exact steady_of_event (fun _ => rfl) (keeps_recoverCellLine c) s
  | uplinkLineStateLoss =>
    exact steady_of_event (fun _ => rfl) (fun s => (State.Leads.link (n := 0) (l := s.link.lostUplink) le_rfl).keeps_zero) s
  | uplinkLineStateRecovery =>
    exact steady_of_event (fun _ => rfl) (fun s => (State.Leads.link (n := 0) (l := s.link.recoveredUplink) le_rfl).keeps_zero) s
  | offerDeadlineExpiry => exact steady_of_event (fun _ => rfl) keeps_expireOffer s
  | stallDeadlineExpiry => exact steady_of_event (fun _ => rfl) keeps_expireStall s
  | ageDeadlineExpiry => exact steady_of_event (fun _ => rfl) keeps_expireAge s
  | pullDeadlineExpiry => exact steady_of_event (fun _ => rfl) keeps_expirePull s
  | loadDeadlineExpiry => exact steady_of_event (fun _ => rfl) keeps_expireLoad s
  | quarantineExpiry => exact steady_of_event (fun _ => rfl) keeps_expireQuarantine s
  | uplinkSendingEnd => exact steady_of_event (fun _ => rfl) keeps_endUplinkSending s
  | commandSendingBegins c => exact steady_of_event (fun _ => rfl) (keeps_beginCommand c) s
  | segmentCopySent c => exact steady_of_event (fun _ => rfl) (keeps_endSegmentCopy c) s
  | downlinkCopySent c => exact steady_of_event (fun _ => rfl) (keeps_endDownlinkCopy c) s
  | lotStateNotice => exact steady_of_event (fun _ => rfl) (keeps_buildIf _) s
  | cellStateNotice => exact steady_of_event (fun _ => rfl) (keeps_buildIf _) s
  | releaseNotice => exact steady_of_event (fun _ => rfl) (keeps_buildIf _) s
  | pullGrant => exact steady_of_event (fun _ => rfl) keeps_grantNext s
  | pullReissue => exact steady_of_event (fun _ => rfl) keeps_reissueNext s
  | heldOffPortService => exact steady_of_event (fun _ => rfl) .refl s
  | _ => exact steady_of_uplink (fun _ => rfl) s

/-- The laws of a state do not see its queue of commands. -/
theorem keeps_step {s t : State} (h : step s = .next t) : { s with pending := t.pending }.Keeps t := by
  unfold step at h
  split at h
  · next c rest _ =>
    obtain ⟨u, hu, hk⟩ := steady c { s with pending := rest }
    cases hu.symm.trans h
    rw [hk.minds.pending]
    exact hk
  · cases h
    have hk := keeps_runEvent keeps_passTime s
    rw [hk.minds.pending]
    exact hk

/-! ### The obligations -/

/-- Settles O56: every claim that a step grants finds the buffers that it takes. -/
theorem poolLawKept : Obligations.PoolLawKept := fun _ _ hs h => (keeps_step h).pool hs

/-- Settles O57: every operation on the bay keeps the law of the lots, or parts one lot from it and brings it back. -/
theorem lotLawKept : Obligations.LotLawKept := fun _ _ hs h => (keeps_step h).minds.lots hs

/-- Settles O58: each law is kept by every operation that a step is made of. -/
theorem listClockAndTableLawsKept : Obligations.ListClockAndTableLawsKept := by
  intro s t h
  have hk := (keeps_step h).minds
  exact ⟨hk.rotation, hk.notices, hk.commands, hk.slots, hk.clock, hk.tables⟩

/-- Settles O3: no arm of `exec` stops, and no event touches the queue of commands. -/
theorem everyCommandAnswersAndKeepsQueue : Obligations.EveryCommandAnswersAndKeepsQueue := by
  intro i s
  obtain ⟨t, he, hk⟩ := steady i s
  exact ⟨t, he, hk.minds.pending⟩

/-- Settles O1: it is the definition of a step with a command waiting. -/
theorem stepTakesFrontCommand : Obligations.StepTakesFrontCommand := by
  intro c rest s hs
  rw [step, hs]

/-- Settles O59: the records of the reset state are at their defaults. -/
theorem resetMeetsLaws : Obligations.ResetMeetsLaws := blank_reset.laws

end Sys2Proof.Machine

/-!
SUPPORT. The resets, TIME.SET and the passing of time: what the claims of an event do in a state in which no notice is owed and
no channel has a pull to issue, and the values that power-on and a floor restart leave.
-/

namespace Sys2Proof.Machine

/-! ### Events without claims (R169) -/

theorem State.nextNotice_nil {s : State} (h : s.bay.notices = []) : s.nextNotice = none := by
  simp [State.nextNotice, h]

/-- R89: a channel without anything left to ask for, or with a pull outstanding, issues none. -/
theorem Channel.pull_not_issued {ch : Channel} (h : ch.current = 0 ∨ ch.pull.isSome = true) :
    (ch.pull.isNone && decide (0 < ch.current)) = false := by
  rcases h with hc | hp
  · simp [hc]
  · simp [Option.isSome_iff_ne_none.1 hp]

/-- R90: a channel re-issues no pull where none has one to issue. -/
theorem State.Unclaimed.nextReissue {s : State} (h : s.Unclaimed) : s.nextReissue = none := by
  refine List.find?_eq_none.2 fun k _ => ?_
  have hk := Channel.pull_not_issued (h.2 k)
  simp only [Bool.and_eq_true]
  rintro ⟨⟨⟨-, hpull⟩, hcurrent⟩, -⟩
  rw [hpull, hcurrent] at hk
  cases hk

/-- R88: the arbiter grants nothing where no channel has a pull to issue. -/
theorem State.Unclaimed.nextGrant {s : State} (h : s.Unclaimed) : s.nextGrant = none := by
  unfold State.nextGrant
  split
  · refine List.find?_eq_none.2 fun k _ => ?_
    have hk := Channel.pull_not_issued (h.2 k)
    simp only [Channel.waitingForGrant, Bool.and_eq_true]
    rintro ⟨⟨⟨⟨⟨-, hcurrent⟩, hpull⟩, -⟩, -⟩, -⟩
    rw [hpull, hcurrent] at hk
    cases hk
  · rfl

theorem State.Unclaimed.nextClaim {s : State} (h : s.Unclaimed) (hq : s.Quiet) : nextClaim {} s = none := by
  simp only [Machine.nextClaim, nextRequest_quiet hq, nextHeld_quiet hq, nextPort_quiet hq, State.nextNotice_nil h.1,
    h.nextReissue, h.nextGrant, ite_self, Option.map_none]
  rfl

/-- A state without claims is left as it is by their service. -/
theorem State.Unclaimed.serveClaims {s : State} (h : s.Unclaimed) (hq : s.Quiet) : s.serveClaims {} = s := by
  rw [State.serveClaims]
  cases s.claimBound with
  | zero => rfl
  | succ n => rw [settle, h.nextClaim hq]

/-! ### Power-on (R197) -/

theorem stationOf_toNat (strap : BitVec 9) : (stationOf strap).toNat = 128 * max strap.toNat 1 := by
  have := strap.isLt
  rw [stationOf, BitVec.toNat_ofNat, Nat.mod_eq_of_lt]
  omega

theorem State.Blank.free {s : State} (h : s.Blank) : s.free = 2048 := by rw [State.free_eq, h.used]

theorem State.Blank.occupied_reserved {s : State} (h : s.Blank) : s.occupied = 0 ∧ s.reserved = 0 := by
  have := h.used
  rw [State.used_eq] at this
  omega

/-- The model's reset is power-on with the strap at 0 and every line up. -/
theorem poweredOn_reset (s : State) :
    s.poweredOn 0#9 (BitVec.allOnes 32) true = { State.reset with pending := s.pending } := by
  have hports : Vector.ofFn (fun c : CellNo => ({ up := (BitVec.allOnes 32).getLsbD c.val } : CellPort)) = Vector.replicate 32 {} := by
    ext i hi : 1
    rw [Vector.getElem_ofFn, Vector.getElem_replicate, BitVec.getLsbD_allOnes, decide_eq_true hi]
  simp only [State.poweredOn, hports]
  rfl

/-- Settles O4: power-on leaves every record, table and queue at its first value, and the pool empty. -/
theorem powerOnValues : Obligations.PowerOnValues := by
  refine ⟨fun strap lines up s => ⟨s.poweredOn strap lines up, rfl, ?_⟩, fun s => congrArg Host.Outcome.next (poweredOn_reset s)⟩
  have hb := blank_poweredOn strap lines up s
  refine ⟨stationOf_toNat strap, rfl, rfl, rfl, fun h => ?_, fun c => ?_, fun k => ?_, rfl, rfl, rfl, rfl, rfl, rfl, hb.free,
    hb.occupied_reserved.1, hb.occupied_reserved.2, rfl, rfl, rfl, rfl, fun c => ?_, rfl, ?_⟩
  · rw [hb.lots]; decide
  · rw [hb.cells]; decide
  · rw [hb.chans, hb.tables]
    exact ⟨rfl, rfl, rfl, rfl, rfl, rfl, rfl, by simp⟩
  · simp [State.poweredOn]
  · rw [hb.tables]
    simp

/-! ### TIME.SET (R196) -/

/-- Settles O26: TIME.SET writes the clock and nothing else. -/
theorem timeSet : Obligations.TimeSet := fun _ clock s h =>
  answers_of_serve (u := { s.newEvent with part := { s.part with clock := clock.toNat } }) rfl h rfl rfl h.1 rfl rfl (by simp)

/-! ### An idle step (R194, R195) -/

theorem step_idle {s : State} (h : s.pending = []) : step s = .next (runEvent passTime s) := by rw [step, h]

theorem passTime_of_offer {s : State} (h : (firstDue s.part.clock s.bay.offerDeadlines).isSome = true) :
    passTime s = expireOffer s := if_pos h

/-- R194: with nothing due the clock advances by a millisecond. -/
def State.ticked (s : State) : State := { s with part := { s.part with clock := min (s.part.clock + 1) 281474976710655 } }

theorem passTime_of_none_due {s : State} (ho : firstDue s.part.clock s.bay.offerDeadlines = none)
    (hs : firstDue s.part.clock s.bay.stallDeadlines = none) (ha : firstDue s.part.clock s.bay.ageDeadlines = none)
    (hp : firstDue s.part.clock s.bay.pullDeadlines = none) (hl : firstDue s.part.clock s.bay.loadDeadlines = none)
    (hr : firstDue s.part.clock s.bay.quarantineDeadlines = none) : passTime s = s.ticked := by
  simp only [passTime, ho, hs, ha, hp, hl, hr]
  rfl

/-- Settles O2: an offer expiry that is due is taken; with nothing due the clock alone advances. -/
theorem idleStepPassesTime : Obligations.IdleStepPassesTime := by
  intro s hpending hq
  refine ⟨fun hdue => ?_, fun ⟨ho, hs, ha, hp, hl, hr⟩ => ?_⟩
  · have hpass : passTime s.newEvent = expireOffer s.newEvent := passTime_of_offer hdue
    rw [step_idle hpending, runEvent, hpass]
    rfl
  · have hpass : passTime s.newEvent = s.newEvent.ticked := passTime_of_none_due ho hs ha hp hl hr
    obtain ⟨hrecords, htraffic, -⟩ := event_quiet (s := s.newEvent.ticked) hq
    exact ⟨_, by rw [step_idle hpending, runEvent, hpass], htraffic, hrecords⟩

/-! ### PART.RESTART (R198) -/

theorem State.restarted_used (s : State) : s.restarted.used = 0 := by
  have hports : (s.restarted.link.ports.toList.map fun p => p.downlink.length).sum = 0 := by
    rw [sum_map_toList]
    simp [State.restarted, Link.restarted, CellPort.restarted]
  have hchans : (s.restarted.bay.channels.toList.map Channel.taken).sum = 0 := by
    rw [sum_map_toList]
    simp [State.restarted, Bay.restarted, Channel.restarted, Channel.taken, Channel.reserved]
  rw [State.used, hports, hchans]
  rfl

theorem State.chan_restarted (s : State) (k : ChanNo) :
    s.restarted.bay.chan k = Channel.restarted s.tables.channels[k] (s.bay.chan k) := by
  simp [State.restarted, Bay.restarted, Bay.chan]

theorem State.cell_restarted (s : State) (c : CellNo) : s.restarted.bay.cell c = (s.bay.cell c).restarted := by
  simp [State.restarted, Bay.restarted, Bay.cell]

theorem State.lot_restarted (s : State) (h : LotNo) : s.restarted.bay.lot h = (s.bay.lot h).restarted := by
  simp [State.restarted, Bay.restarted, Bay.lot]

theorem State.ports_restarted (s : State) (c : CellNo) : s.restarted.link.ports[c] = s.link.ports[c].restarted := by
  simp [State.restarted, Link.restarted]

theorem State.unclaimed_restarted (s : State) : s.restarted.Unclaimed :=
  ⟨rfl, fun k => .inl (by rw [State.chan_restarted]; rfl)⟩

theorem State.quiet_restarted {s : State} (h : s.Quiet) : s.restarted.Quiet :=
  ⟨h.1, fun c => by rw [State.ports_restarted]; exact h.2 c⟩

/-- R185: as the event of a restart ends, each port sends nothing, RESTART being queued. -/
theorem portsAfter_restart {s : State} {c : CellNo} (hp : s.link.ports[c].tx = {}) (hc : (s.bay.cell c).commands ≠ []) :
    s.portsAfter[c] = s.link.ports[c] := by
  have hsettled : Tx.settled s.bay c {} = {} := rfl
  have hbegun : Tx.begun s.bay s.part.station c s.link.ports[c] {} = {} := by
    unfold Tx.begun
    rw [if_neg]
    simpa using fun _ _ => hc
  have hafter : s.portsAfter[c]
      = { s.link.ports[c] with tx := Tx.begun s.bay s.part.station c s.link.ports[c] (s.link.ports[c].tx.settled s.bay c) } := by
    simp [State.portsAfter]
  rw [hafter, hp, hsettled, hbegun, ← hp]

/-- The state after PART.RESTART: the restart, its RESPONSE, and no claim. -/
theorem exec_partRestart {tag : Half} {s : State} (h : s.TakesRequests) :
    exec (.partRestart tag) s = .next (servePartRestart tag s).eventEnd := by
  obtain ⟨hq, hup, hfree⟩ := h
  have hserve : serveUplink (.partRestart tag) s.newEvent = servePartRestart tag s := rfl
  have hquiet : (servePartRestart tag s).Quiet := State.quiet_restarted hq
  have hclaims : (servePartRestart tag s).Unclaimed := s.unclaimed_restarted
  show Host.Outcome.next _ = _
  rw [runUplink_eq hq hup fun _ => hfree, hserve, hclaims.serveClaims hquiet]

theorem State.used_pushUplink (s : State) (e : UpEntry) : (s.pushUplink e).used = s.used + 1 := by
  simp only [State.used, State.pushUplink, List.length_append, List.length_singleton]
  omega

theorem servePartRestart_counts (tag : Half) (s : State) :
    (servePartRestart tag s).used = 1 ∧ (servePartRestart tag s).reserved = 0 := by
  have hused : (servePartRestart tag s).used = s.restarted.used + 1 := State.used_pushUplink ..
  have hreserved : (servePartRestart tag s).reserved = s.restarted.reserved := rfl
  have hzero := s.restarted_used
  rw [hused, hreserved, hzero]
  rw [State.used_eq] at hzero
  omega

theorem used_eventEnd (s : State) : s.eventEnd.used = s.used := by
  have hports : (s.portsAfter.toList.map fun p => p.downlink.length) = s.link.ports.toList.map fun p => p.downlink.length := by
    apply List.ext_getElem <;> simp [State.portsAfter]
  simp only [State.used, State.eventEnd, State.newEvent, hports]

theorem reserved_eventEnd (s : State) : s.eventEnd.reserved = s.reserved := rfl

theorem ports_eventEnd (s : State) : s.eventEnd.link.ports = s.portsAfter := rfl

theorem bay_eventEnd (s : State) : s.eventEnd.bay = { s.bay with stamped := [] } := rfl

/-- Settles O5: the restart leaves no claim, so that its event ends with RESTART queued for every cell, the RESPONSE alone in
the uplink queue, and what R198 keeps. -/
theorem partRestartValues : Obligations.PartRestartValues := by
  intro tag s hs
  refine ⟨_, exec_partRestart hs, fun h => s.lot_restarted h, fun c => s.cell_restarted c, fun k => s.chan_restarted k,
    rfl, rfl, rfl, rfl, rfl, rfl, rfl, rfl, rfl, ?_, ?_, ?_, rfl, rfl, fun c => ?_, rfl, rfl, hs.2.1, rfl⟩
  · rw [State.free_eq, used_eventEnd, (servePartRestart_counts tag s).1]
  · have hsum := State.used_eq (servePartRestart tag s).eventEnd
    rw [used_eventEnd, (servePartRestart_counts tag s).1, reserved_eventEnd, (servePartRestart_counts tag s).2] at hsum
    rw [Nat.add_zero] at hsum
    exact hsum.symm
  · rw [reserved_eventEnd, (servePartRestart_counts tag s).2]
  · have hport : (servePartRestart tag s).link.ports[c] = s.link.ports[c].restarted := s.ports_restarted c
    have hcell : ((servePartRestart tag s).bay.cell c).commands ≠ [] := by
      show (s.restarted.bay.cell c).commands ≠ []
      rw [State.cell_restarted]
      exact List.cons_ne_nil _ _
    rw [ports_eventEnd, portsAfter_restart (by rw [hport]; rfl) hcell, hport]
    rfl

end Sys2Proof.Machine

/-!
SUPPORT. TABLE.WRITE of the catalogue, of cell configurations, group entries and forwarding settings, and of the part settings;
requests that name nothing; reads.
-/

namespace Sys2Proof.Machine

/-! ### Answers of TABLE.WRITE -/

theorem Tables.reply_of_entry {t : Tables} {table index : Byte} {entry : List Byte} (h : t.entryBytes table index = some entry) :
    t.reply table index = writeDone table index entry := by rw [Tables.reply, h]; rfl

theorem Tables.reply_of_none {t : Tables} {table index : Byte} (h : t.entryBytes table index = none) :
    t.reply table index = { status := .unknown, data := [] } := by rw [Tables.reply, h]; rfl

/-- A TABLE.WRITE whose effect is an update `u` of the tables and the bay. -/
theorem answers_of_written {i : Instr} {s u : State} {r : Records} {tag : Half} {table index : Byte} {entry : List Byte}
    (he : exec i s = .next (runUplink i s)) (h : s.TakesRequests) (hs : serveUplink i s.newEvent = u.written tag table index)
    (hpart : u.part = s.part) (hlink : u.link = s.link) (hr : u.records = r) (hentry : u.tables.entryBytes table index = some entry) :
    Answers i s r none 0x01#8 tag (writeDone table index entry) :=
  answers_of_serve (u := u) he h (by rw [hs, State.written, Tables.reply_of_entry hentry]; rfl) (by rw [hpart])
    (quiet_of_link h.1 (by rw [hlink]) (by rw [hlink])) hr (by rw [State.traffic, hlink]; rfl) (by simp)

/-- A TABLE.WRITE that is refused. -/
theorem answers_of_refused {i : Instr} {s : State} {tag : Half} {status : Status} (he : exec i s = .next (runUplink i s))
    (h : s.TakesRequests) (hs : serveUplink i s.newEvent = s.newEvent.writeRefused tag status) :
    Answers i s s.records none 0x01#8 tag { status := status, data := [] } := answers_unchanged he h hs

/-! ### Catalogue entries (R75, R76) -/

theorem catalogueOf_eq (program : Half) (revision : Byte) (segsLessOne : Half) (noRetain : Byte) :
    catalogueOf program revision segsLessOne noRetain
      = if program = 0#16 then none
        else some
          { program := program, revision := revision, segs := segsLessOne.toNat + 1, noRetain := decide (noRetain ≠ 0#8) } := rfl

/-- R76: which slots a write of an entry makes STALE, where an unused entry comes of program id 0 and no used entry has it. -/
theorem staledBy_iff {before : Option CatalogueEntry} {program : Half} {revision : Byte} {segsLessOne : Half} {noRetain : Byte}
    {x : Slot} (hzero : ∀ o, before = some o → o.program ≠ 0#16) :
    staledBy before (catalogueOf program revision segsLessOne noRetain) x = true
      ↔ ∃ o, before = some o ∧ x.state = .resident
        ∧ (if program = o.program then revision ≠ o.revision ∧ x.image = some (o.program, o.revision)
            else ∃ r, x.image = some (o.program, r)) := by
  cases before with
  | none => simp [staledBy]
  | some o =>
    have ho := hzero o rfl
    have himage : x.image.any (·.1 = o.program) = true ↔ ∃ r, x.image = some (o.program, r) := by
      cases x.image with
      | none => simp
      | some p => simp [Prod.ext_iff, eq_comm]
    by_cases hp : program = 0#16
    · simp [staledBy, catalogueOf, hp, himage, ho.symm]
    · by_cases hsame : program = o.program
      · simp [staledBy, catalogueOf, hsame, ho]
        tauto
      · simp [staledBy, catalogueOf, hp, hsame, himage]

theorem entryBytes_catalogue {t : Tables} {index : Byte} (h : index.toNat < 128) :
    t.entryBytes 2#8 index = some (catalogueBytes t.catalogue[index.toNat]) :=
  congrArg (Option.map fun i : Fin 128 => catalogueBytes t.catalogue[i]) (indexOf_toNat h)

/-- R76: the state after an entry has been replaced. -/
def State.catalogueWritten (s : State) (i : Fin 128) (e : Option CatalogueEntry) : State :=
  { s with
    tables := { s.tables with catalogue := s.tables.catalogue.set i e }, bay := s.bay.staleSlots s.tables.catalogue[i] e }

/-- Settles O7: the write is refused out of range or for an id held elsewhere; else it replaces the entry and makes STALE the
slots that R76 names. -/
theorem catalogueWrite : Obligations.CatalogueWrite := by
  intro tag index program revision segsLessOne noRetain s hs hlaw i e
  have helsewhere {h : index.toNat < 128} : (program ≠ 0#16 ∧ s.newEvent.tables.heldElsewhere ⟨index.toNat, h⟩ program = true)
      ↔ program ≠ 0#16 ∧ ∃ j : Fin 128, j.val ≠ index.toNat ∧ ∃ o, s.tables.catalogue[j] = some o ∧ o.program = program := by
    rw [Tables.heldElsewhere_iff]
    simp only [exists_and_left, ne_eq, Fin.ext_iff, State.tables_newEvent]
  refine ⟨fun hout => answers_of_refused (status := .unknown) rfl hs ?_, fun h => ⟨fun hheld => ?_, fun hfree => ?_⟩⟩
  · show serveCatalogueWrite .. = _
    rw [serveCatalogueWrite, indexOf_none hout]
  · refine answers_of_refused (status := .state) rfl hs ?_
    show serveCatalogueWrite .. = _
    rw [serveCatalogueWrite, indexOf_toNat h]
    exact if_pos (helsewhere.2 hheld)
  · intro stale
    have hserve : serveUplink i s.newEvent = (s.newEvent.catalogueWritten ⟨index.toNat, h⟩ e).written tag 2#8 index := by
      show serveCatalogueWrite .. = _
      rw [serveCatalogueWrite, indexOf_toNat h]
      exact if_neg (mt helsewhere.1 hfree)
    refine answers_of_written rfl hs hserve rfl rfl ?_ ?_
    · have hstale (x : Slot) : staledBy s.tables.catalogue[index.toNat] e x = true ↔ stale x :=
        staledBy_iff fun o ho => (hlaw ⟨index.toNat, h⟩ o ho).1
      have hslot (x : Slot) : (if staledBy s.tables.catalogue[index.toNat] e x = true then { x with state := .stale } else x)
          = @ite _ (stale x) (Classical.dec _) { x with state := .stale } x := by
        by_cases hx : stale x
        · rw [if_pos ((hstale x).2 hx), if_pos hx]
        · rw [if_neg (mt (hstale x).1 hx), if_neg hx]
      simp only [← hslot]
      rfl
    · rw [entryBytes_catalogue h]
      simp [State.catalogueWritten]

/-! ### Cell configurations, group entries and forwarding settings (R27, R181, R183) -/

theorem stallOf_eq (b : Byte) :
    stallOf b = if b = 1#8 then .s120 else if b = 2#8 then .s300 else if b = 3#8 then .s900 else .off := by
  simp only [← BitVec.toNat_inj]
  unfold stallOf
  split <;> simp_all

theorem cellConfigOf_eq (cap : Half) (stall : Byte) (soak : Half) :
    cellConfigOf cap stall soak
      = { cap := max cap.toNat 1, soak := min soak.toNat 3600
          stall := if stall = 1#8 then .s120 else if stall = 2#8 then .s300 else if stall = 3#8 then .s900 else .off } := by
  rw [cellConfigOf, stallOf_eq]

theorem entryBytes_cellConfig {t : Tables} {index : Byte} (h : index.toNat < 32) :
    t.entryBytes 3#8 index = some (cellConfigBytes t.cellConfig[index.toNat]) :=
  congrArg (Option.map fun c : CellNo => cellConfigBytes t.cellConfig[c]) (cellOf_toNat h)

theorem entryBytes_group {t : Tables} {index : Byte} (h : index.toNat < 4) :
    t.entryBytes 4#8 index = some (groupBytes t.groups[index.toNat]) :=
  congrArg (Option.map fun i : Fin 4 => groupBytes t.groups[i]) (indexOf_toNat h)

/-- R27: the state after a cell configuration has been written. -/
def State.configWritten (s : State) (c : CellNo) (k : CellConfig) : State :=
  { s with tables := { s.tables with cellConfig := s.tables.cellConfig.set c k }, bay := s.bay.stallWritten c k }

/-- R27: a written configuration changes the stall deadline of its cell and no other record of the bay. -/
theorem records_configWritten (s : State) (c : CellNo) (k : CellConfig) :
    (s.newEvent.configWritten c k).records
      = ({ s.records with tables := { s.tables with cellConfig := s.tables.cellConfig.set c k } } : Records).setCell c
          { s.bay.cell c with stallDeadline := if k.stall = StallChoice.off then none else (s.bay.cell c).stallDeadline } := by
  have hbay : ({ s with bay := s.newEvent.bay.stallWritten c k } : State).records
      = s.records.setCell c
          { s.bay.cell c with stallDeadline := if k.stall = StallChoice.off then none else (s.bay.cell c).stallDeadline } := by
    unfold Bay.stallWritten
    split
    · exact records_modCell s c _
    · have hset : s.bay.cells.set c (s.bay.cell c) = s.bay.cells := Vector.set_getElem_self ..
      simp only [Records.setCell]
      rw [show s.records.cells.set c _ = s.bay.cells from hset]
      rfl
  calc (s.newEvent.configWritten c k).records
      = { ({ s with bay := s.newEvent.bay.stallWritten c k } : State).records with
          tables := { s.tables with cellConfig := s.tables.cellConfig.set c k } } := rfl
    _ = _ := by rw [hbay]; rfl

theorem configWrite_taken {tag : Half} {index : Byte} {cap : Half} {stall : Byte} {soak : Half} {s : State} (hs : s.TakesRequests)
    (h : index.toNat < 32) :
    Answers (.tableWriteCellConfiguration tag index cap stall soak) s
      (s.newEvent.configWritten ⟨index.toNat, h⟩ (cellConfigOf cap stall soak)).records none 0x01#8 tag
      (writeDone 3#8 index (cellConfigBytes (cellConfigOf cap stall soak))) := by
  have hserve : serveUplink (.tableWriteCellConfiguration tag index cap stall soak) s.newEvent
      = (s.newEvent.configWritten ⟨index.toNat, h⟩ (cellConfigOf cap stall soak)).written tag 3#8 index := by
    show serveCellConfigWrite .. = _
    rw [serveCellConfigWrite, cellOf_toNat h]
    rfl
  refine answers_of_written rfl hs hserve rfl rfl rfl ?_
  rw [entryBytes_cellConfig h]
  simp [State.configWritten]

theorem configWrite_refused {tag : Half} {index : Byte} {cap : Half} {stall : Byte} {soak : Half} {s : State} (hs : s.TakesRequests)
    (h : 32 ≤ index.toNat) :
    Answers (.tableWriteCellConfiguration tag index cap stall soak) s s.records none 0x01#8 tag
      { status := .unknown, data := [] } := by
  refine answers_of_refused rfl hs ?_
  show serveCellConfigWrite .. = _
  rw [serveCellConfigWrite, cellOf_none h]

theorem groupOf_eq (inUse value mask : Byte) :
    groupOf inUse value mask
      = if groupUseOf inUse then
          { inUse := true, value := BitVec.ofNat 6 (value.toNat % 64), mask := BitVec.ofNat 6 (mask.toNat % 64) }
        else { inUse := false, value := 0#6, mask := 0#6 } := by
  have hmod (n : Nat) : BitVec.ofNat 6 (n % 64) = BitVec.ofNat 6 n := by
    rw [← BitVec.toNat_inj]
    simp
  rw [hmod, hmod]
  rfl

theorem groupWrite_taken {tag : Half} {index inUse value mask : Byte} {s : State} (hs : s.TakesRequests) (h : index.toNat < 4) :
    Answers (.tableWriteGroupTable tag index inUse value mask) s
      { s.records with tables := { s.tables with groups := s.tables.groups.set index.toNat (groupOf inUse value mask) h } }
      none 0x01#8 tag (writeDone 4#8 index (groupBytes (groupOf inUse value mask))) := by
  have hserve : serveUplink (.tableWriteGroupTable tag index inUse value mask) s.newEvent
      = { s.newEvent with
          tables := { s.tables with groups := s.tables.groups.set index.toNat (groupOf inUse value mask) h } }.written
          tag 4#8 index := by
    show serveGroupWrite .. = _
    rw [serveGroupWrite, indexOf_toNat h]
    rfl
  refine answers_of_written rfl hs hserve rfl rfl rfl ?_
  rw [entryBytes_group h, Vector.getElem_set_self]

theorem groupWrite_refused {tag : Half} {index inUse value mask : Byte} {s : State} (hs : s.TakesRequests) (h : 4 ≤ index.toNat) :
    Answers (.tableWriteGroupTable tag index inUse value mask) s s.records none 0x01#8 tag { status := .unknown, data := [] } := by
  refine answers_of_refused rfl hs ?_
  show serveGroupWrite .. = _
  rw [serveGroupWrite, indexOf_none h]

theorem CellKind.code_toNat (k : CellKind) : k.code.toNat = k.index.val + 1 := by cases k <;> rfl

theorem CellKind.exists_index (i : Fin 9) : ∃ k : CellKind, k.index = i := by
  fin_cases i
  exacts [⟨.ready, rfl⟩, ⟨.take, rfl⟩, ⟨.decline, rfl⟩, ⟨.unit, rfl⟩, ⟨.tally, rfl⟩, ⟨.paused, rfl⟩, ⟨.state, rfl⟩,
    ⟨.loaded, rfl⟩, ⟨.tstate, rfl⟩]

theorem CellKind.ofCode_code (k : CellKind) : CellKind.ofCode k.code = some k := by cases k <;> rfl

/-- Table 11-2: the codes 1 to 9 name the kinds in their order. -/
theorem CellKind.ofCode_toNat {b : Byte} (h : 1 ≤ b.toNat ∧ b.toNat ≤ 9) :
    ∃ k : CellKind, CellKind.ofCode b = some k ∧ k.index.val = b.toNat - 1 := by
  obtain ⟨k, hk⟩ := CellKind.exists_index ⟨b.toNat - 1, by omega⟩
  have hval : k.index.val = b.toNat - 1 := congrArg Fin.val hk
  have hcode : k.code = b := BitVec.toNat_inj.1 (by rw [CellKind.code_toNat, hval]; omega)
  exact ⟨k, hcode ▸ CellKind.ofCode_code k, hval⟩

theorem CellKind.ofCode_none {b : Byte} (h : ¬(1 ≤ b.toNat ∧ b.toNat ≤ 9)) : CellKind.ofCode b = none := by
  refine List.find?_eq_none.2 fun k _ => ?_
  rw [decide_eq_true_eq]
  rintro rfl
  rw [CellKind.code_toNat] at h
  have := k.index.isLt
  omega

theorem entryBytes_forwarding_one {t : Tables} {index : Byte} {k : CellKind} (h : CellKind.ofCode index = some k) :
    t.entryBytes 5#8 index = some [forwardingByte t.forwarding[k.index]] := by
  have hall : index ≠ 0xFF#8 := by
    rintro rfl
    cases h
  have hindex : forwardIndex index = some k.index := congrArg (Option.map CellKind.index) h
  show (if index = 0xFF#8 then _ else (forwardIndex index).map fun i => [forwardingByte t.forwarding[i]]) = _
  rw [if_neg hall, hindex]
  rfl

theorem forwardingWrite_one {tag : Half} {index code : Byte} {s : State} (hs : s.TakesRequests) (h : 1 ≤ index.toNat ∧ index.toNat ≤ 9) :
    Answers (.tableWriteForwardingTable tag (.one index code)) s
      { s.records with
        tables := { s.tables with forwarding := s.tables.forwarding.set (index.toNat - 1) (forwardingOf code) (by omega) } }
      none 0x01#8 tag (writeDone 5#8 index [forwardingByte (forwardingOf code)]) := by
  obtain ⟨k, hk, hindex⟩ := CellKind.ofCode_toNat h
  have hserve : serveUplink (.tableWriteForwardingTable tag (.one index code)) s.newEvent
      = { s.newEvent with
          tables := { s.tables with
            forwarding := s.tables.forwarding.set (index.toNat - 1) (forwardingOf code) (by omega) } }.written tag 5#8 index := by
    show serveForwardingWrite tag (.one index code) s.newEvent = _
    simp only [serveForwardingWrite, hk, ← hindex]
    rfl
  refine answers_of_written rfl hs hserve rfl rfl rfl ?_
  rw [entryBytes_forwarding_one hk]
  simp [hindex]

theorem forwardingWrite_refused {tag : Half} {index code : Byte} {s : State} (hs : s.TakesRequests)
    (h : ¬(1 ≤ index.toNat ∧ index.toNat ≤ 9)) :
    Answers (.tableWriteForwardingTable tag (.one index code)) s s.records none 0x01#8 tag { status := .unknown, data := [] } := by
  refine answers_of_refused rfl hs ?_
  show serveForwardingWrite tag (.one index code) s.newEvent = _
  simp only [serveForwardingWrite, CellKind.ofCode_none h]

theorem forwardingWrite_all {tag : Half} {codes : Vector Byte 9} {s : State} (hs : s.TakesRequests) :
    Answers (.tableWriteForwardingTable tag (.all codes)) s
      { s.records with tables := { s.tables with forwarding := codes.map forwardingOf } } none 0x01#8 tag
      (writeDone 5#8 0xFF#8 (codes.toList.map fun k => forwardingByte (forwardingOf k))) := by
  refine answers_of_written (u := { s.newEvent with tables := { s.tables with forwarding := codes.map forwardingOf } })
    rfl hs rfl rfl rfl rfl ?_
  show some _ = _
  simp [Vector.toList_map, Function.comp_def]

/-- Settles O8: each of the three tables is written at an index of it, read back into the answer, and refused outside it. -/
theorem configurationGroupAndForwardingWrites : Obligations.ConfigurationGroupAndForwardingWrites := by
  intro tag index s hs
  refine ⟨?config, ?group, fun code => ⟨forwardingWrite_one hs, fun h _ => forwardingWrite_refused hs h⟩,
    fun codes => forwardingWrite_all hs⟩
  case config =>
    intro cap stall soak k i
    have hk : cellConfigOf cap stall soak = k := cellConfigOf_eq ..
    refine ⟨?_, configWrite_refused hs⟩
    intro h c r
    rw [← hk, ← records_configWritten]
    exact configWrite_taken hs h
  case group =>
    intro inUse value mask g i
    have hg : groupOf inUse value mask = g := groupOf_eq ..
    exact ⟨fun h => hg ▸ groupWrite_taken hs h, groupWrite_refused hs⟩

/-! ### Part settings (R56, R63, R192) -/

theorem turningOf_eq (v : Half) : turningOf v = if v = 1#16 then .fixed else .rotating := by
  simp only [turningOf, ← BitVec.toNat_inj]
  rfl

theorem Turning.code_eq (m : Turning) : m.code = if m = .fixed then 1 else 0 := by cases m <;> rfl

/-- R191: the answer to a write of setting `number`. -/
theorem entryBytes_setting {t : Tables} {index : Byte} {value : Nat} (h : t.settings.value index.toNat = some value) :
    t.entryBytes 7#8 index = some (beBytes 2 value) := by
  show (t.settings.value index.toNat).map (beBytes 2) = _
  rw [h]
  rfl

/-- R192: a write of a setting that acts on nothing in flight. -/
theorem answers_of_setting {i : Instr} {s : State} {tag : Half} {number : Byte} {k : Settings} {value : Nat}
    (he : exec i s = .next (runUplink i s)) (h : s.TakesRequests)
    (hs : serveUplink i s.newEvent = (s.newEvent.setSettings k).settingWritten tag number)
    (hvalue : k.value number.toNat = some value) :
    Answers i s { s.records with tables := { s.tables with settings := k } } none 0x01#8 tag
      (writeDone 7#8 number (beBytes 2 value)) :=
  answers_of_written he h hs rfl rfl rfl (entryBytes_setting hvalue)

/-! ### The age limit and the rotation mode -/

/-- R54, R56: a lot record with its age deadline formed again. -/
def Ctx.aged (x : Ctx) (l : LotRec) : LotRec := { l with ageDeadline := x.ageDeadline l }

theorem Bay.modLot_aged (x : Ctx) (b : Bay) (h : LotNo) : b.modLot h x.aged = b.setLot h (x.aged (b.lot h)) := by
  unfold Bay.modLot
  exact if_pos rfl

theorem Ctx.aged_aged (x : Ctx) (l : LotRec) : x.aged (x.aged l) = x.aged l := rfl

theorem Bay.reformAges_eq (x : Ctx) (b : Bay) : b.reformAges x = b.queue.foldl (fun b h => b.setLot h (x.aged (b.lot h))) b := by
  unfold Bay.reformAges
  congr 1
  funext b h
  exact b.modLot_aged x h

/-- R56: the records of the lots of a list with their age deadlines formed again, and nothing else changed. -/
theorem Bay.foldl_aged (x : Ctx) : ∀ (q : List LotNo) (b : Bay),
    q.foldl (fun b h => b.setLot h (x.aged (b.lot h))) b
      = { b with lots := Vector.ofFn fun h => if h ∈ q then x.aged (b.lot h) else b.lot h }
  | [], b => by
    simp
  | h :: q, b => by
    rw [List.foldl_cons, Bay.foldl_aged x q]
    have hlots (h' : LotNo) : (if h' ∈ q then x.aged ((b.setLot h (x.aged (b.lot h))).lot h') else (b.setLot h (x.aged (b.lot h))).lot h')
        = if h' ∈ h :: q then x.aged (b.lot h') else b.lot h' := by
      by_cases hh : h = h'
      · subst hh
        rw [Bay.lot_setLot_self, if_pos List.mem_cons_self, Ctx.aged_aged, ite_self]
      · rw [Bay.lot_setLot_ne _ _ hh]
        simp [Ne.symm hh]
    simp only [hlots]
    rfl

theorem records_reformAges (x : Ctx) (s : State) :
    ({ s with bay := s.newEvent.bay.reformAges x } : State).records
      = { s.records with lots := Vector.ofFn fun h => if h ∈ s.bay.queue then x.aged (s.bay.lot h) else s.bay.lot h } := by
  rw [Bay.reformAges_eq, Bay.foldl_aged]
  rfl

/-- R56: a write of the age limit that is held already changes nothing. -/
theorem ageLimit_same {tag v : Half} {s : State} (hs : s.TakesRequests) (hv : min v.toNat 1440 = s.tables.settings.ageLimit) :
    Answers (.tableWriteAgeLimit tag v) s s.records none 0x01#8 tag (writeDone 7#8 0#8 (beBytes 2 (min v.toNat 1440))) := by
  have hserve : serveUplink (.tableWriteAgeLimit tag v) s.newEvent = s.newEvent.settingWritten tag 0#8 := by
    show serveAgeLimit .. = _
    exact congrArg (State.settingWritten · tag 0#8) (if_pos hv)
  exact answers_of_written rfl hs hserve rfl rfl rfl (entryBytes_setting (congrArg some hv.symm))

/-- R56: a new age limit forms the age deadlines of the queued lots again. -/
theorem ageLimit_new {tag v : Half} {s : State} (hs : s.TakesRequests) (hv : min v.toNat 1440 ≠ s.tables.settings.ageLimit) :
    let k : Settings := { s.tables.settings with ageLimit := min v.toNat 1440 }
    let x : Ctx := { tables := { s.tables with settings := k }, clock := s.part.clock }
    Answers (.tableWriteAgeLimit tag v) s
      { s.records with
        tables := { s.tables with settings := k }
        lots := Vector.ofFn fun h => if h ∈ s.bay.queue then x.aged (s.bay.lot h) else s.bay.lot h }
      none 0x01#8 tag (writeDone 7#8 0#8 (beBytes 2 (min v.toNat 1440))) := by
  intro k x
  have hserve : serveUplink (.tableWriteAgeLimit tag v) s.newEvent
      = ((s.newEvent.setSettings k).onBay fun x b => b.reformAges x).settingWritten tag 0#8 := by
    show serveAgeLimit .. = _
    exact congrArg (State.settingWritten · tag 0#8) (if_neg hv)
  refine answers_of_written rfl hs hserve rfl rfl ?_ (entryBytes_setting rfl)
  exact records_reformAges x (s.setSettings k)

/-- R54: what an age deadline formed with a new limit is. -/
theorem Ctx.aged_eq (t : Tables) (k : Settings) (limit clock : Nat) (l : LotRec) :
    Ctx.aged { tables := { t with settings := { k with ageLimit := limit } }, clock := clock } l
      = { l with
          ageDeadline :=
            if l.cls = .normal ∧ limit ≠ 0 then some (min (l.queuedAt + limit * 60000) 281474976710655) else none } := rfl

/-- R63: a write of the rotation mode. -/
theorem rotationMode_written {tag v : Half} {s : State} (hs : s.TakesRequests) :
    Answers (.tableWriteRotationMode tag v) s
      { s.records with
        tables := { s.tables with settings := { s.tables.settings with rotationMode := turningOf v } }
        rotation := if turningOf v = .fixed then List.finRange 32 else s.bay.rotation }
      none 0x01#8 tag (writeDone 7#8 1#8 (beBytes 2 (turningOf v).code)) := by
  have hrecords (m : Turning) : ({ s with bay := s.newEvent.bay.rotationWritten m } : State).records
      = { s.records with rotation := if m = .fixed then List.finRange 32 else s.bay.rotation } := by cases m <;> rfl
  refine answers_of_written (u := { s.newEvent.setSettings { s.tables.settings with rotationMode := turningOf v } with
    bay := s.newEvent.bay.rotationWritten (turningOf v) }) rfl hs rfl rfl rfl ?_ (entryBytes_setting rfl)
  calc _ = { ({ s with bay := s.newEvent.bay.rotationWritten (turningOf v) } : State).records with
              tables := { s.tables with settings := { s.tables.settings with rotationMode := turningOf v } } } := rfl
    _ = _ := by rw [hrecords]

/-- Settles O10: eight settings are clamped, read back into the answer, and act on nothing in flight; a new age limit forms the
age deadlines of the queued lots again; FIXED orders the rotation list. -/
theorem settingWrites : Obligations.SettingWrites := by
  refine ⟨?plain, ?aging⟩
  case plain =>
    intro tag v s hs k set n held order
    have horder : turningOf v = order := turningOf_eq v
    refine ⟨answers_of_setting rfl hs rfl rfl, answers_of_setting rfl hs rfl rfl, ?_, answers_of_setting rfl hs rfl rfl,
      answers_of_setting rfl hs rfl rfl, answers_of_setting rfl hs rfl rfl, answers_of_setting rfl hs rfl rfl,
      answers_of_setting rfl hs rfl rfl⟩
    rw [← horder]
    exact answers_of_setting rfl hs rfl (congrArg some (Turning.code_eq _))
  case aging =>
    intro tag v s hs limit aged order
    have horder : turningOf v = order := turningOf_eq v
    refine ⟨?_, ?_⟩
    · by_cases hv : limit = s.tables.settings.ageLimit
      · rw [if_pos hv]
        exact ageLimit_same hs hv
      · rw [if_neg hv]
        exact ageLimit_new hs hv
    · rw [← horder, ← Turning.code_eq]
      exact rotationMode_written hs

end Sys2Proof.Machine

/-!
SUPPORT. Requests that name nothing, reads, and claims that fail (R163, R166, R190); which deadline of a kind is the next to
expire (R195).
-/

namespace Sys2Proof.Machine

/-! ### Requests out of range (R1, R26, R190) -/

/-- R26: a request that names a cell out of range is answered UNKNOWN. -/
theorem State.cellRequest_out_of_range {s : State} {code : Byte} {tag : Half} {cell : Byte}
    {f : Ctx → Bay → CellNo → Bay × Reply} (h : 32 ≤ cell.toNat) :
    s.cellRequest code tag cell f = s.respond none code tag { status := .unknown, data := [] } := by
  rw [State.cellRequest, cellOf_none h]
  rfl

/-- Settles O12: the service of each request stops at the index that names nothing. -/
theorem outOfRangeRequestsAreUnknown : Obligations.OutOfRangeRequestsAreUnknown := by
  intro tag handle cell code detail kind mode stamp s hs unknown
  have hlot {i : Instr} {c : Byte} (f : Ctx → Bay → LotNo → Bay × Reply) (he : exec i s = .next (runUplink i s))
      (hi : serveUplink i s.newEvent = s.newEvent.lotRequest c tag handle f) (h : 256 ≤ handle.toNat) : unknown i c :=
    answers_unchanged he hs (hi.trans (State.lotRequest_out_of_range h))
  have hcell {i : Instr} {c : Byte} (f : Ctx → Bay → CellNo → Bay × Reply) (he : exec i s = .next (runUplink i s))
      (hi : serveUplink i s.newEvent = s.newEvent.cellRequest c tag cell f) (h : 32 ≤ cell.toNat) : unknown i c :=
    answers_unchanged he hs (hi.trans (State.cellRequest_out_of_range h))
  refine ⟨fun h => ⟨hlot _ rfl rfl h, ?read, hlot _ rfl rfl h, hlot _ rfl rfl h, hlot _ rfl rfl h, ?release, hlot _ rfl rfl h⟩,
    fun h => ⟨?claim, hcell _ rfl rfl h, ?cellRead⟩, answers_unchanged rfl hs rfl⟩
  case read => exact hlot (fun _ b h => (b, { status := .done, data := lotReadBytes (b.lot h) })) rfl rfl h
  case release =>
    refine hlot (fun x b h =>
      match releaseTargetOf kind, releaseModeOf mode with
      | some t, some m => b.holdRelease t m stamp x h
      | _, _ => (b, Reply.unknown)) rfl rfl h
  case claim => exact hcell (fun x b c => (b.claim x c, (b.claim x c).cellReply c .done)) rfl rfl h
  case cellRead => exact hcell (fun _ b c => (b, { status := .done, data := cellReadBytes s.newEvent c })) rfl rfl h

/-! ### Claims where no frame can be taken (R163, R166) -/

/-- No frame that waits at a port can be taken. -/
structure State.Blocked (s : State) : Prop where
  request : s.nextRequest = none
  port : s.nextPort none = none
  held : s.nextHeld = none

/-- The claims of a state in which no frame can be taken build notices and issue pulls; a property that these keep, and that keeps
frames from being taken, is kept by all claims. -/
theorem settle_blocked {P : State → Prop} (hb : ∀ s, P s → s.Blocked)
    (hn : ∀ s n, P s → s.nextNotice = some n → P (s.buildNotice n))
    (hi : ∀ s k, P s → s.nextReissue = some k → P (s.issuePull k))
    (hg : ∀ s k, P s → s.nextGrant = some k → P (s.grantPull k)) : ∀ (n : Nat) (s : State), P s → P (settle n {} s)
  | 0, _, hp => hp
  | n + 1, s, hp => by
    have hblocked := hb s hp
    unfold settle
    simp only [nextClaim, hblocked.request, hblocked.port, hblocked.held, if_true, Option.map_none]
    cases hnotice : s.nextNotice with
    | some x => exact settle_blocked hb hn hi hg n _ (hn s x hp hnotice)
    | none =>
      cases hreissue : s.nextReissue with
      | some k => exact settle_blocked hb hn hi hg n _ (hi s k hp hreissue)
      | none =>
        cases hgrant : s.nextGrant with
        | some k => exact settle_blocked hb hn hi hg n _ (hg s k hp hgrant)
        | none => exact hp

/-- R163: a full pool grants no claim of any class. -/
theorem serveClaims_full {s : State} (hfree : s.free = 0) (hheld : ∀ i ∈ s.link.held, isRequest i = true)
    (hw : ∀ c : CellNo, s.link.ports[c].waiting = []) : s.serveClaims {} = s := by
  have hrequest : s.nextRequest = none := by
    refine Option.filter_eq_none_iff.2 fun i _ => ?_
    simp [hfree]
  have hnextHeld : s.nextHeld = none := by
    refine Option.filter_eq_none_iff.2 fun i hi => ?_
    simp [hfree, hheld i (List.mem_of_mem_head? hi)]
  have hport : s.nextPort none = none := nextPort_quiet (s := { s with link := { s.link with held := [] } }) ⟨rfl, hw⟩
  have hnotice : s.nextNotice = none := if_neg (by omega)
  have hsize (k : ChanNo) : s.pullSize k = 0 := by
    unfold State.pullSize
    omega
  have hreissue : s.nextReissue = none := List.find?_eq_none.2 fun k _ => by simp [hsize]
  have hgrant : s.nextGrant = none := by
    unfold State.nextGrant
    split
    · exact List.find?_eq_none.2 fun k _ => by simp [hsize]
    · rfl
  have hclaim : nextClaim {} s = none := by
    simp only [nextClaim, hrequest, hnextHeld, hport, hnotice, hreissue, hgrant, ite_self, Option.map_none]
    rfl
  rw [State.serveClaims]
  cases s.claimBound with
  | zero => rfl
  | succ n => rw [settle, hclaim]

/-- R188: a request that finds no buffer free is held, and nothing else of its event happens. -/
theorem runUplink_held {i : Instr} {s : State} (hi : isRequest i = true) (hq : s.Quiet) (hup : s.link.uplinkUp = true)
    (hfree : s.free = 0) : runUplink i s = ({ s.newEvent with link := { s.link with held := [i] } } : State).eventEnd := by
  have harrive : arriveUplink i s.newEvent = { s.newEvent with link := { s.link with held := [i] } } := by
    unfold arriveUplink
    rw [if_neg (by simp [hup]), if_pos (.inr ⟨hi, hfree⟩), State.link_newEvent, hq.1]
    rfl
  rw [runUplink, runEvent, harrive]
  exact congrArg State.eventEnd (serveClaims_full hfree (List.forall_mem_singleton.2 hi) hq.2)

/-- R167: a share counts forwarded frames, which are traffic. -/
theorem State.share_eq (s : State) (c : CellNo) : s.share c = s.traffic.countP fun e => e.origin = .forwarded c := by
  rw [State.traffic, List.countP_filter]
  refine List.countP_congr fun e _ => ?_
  simp only [decide_eq_true_eq, Bool.and_eq_true, iff_self_and]
  rintro ho
  simp [UpEntry.traffic, ho]

/-- R163: no buffer is left for a frame forwarded from a cell's port, or the cell has no share left. -/
def State.Refuses (s : State) (c : CellNo) : Prop := s.free ≤ 64 ∨ s.tables.settings.cellShareLimit ≤ s.share c

theorem State.Refuses.not_granted {s : State} {c : CellNo} (h : s.Refuses c) : s.cellClaimGranted c = false := by
  rw [State.cellClaimGranted, decide_eq_false_iff_not]
  rintro ⟨hfree, hshare⟩
  rcases h with h | h
  · exact absurd h (not_le.2 hfree)
  · omega

theorem State.Refuses.of_records {s t : State} {c : CellNo} (h : s.Refuses c) (hr : t.records = s.records)
    (ht : t.traffic = s.traffic) (hf : t.free ≤ s.free) : t.Refuses c := by
  have htables : t.tables = s.tables := congrArg Records.tables hr
  unfold State.Refuses
  rw [htables, State.share_eq, ht, ← State.share_eq]
  exact h.imp_left hf.trans

/-! ### A frame that waits at one port -/

/-- One frame waits, at cell port `c`, for a claim that is refused. -/
structure State.Waits (s : State) (c : CellNo) (a : Arrival) : Prop where
  held : s.link.held = []
  here : s.link.ports[c].waiting = [a]
  there : ∀ c' : CellNo, c' ≠ c → s.link.ports[c'].waiting = []
  claimed : s.takenFreely a = false
  refused : s.Refuses c

theorem State.Waits.blocked {s : State} {c : CellNo} {a : Arrival} (h : s.Waits c a) : s.Blocked := by
  refine ⟨by simp [State.nextRequest, h.held], ?_, by simp [State.nextHeld, h.held]⟩
  have hfind : s.link.portOrder.find? s.portEligible = none := by
    refine List.find?_eq_none.2 fun c' _ => ?_
    by_cases hc : c' = c
    · subst hc
      rw [State.portEligible, h.here]
      simp [h.claimed, h.refused.not_granted]
    · rw [State.portEligible, h.there c' hc]
      exact Bool.false_ne_true
  simp [State.nextPort, hfind]

/-- A step of the claims that leaves the ports, the records and the traffic as they are and frees no buffer. -/
theorem State.Waits.of_link {s t : State} {c : CellNo} {a : Arrival} (h : s.Waits c a) (hh : t.link.held = s.link.held)
    (hp : t.link.ports = s.link.ports) (hr : t.records = s.records) (ht : t.traffic = s.traffic) (hf : t.free ≤ s.free) :
    t.Waits c a :=
  ⟨hh.trans h.held, by rw [hp]; exact h.here, by rw [hp]; exact h.there,
    (takenFreely_eq (congrArg Records.tables hr) a).trans h.claimed, h.refused.of_records hr ht hf⟩

theorem State.held_buildNotice (s : State) (n : Notice) : (s.buildNotice n).link.held = s.link.held := by cases n <;> rfl

theorem State.ports_buildNotice (s : State) (n : Notice) : (s.buildNotice n).link.ports = s.link.ports := by cases n <;> rfl

theorem State.held_issuePull (s : State) (k : ChanNo) : (s.issuePull k).link.held = s.link.held := by
  unfold State.issuePull
  dsimp only
  split <;> rfl

theorem State.ports_issuePull (s : State) (k : ChanNo) : (s.issuePull k).link.ports = s.link.ports := by
  unfold State.issuePull
  dsimp only
  split <;> rfl

theorem State.used_buildNotice (s : State) (n : Notice) : (s.buildNotice n).used = s.used + 1 := by
  have hexpress (t : State) (h : LotNo) (e : UpEntry) : (t.pushExpress h e).used = t.used + 1 := by
    simp only [State.used, State.pushExpress, List.length_append, List.length_take, List.length_cons, List.length_drop]
    omega
  cases n with
  | lotState h => exact hexpress { s with bay := s.bay.unowe (.lotState h) } h _
  | release h => exact hexpress { s with bay := s.bay.unowe (.release h) } h _
  | cellState c => exact State.used_pushUplink { s with bay := s.bay.unowe (.cellState c) } _

theorem State.free_buildNotice_le (s : State) (n : Notice) : (s.buildNotice n).free ≤ s.free := by
  rw [State.free_eq, State.free_eq, State.used_buildNotice]
  omega

/-- R89: a pull takes buffers, where none was outstanding. -/
theorem State.free_issuePull_le {s : State} {k : ChanNo} (hp : (s.bay.chan k).pull = none) : (s.issuePull k).free ≤ s.free := by
  cases him : (s.bay.chan k).image with
  | none => rw [State.issuePull_none him]
  | some im =>
    rw [State.issuePull_some him, State.free_eq, State.free_eq, State.used_pushUplink]
    have hsum := sum_map_set s.bay.channels k (s.pulledChan k) Channel.taken
    have hold : s.bay.channels[k].taken = (s.bay.chan k).segs.length := by
      show (s.bay.chan k).segs.length + (s.bay.chan k).reserved = _
      rw [Channel.reserved, hp]
      rfl
    have hnew : (s.pulledChan k).taken = (s.bay.chan k).segs.length + s.pullSize k := rfl
    rw [hold, hnew] at hsum
    simp only [State.used, State.pulledBay, Bay.channels_modChan]
    omega

theorem State.free_grantPull_le {s : State} {k : ChanNo} (hp : (s.bay.chan k).pull = none) : (s.grantPull k).free ≤ s.free :=
  State.free_issuePull_le hp

/-- The claims of an event serve no frame that waits for a claim that is refused. -/
theorem serveClaims_waits {s : State} {c : CellNo} {a : Arrival} (h : s.Waits c a) :
    (s.serveClaims {}).Waits c a ∧ (s.serveClaims {}).records = s.records ∧ (s.serveClaims {}).traffic = s.traffic := by
  refine settle_blocked (P := fun t => t.Waits c a ∧ t.records = s.records ∧ t.traffic = s.traffic)
    (fun t ht => ht.1.blocked) ?notice ?reissue ?grant s.claimBound s ⟨h, rfl, rfl⟩
  case notice =>
    rintro t n ⟨hw, hr, ht⟩ -
    have hrecords := records_buildNotice t n
    have htraffic := traffic_buildNotice t n
    exact ⟨hw.of_link (t.held_buildNotice n) (t.ports_buildNotice n) hrecords htraffic (t.free_buildNotice_le n),
      hrecords.trans hr, htraffic.trans ht⟩
  case reissue =>
    rintro t k ⟨hw, hr, ht⟩ hk
    have hrecords := records_issuePull t k
    have htraffic := traffic_issuePull t k
    exact ⟨hw.of_link (t.held_issuePull k) (t.ports_issuePull k) hrecords htraffic (State.free_issuePull_le (of_nextReissue hk).1),
      hrecords.trans hr, htraffic.trans ht⟩
  case grant =>
    rintro t k ⟨hw, hr, ht⟩ hk
    have hrecords := records_grantPull t k
    have htraffic := traffic_grantPull t k
    exact ⟨hw.of_link (t.held_issuePull k) (t.ports_issuePull k) hrecords htraffic (State.free_grantPull_le (of_nextGrant hk).1),
      hrecords.trans hr, htraffic.trans ht⟩

/-- R168: a port holds off a frame whose claim is refused. -/
theorem arriveCell_held {c : CellNo} {a : Arrival} {s : State} (hw : s.link.ports[c].waiting = [])
    (hup : s.link.ports[c].up = true) (hfree : s.takenFreely a = false) (hr : s.Refuses c) :
    arriveCell c a s = s.modPort c fun p => { p with waiting := [a] } := by
  unfold arriveCell presentArrival
  rw [if_neg (by simpa using hup), if_neg (not_not.2 hw), if_neg (by simp [hfree, hr.not_granted])]

theorem records_modPort_waiting (s : State) (c : CellNo) (w : List Arrival) :
    (s.modPort c fun p => { p with waiting := w }).records = s.records := by
  have hports : (s.link.ports.set c { s.link.ports[c] with waiting := w }).map CellPort.view = s.link.ports.map CellPort.view := by
    ext i hi : 1
    simp only [Vector.getElem_map, Vector.getElem_set]
    split
    · next he => subst he; rfl
    · rfl
  simp only [State.records, State.modPort, hports]

theorem held_eventEnd (s : State) : s.eventEnd.link.held = s.link.held := by simp only [State.eventEnd, State.newEvent]

theorem uplink_eventEnd (s : State) : s.eventEnd.link.uplink = s.link.uplink := by simp only [State.eventEnd, State.newEvent]

/-- Settles O13: a request is held while free is 0; a frame whose claim is refused is held off, and the claims of its event
take it no more than the event itself. -/
theorem claimsRefusedWait : Obligations.ClaimsRefusedWait := by
  refine ⟨fun i s hi hq hup hfree => ?_, fun c src lot m s hq hup hforward hrefused => ?_⟩
  · have he : exec i s = .next (runUplink i s) := by
      cases i <;> first | exact absurd hi Bool.false_ne_true | rfl
    let u : State := { s.newEvent with link := { s.link with held := [i] } }
    have hrecords : u.eventEnd.records = s.records := records_eventEnd u
    have hwaiting (c : CellNo) : u.eventEnd.link.ports[c].waiting = [] := (waiting_eventEnd u c).trans (hq.2 c)
    have hrun : exec i s = .next u.eventEnd := he.trans (congrArg Host.Outcome.next (runUplink_held hi hq hup hfree))
    exact ⟨u.eventEnd, hrun, by rw [held_eventEnd], hrecords, by rw [uplink_eventEnd], rfl, rfl, hwaiting⟩
  · let a : Arrival := .frame src lot m
    let u : State := s.newEvent.modPort c fun p => { p with waiting := [a] }
    have hfree : s.takenFreely a = false := decide_eq_false (by rw [hforward]; exact nofun)
    have hu : u.records = s.records := records_modPort_waiting s.newEvent c [a]
    have hwaits : u.Waits c a := by
      refine ⟨hq.1, ?_, fun c' hc => ?_, (takenFreely_eq (congrArg Records.tables hu) a).trans hfree, ?_⟩
      · show (s.link.ports.set c _)[c].waiting = _
        simp
      · show (s.link.ports.set c _)[c'].waiting = _
        rw [Fin.getElem_fin, Vector.getElem_set_ne _ _ (Fin.val_ne_of_ne hc.symm)]
        exact hq.2 c'
      · exact State.Refuses.of_records (s := s) hrefused hu rfl (free_modPort (s := s.newEvent) rfl).le
    obtain ⟨hw, hr, ht⟩ := serveClaims_waits hwaits
    refine ⟨(u.serveClaims {}).eventEnd, ?_, ?_, ?_, ?_, (held_eventEnd _).trans hw.held, fun c' hc => ?_⟩
    · have harrive : arriveCell c (.frame src lot m) s.newEvent = u :=
        arriveCell_held (s := s.newEvent) (hq.2 c) hup hfree hrefused
      rw [exec_instr, runEvent, harrive]
    · rw [waiting_eventEnd]; exact hw.here
    · exact (records_eventEnd _).trans (hr.trans hu)
    · exact (traffic_eventEnd _).trans ht
    · rw [waiting_eventEnd]; exact hw.there c' hc

/-! ### The next expiry of a kind (R195) -/

/-- A deadline that is later than those of a list is not the earliest of them. -/
theorem foldl_earlier_of_le {ι : Type} {i : ι} {d : Nat} : ∀ {l : List (ι × Nat)}, (∀ e ∈ l, d ≤ e.2) →
    l.foldl earlier (some (i, d)) = some (i, d)
  | [], _ => rfl
  | e :: l, h => by
    rw [List.foldl_cons, earlier, if_neg (by have := h e List.mem_cons_self; dsimp only; omega)]
    exact foldl_earlier_of_le fun e' he' => h e' (List.mem_cons_of_mem _ he')

theorem foldl_earlier_lt {ι : Type} {d : Nat} : ∀ {l : List (ι × Nat)} {best : Option (ι × Nat)}, (∀ e ∈ l, d < e.2) →
    (∀ a ∈ best, d < a.2) → ∀ a ∈ l.foldl earlier best, d < a.2
  | [], _, _, hb => hb
  | e :: l, best, h, hb => by
    rw [List.foldl_cons]
    refine foldl_earlier_lt (fun e' he' => h e' (List.mem_cons_of_mem _ he')) fun a ha => ?_
    have he := h e List.mem_cons_self
    cases best with
    | none => cases ha; exact he
    | some first =>
      simp only [earlier] at ha
      split at ha
      · cases ha; exact he
      · cases ha; exact hb a rfl

theorem firstDue_eq_none {ι : Type} {clock : Nat} {ds : List (ι × Nat)} (h : ∀ e ∈ ds, clock < e.2) : firstDue clock ds = none := by
  have hnone : ds.filter (fun e => decide (e.2 ≤ clock)) = [] := by
    refine List.filter_eq_nil_iff.2 fun e he => ?_
    have := h e he
    simpa using this
  rw [firstDue, hnone]
  rfl

/-- R195: the earliest deadline of a kind is taken, the one that stands first among equals. -/
theorem firstDue_eq_some {ι : Type} {clock d : Nat} {i : ι} {before after : List (ι × Nat)} (hd : d ≤ clock)
    (hbefore : ∀ e ∈ before, d < e.2) (hafter : ∀ e ∈ after, d ≤ e.2) : firstDue clock (before ++ (i, d) :: after) = some i := by
  have hhere : ∀ best : Option (ι × Nat), (∀ a ∈ best, d < a.2) → earlier best (i, d) = some (i, d) := by
    rintro (_ | a) hb
    · rfl
    · exact if_pos (hb a rfl)
  have hfirst := foldl_earlier_lt (best := none) (l := before.filter fun e => decide (e.2 ≤ clock))
    (fun e he => hbefore e (List.mem_of_mem_filter he)) (by simp)
  rw [firstDue, List.filter_append, List.filter_cons_of_pos (by simpa using hd), List.foldl_append, List.foldl_cons,
    hhere _ hfirst, foldl_earlier_of_le fun e he => hafter e (List.mem_of_mem_filter he)]
  rfl

/-- The deadlines that an index holds, in index order, around one of them. -/
theorem filterMap_finRange_split {n : Nat} (f : Fin n → Option Nat) {i : Fin n} {d : Nat} (hi : f i = some d) :
    ∃ before after, (List.finRange n).filterMap (fun j => (f j).map fun d => (j, d)) = before ++ (i, d) :: after
      ∧ (∀ e ∈ before, e.1 < i ∧ f e.1 = some e.2) ∧ ∀ e ∈ after, f e.1 = some e.2 := by
  have hmem : (i, d) ∈ (List.finRange n).filterMap (fun j => (f j).map fun d => (j, d)) :=
    List.mem_filterMap.2 ⟨i, List.mem_finRange i, by rw [hi]; rfl⟩
  obtain ⟨before, after, hsplit⟩ := List.append_of_mem hmem
  have hsorted : ((List.finRange n).filterMap (fun j => (f j).map fun d => (j, d))).Pairwise (fun a b => a.1 < b.1) := by
    refine List.Pairwise.filterMap _ ?_ (List.pairwise_lt_finRange n)
    intro a a' ha b hb b' hb'
    obtain ⟨_, _, rfl⟩ := Option.map_eq_some_iff.1 hb
    obtain ⟨_, _, rfl⟩ := Option.map_eq_some_iff.1 hb'
    exact ha
  have hvalue : ∀ e ∈ (List.finRange n).filterMap (fun j => (f j).map fun d => (j, d)), f e.1 = some e.2 := by
    intro e he
    obtain ⟨j, -, hj⟩ := List.mem_filterMap.1 he
    obtain ⟨d', hd', rfl⟩ := Option.map_eq_some_iff.1 hj
    exact hd'
  rw [hsplit] at hsorted hvalue
  refine ⟨before, after, hsplit, fun e he => ⟨?_, hvalue e (List.mem_append_left _ he)⟩,
    fun e he => hvalue e (List.mem_append_right _ (List.mem_cons_of_mem _ he))⟩
  exact (List.pairwise_append.1 hsorted).2.2 e he (i, d) List.mem_cons_self

/-- R195: the earliest of the deadlines that indexes hold, the lowest index among equals, is the next to be taken. -/
theorem firstDue_filterMap {n clock d : Nat} {f : Fin n → Option Nat} {i : Fin n} (hi : f i = some d) (hd : d ≤ clock)
    (hleast : ∀ j d', f j = some d' → d < d' ∨ (d = d' ∧ i ≤ j)) :
    firstDue clock ((List.finRange n).filterMap fun j => (f j).map fun d => (j, d)) = some i := by
  obtain ⟨before, after, hsplit, hbefore, hafter⟩ := filterMap_finRange_split f hi
  rw [hsplit]
  refine firstDue_eq_some hd (fun e he => ?_) fun e he => ?_
  · obtain ⟨hlt, hf⟩ := hbefore e he
    rcases hleast e.1 e.2 hf with h | ⟨-, h⟩
    · exact h
    · exact absurd hlt (not_lt.2 h)
  · rcases hleast e.1 e.2 (hafter e he) with h | ⟨h, -⟩
    · exact h.le
    · exact h.le

theorem firstDue_filterMap_none {n clock : Nat} {f : Fin n → Option Nat} (h : ∀ j d, f j = some d → clock < d) :
    firstDue clock ((List.finRange n).filterMap fun j => (f j).map fun d => (j, d)) = none := by
  refine firstDue_eq_none fun e he => ?_
  obtain ⟨j, -, hj⟩ := List.mem_filterMap.1 he
  obtain ⟨d, hd, rfl⟩ := Option.map_eq_some_iff.1 hj
  exact h j d hd

/-- R153: the quarantine deadline of a lot, while it is to be taken. -/
def LotRec.quarantineDue (l : LotRec) : Option Nat :=
  if l.state = .complete ∧ l.quarantineSpent = false then l.quarantine else none

theorem Bay.quarantineDeadlines_eq (b : Bay) :
    b.quarantineDeadlines = (List.finRange 256).filterMap fun h => (b.lot h).quarantineDue.map fun d => (h, d) := by
  unfold Bay.quarantineDeadlines LotRec.quarantineDue
  congr 1
  funext h
  split <;> rfl

theorem LotRec.quarantineDue_eq_some {l : LotRec} {d : Nat} :
    l.quarantineDue = some d ↔ l.state = .complete ∧ l.quarantineSpent = false ∧ l.quarantine = some d := by
  unfold LotRec.quarantineDue
  split <;> simp_all

theorem Bay.pullDeadlines_eq (b : Bay) :
    b.pullDeadlines = (List.finRange 8).filterMap fun k => ((b.chan k).pull.map (·.deadline)).map fun d => (k, d) := by
  unfold Bay.pullDeadlines
  simp only [Option.map_map]
  rfl

/-- R195: an expiry of a kind with a deadline due is an event of the bay. -/
theorem leaves_of_expiry {ι : Type} {i : Instr} {s : State} {ds : Bay → List (ι × Nat)} {take : Ctx → Bay → ι → Bay} {j : ι}
    {r : Records} {b : Bay} {reported : List Notice}
    (he : exec i s = .next (runEvent (fun s => s.expire ds take) s)) (hq : s.Quiet)
    (hdue : firstDue s.part.clock (ds s.newEvent.bay) = some j) (hb : take s.ctx s.newEvent.bay j = b)
    (hr : { s with bay := b }.records = r) (hn : ∀ n ∈ reported, n ∈ b.notices) : Leaves i s r reported := by
  have hf : s.newEvent.expire ds take = s.newEvent.onBay fun x b => take x b j := by
    unfold State.expire
    rw [State.part_newEvent, hdue]
  subst hb
  refine leaves_of_event he ?_ ?_ ?_ ?_ <;> rw [hf]
  · exact hq
  · exact hr
  · rfl
  · exact fun n hm => .inl (hn n hm)

/-- R195: an expiry of a kind with no deadline due changes nothing. -/
theorem leaves_of_none_due {ι : Type} {i : Instr} {s : State} {ds : Bay → List (ι × Nat)} {take : Ctx → Bay → ι → Bay}
    (he : exec i s = .next (runEvent (fun s => s.expire ds take) s)) (hq : s.Quiet)
    (hdue : firstDue s.part.clock (ds s.newEvent.bay) = none) : Leaves i s s.records := by
  have hf : s.newEvent.expire ds take = s.newEvent := by
    unfold State.expire
    rw [State.part_newEvent, hdue]
  refine leaves_of_event he ?_ ?_ ?_ (by simp) <;> rw [hf]
  · exact hq
  · rfl
  · rfl

/-- Settles O46: no deadline of the kind is due, so that its expiry takes none. -/
theorem expiriesNotDue : Obligations.ExpiriesNotDue := by
  intro s hq now
  refine ⟨fun h => leaves_of_none_due rfl hq (firstDue_filterMap_none h),
    fun h => leaves_of_none_due rfl hq (firstDue_filterMap_none h),
    fun h => leaves_of_none_due rfl hq (firstDue_filterMap_none h), fun h => leaves_of_none_due rfl hq ?pull,
    fun h => leaves_of_none_due rfl hq (firstDue_filterMap_none ?load), fun h => leaves_of_none_due rfl hq ?quarantine⟩
  case pull =>
    rw [Bay.pullDeadlines_eq]
    refine firstDue_filterMap_none fun k d hd => ?_
    obtain ⟨p, hp, rfl⟩ := Option.map_eq_some_iff.1 hd
    exact h k p hp
  case load =>
    intro c d hd
    obtain ⟨ld, hld, hdeadline⟩ := Option.bind_eq_some_iff.1 hd
    exact h c ld d hld hdeadline
  case quarantine =>
    rw [Bay.quarantineDeadlines_eq]
    refine firstDue_filterMap_none fun l d hd => ?_
    obtain ⟨hstate, hspent, hquarantine⟩ := LotRec.quarantineDue_eq_some.1 hd
    exact h l d hstate hspent hquarantine

end Sys2Proof.Machine

/-!
SUPPORT. The gate checks of a counted unit as comparisons (R111 to R115), the cell frames that are refused as protocol
errors (R26, R33, R71, R80, R96, R141), and READY's record of the capability (R32, R33).
-/

namespace Sys2Proof.Machine

/-! ### The SITE check (R114) -/

/-- R114: the yield of a site is a quotient in every case: a site without tested units has yield 0. -/
theorem siteYield_eq (t : SiteTally) : siteYield t = t.good * 10000 / t.tested := by
  unfold siteYield
  split
  · next h => simp [h]
  · rfl

theorem mem_qualifyingSites {p : GateProfile} {n : Nat} {sites : Vector SiteTally 8} {x : SiteNo × Nat} :
    x ∈ qualifyingSites p n sites
      ↔ (x.1.val < n ∧ p.siteMin ≤ sites[x.1].tested) ∧ x.2 = sites[x.1].good * 10000 / sites[x.1].tested := by
  obtain ⟨k, y⟩ := x
  simp only [qualifyingSites, siteYield_eq, List.mem_map, List.mem_filter, List.mem_finRange, true_and, decide_eq_true_eq,
    Prod.mk.injEq]
  constructor
  · rintro ⟨j, hj, rfl, rfl⟩; exact ⟨hj, rfl⟩
  · rintro ⟨hk, hy⟩; exact ⟨k, hk, rfl, hy.symm⟩

/-- A fold that keeps the better of two keeps one of the list that no other beats. -/
theorem foldl_best {α : Type} (score : α → Int) (pick : α → α → α)
    (hpick : ∀ x y, pick x y = if score x < score y then y else x) :
    ∀ (rest : List α) (a : α), rest.foldl pick a ∈ a :: rest ∧ ∀ x ∈ a :: rest, score x ≤ score (rest.foldl pick a)
  | [], a => by simp
  | b :: rest, a => by
    obtain ⟨hm, hb⟩ := foldl_best score pick hpick rest (pick a b)
    rw [List.foldl_cons]
    have hge : score a ≤ score (pick a b) ∧ score b ≤ score (pick a b) ∧ (pick a b = a ∨ pick a b = b) := by
      rw [hpick]
      split
      · next h => exact ⟨h.le, le_rfl, .inr rfl⟩
      · next h => exact ⟨le_rfl, not_lt.1 h, .inl rfl⟩
    obtain ⟨ha, hb', hab⟩ := hge
    have hp := hb _ (List.mem_cons_self ..)
    refine ⟨?_, fun x hx => ?_⟩
    · rcases List.mem_cons.1 hm with h | h
      · rw [h]; rcases hab with h | h <;> simp [h]
      · exact List.mem_cons_of_mem _ (List.mem_cons_of_mem _ h)
    · rcases List.mem_cons.1 hx with rfl | hx
      · exact ha.trans hp
      · rcases List.mem_cons.1 hx with rfl | hx
        · exact hb'.trans hp
        · exact hb x (List.mem_cons_of_mem _ hx)

/-- R114: the site of highest yield. -/
theorem highestSite_cons (a : SiteNo × Nat) (rest : List (SiteNo × Nat)) :
    ∃ hi, highestSite (a :: rest) = some hi ∧ hi ∈ a :: rest ∧ ∀ x ∈ a :: rest, x.2 ≤ hi.2 := by
  obtain ⟨hm, hb⟩ := foldl_best (fun x : SiteNo × Nat => (x.2 : Int)) (fun best x => if best.2 < x.2 then x else best)
    (fun x y => by simp only [Nat.cast_lt]) rest a
  exact ⟨_, rfl, hm, fun x hx => by exact_mod_cast hb x hx⟩

/-- R114: the site of lowest yield. -/
theorem lowestSite_cons (a : SiteNo × Nat) (rest : List (SiteNo × Nat)) :
    ∃ lo, lowestSite (a :: rest) = some lo ∧ lo ∈ a :: rest ∧ ∀ x ∈ a :: rest, lo.2 ≤ x.2 := by
  obtain ⟨hm, hb⟩ :=
    foldl_best (fun x : SiteNo × Nat => -(x.2 : Int)) (fun best x => if x.2 < best.2 then x else best)
      (fun x y => by simp only [neg_lt_neg_iff, Nat.cast_lt]) rest a
  exact ⟨_, rfl, hm, fun x hx => by have := hb x hx; omega⟩

/-- R114: the SITE check fails when some two of the sites that enter it lie further apart than the limit. -/
theorem siteFails_isSome {p : GateProfile} {n : Nat} {sites : Vector SiteTally 8} :
    (siteFails p n sites).isSome = true
      ↔ p.siteDelta < 10000
        ∧ ∃ x ∈ qualifyingSites p n sites, ∃ y ∈ qualifyingSites p n sites, p.siteDelta < x.2 - y.2 := by
  unfold siteFails
  dsimp only
  cases hq : qualifyingSites p n sites with
  | nil => simp
  | cons a rest =>
    obtain ⟨hi, hhi, hmem, hmax⟩ := highestSite_cons a rest
    obtain ⟨lo, hlo, hmem', hmin⟩ := lowestSite_cons a rest
    rw [hhi, hlo]
    constructor
    · intro h
      split at h
      · next hd =>
        dsimp only at h
        split at h
        · next hs => exact ⟨hd.1, hi, hmem, lo, hmem', hs⟩
        · simp at h
      · simp at h
    · rintro ⟨hd, x, hx, y, hy, hxy⟩
      have hlt : p.siteDelta < hi.2 - lo.2 := by
        have := hmax x hx
        have := hmin y hy
        omega
      have hlen : 2 ≤ (a :: rest).length := by
        cases rest with
        | nil =>
          rw [List.mem_singleton] at hmem hmem'
          subst hmem hmem'
          omega
        | cons b rest => simp
      rw [if_pos ⟨hd, hlen⟩]
      dsimp only
      rw [if_pos hlt]
      rfl

/-! ### The kinds that a counted unit raises (R110) -/

/-- R113: some bin outside the good ones is above its ceiling. -/
theorem failingBin_isSome {p : GateProfile} {r : StepRec} :
    (failingBin p r).isSome = true
      ↔ ∃ b : BinNo, p.goodBins.getLsbD b.val = false ∧ p.ceilings[b] < 10000 ∧ p.ceilings[b] * r.tested < r.bins[b] * 10000 := by
  simp [failingBin, List.find?_isSome, binFails, inBins]

/-- R110: the kinds raised are those whose checks fail, in the order of the checks. -/
theorem kinds_unitRaises (p : GateProfile) (r : StepRec) (c : CellNo) (n : Nat) (a : Assignment) (site : SiteNo) :
    (unitRaises p r c n a site).map (·.1)
      = (if decide (p.minSample ≤ r.tested) && !r.waivers.yield && yieldFails p r then [HoldKind.yield] else [])
        ++ (if decide (p.minSample ≤ r.tested) && !r.waivers.bin && (failingBin p r).isSome then [HoldKind.bin] else [])
        ++ (if !r.waivers.site && (siteFails p n a.sites).isSome then [HoldKind.site] else [])
        ++ (if !r.waivers.run && runFails p a.sites[site].run then [HoldKind.run] else []) := by
  have hif (c : Prop) [Decidable c] (k : HoldKind) (d : HoldDetail) :
      (if c then [(k, d)] else []).map Prod.fst = if c then [k] else [] := by split <;> rfl
  simp only [unitRaises, List.map_append, hif]
  congr 1
  congr 1
  · congr 1
    cases hs : decide (p.minSample ≤ r.tested) && !r.waivers.bin
    · simp
    · cases failingBin p r <;> simp
  · cases hw : r.waivers.site
    · cases siteFails p n a.sites <;> simp
    · simp

/-- Settles O35: each kind is raised exactly when its check fails (`kinds_unitRaises`), and the SITE check compares the
site of highest yield with that of lowest yield, which some two sites exceed exactly when these two do. -/
theorem gateChecksAreExactComparisons : Obligations.GateChecksAreExactComparisons := by
  intro p r c sites a site raises qualifies yieldOf
  have hr : raises = _ := kinds_unitRaises p r c sites a site
  have hmem (k : HoldKind) (c : Prop) [Decidable c] (j : HoldKind) : k ∈ (if c then [j] else []) ↔ k = j ∧ c := by
    split <;> simp [*]
  simp only [hr, List.mem_append, hmem, reduceCtorEq, false_and, or_false, false_or, true_and, Bool.and_eq_true,
    Bool.not_eq_true', decide_eq_true_eq, failingBin_isSome, siteFails_isSome]
  refine ⟨?yield, ?bin, ?site, ?run⟩
  case yield => simp only [yieldFails, decide_eq_true_eq]; tauto
  case bin => tauto
  case site =>
    refine and_congr_right fun _ => and_congr_right fun _ => ?_
    constructor
    · rintro ⟨x, hx, y, hy, hxy⟩
      obtain ⟨hqx, hvx⟩ := mem_qualifyingSites.1 hx
      obtain ⟨hqy, hvy⟩ := mem_qualifyingSites.1 hy
      exact ⟨x.1, y.1, hqx, hqy, by rw [hvx, hvy] at hxy; exact hxy⟩
    · rintro ⟨hi, lo, hhi, hlo, h⟩
      exact ⟨(hi, yieldOf hi), mem_qualifyingSites.2 ⟨hhi, rfl⟩, (lo, yieldOf lo), mem_qualifyingSites.2 ⟨hlo, rfl⟩, h⟩
  case run => simp only [runFails, decide_eq_true_eq]

/-! ### Cell frames refused as protocol errors -/

/-- A cell frame whose effect is a protocol error. -/
theorem takes_refused {c : CellNo} {src : CellStation} {lot : Half} {m : CellMsg} {s : State} (h : s.TakesFrame c m.kind)
    (he : Bay.cellFrameEffect s.ctx s.newEvent.bay c src m = s.newEvent.bay.protocolError c) :
    Takes s c src lot m (s.records.setCell c (s.bay.cell c).erred) :=
  takes_of_effect h he (records_protocolError s c) (by simp)

/-- R26: the tester station sends LOADED and TSTATE, the handler station the other kinds. -/
theorem CellKind.station_ne_iff (k : CellKind) (src : CellStation) :
    k.station ≠ src ↔ (src = .tester ↔ k ≠ .loaded ∧ k ≠ .tstate) := by
  cases k <;> cases src <;> decide

theorem tempOf_none {b : Byte} (h : 2 < b.toNat) : tempOf b = none := by
  unfold tempOf
  split <;> first | omega | rfl

/-- R32, R33: READY out of range, or from a cell with work in hand. -/
theorem Bay.readyFrame_refused {x : Ctx} {b : Bay} {c : CellNo} {kit temp sites : Byte}
    (h : 2 < temp.toNat ∨ sites = 0#8 ∨ (b.cell c).state ∈ [.loading, .offered, .running]) :
    b.readyFrame x c kit temp sites = b.protocolError c := by
  unfold Bay.readyFrame
  cases ht : tempOf temp with
  | none => rfl
  | some t =>
    dsimp only
    split
    · rfl
    · next hs =>
      rcases h with h | h | h
      · rw [tempOf_none h] at ht
        cases ht
      · exact absurd h hs
      · simp only [List.mem_cons, List.not_mem_nil, or_false] at h
        rcases h with h | h | h <;> rw [h]

theorem CellRec.openOffer_of_not_offered {r : CellRec} (id : Half) (h : r.state ≠ .offered) : r.openOffer id = none :=
  if_neg h

/-- R71: the late reply to the sublot that the cell runs. -/
theorem Bay.lateReply_repeated {b : Bay} {c : CellNo} {id : Half} (h : (b.cell c).Runs id) :
    b.lateReply c id = b.protocolError c := by
  obtain ⟨hs, a, ha, hid⟩ := h
  unfold Bay.lateReply
  dsimp only
  rw [if_pos ⟨hs, by rw [ha]; simpa using hid⟩]

theorem CellRec.Runs.openOffer {r : CellRec} {id : Half} (h : r.Runs id) : r.openOffer id = none :=
  CellRec.openOffer_of_not_offered id (by rw [h.1]; decide)

theorem Bay.takeFrame_late {x : Ctx} {b : Bay} {c : CellNo} {id : Half} (h : (b.cell c).openOffer id = none) :
    b.takeFrame x c id = b.lateReply c id := by rw [Bay.takeFrame, h]

theorem Bay.declineFrame_late {x : Ctx} {b : Bay} {c : CellNo} {id : Half} (h : (b.cell c).openOffer id = none) :
    b.declineFrame x c id = b.lateReply c id := by rw [Bay.declineFrame, h]

/-- R141: a TALLY that does not match a running sublot of its cell. -/
theorem Bay.tallyFrame_refused {x : Ctx} {b : Bay} {c : CellNo} {id : Half} {bins : Vector (BitVec 24) 16}
    {missing : BitVec 24} (h : (b.cell c).state ≠ .running ∨ ∀ a, (b.cell c).assignment = some a → a.id ≠ id) :
    b.tallyFrame x c id bins missing = b.protocolError c := by
  unfold Bay.tallyFrame
  dsimp only
  split
  · rfl
  · next a ha => exact if_neg fun hm => h.elim (· hm.1) (· a ha hm.2)

/-- R96: LOADED that does not match the load. -/
theorem Bay.loadedFrame_refused {x : Ctx} {b : Bay} {c : CellNo} {program : Half} {revision slot result : Byte}
    {ld : LoadRec} (hs : (b.cell c).state = .loading) (hl : (b.cell c).load = some ld)
    (h : slot.toNat ≠ ld.slot.val ∨ program ≠ ld.image.program ∨ revision ≠ ld.image.revision) :
    b.loadedFrame x c program revision slot result = b.protocolError c := by
  unfold Bay.loadedFrame
  dsimp only
  rw [hl]
  dsimp only
  rw [if_neg (not_not.2 hs), if_pos h]

/-- R80: a TSTATE whose code names nothing, or ALTERED whose slot does. -/
theorem Bay.tstateFrame_refused {x : Ctx} {b : Bay} {c : CellNo} {code slot : Byte}
    (h : (code ≠ 1#8 ∧ code ≠ 2#8) ∨ (code = 2#8 ∧ 4 ≤ slot.toNat)) :
    b.tstateFrame x c code slot = b.protocolError c := by
  rcases h with ⟨h1, h2⟩ | ⟨rfl, hs⟩
  · have h1' : code.toNat ≠ 1 := fun e => h1 (BitVec.eq_of_toNat_eq e)
    have h2' : code.toNat ≠ 2 := fun e => h2 (BitVec.eq_of_toNat_eq e)
    unfold Bay.tstateFrame
    split
    · exact absurd ‹_› h1'
    · exact absurd ‹_› h2'
    · rfl
  · show (match indexOf 4 slot with
      | some k => b.altered x c k
      | none => b.protocolError c) = _
    rw [indexOf_none hs]

/-- Settles O27: each of these frames has the effect `protocolError`, by the lemma about its kind. -/
theorem cellFrameProtocolErrors : Obligations.CellFrameProtocolErrors := by
  intro c src lot m s hs r refused
  refine ⟨fun hw => ?wrong, ?handler, ?tester⟩
  case wrong =>
    exact takes_refused hs (if_pos ((CellKind.station_ne_iff m.kind src).2 hw))
  case handler =>
    rintro rfl
    refine ⟨?_, ?_, ?_⟩
    · rintro kit temp sites rfl h
      exact takes_refused hs (Bay.readyFrame_refused (b := s.newEvent.bay) h)
    · rintro id hm hst ha
      have hrun : (s.newEvent.bay.cell c).Runs id := ⟨hst, ha⟩
      rcases hm with rfl | rfl
      · exact takes_refused hs ((Bay.takeFrame_late hrun.openOffer).trans (Bay.lateReply_repeated hrun))
      · exact takes_refused hs ((Bay.declineFrame_late hrun.openOffer).trans (Bay.lateReply_repeated hrun))
    · rintro id bins returned missing rfl h
      exact takes_refused hs (Bay.tallyFrame_refused (b := s.newEvent.bay) h)
  case tester =>
    rintro rfl
    refine ⟨?_, ?_⟩
    · rintro program revision slot result ld rfl hst hl h
      exact takes_refused hs (Bay.loadedFrame_refused (b := s.newEvent.bay) hst hl h)
    · rintro code slot rfl h
      exact takes_refused hs (Bay.tstateFrame_refused (b := s.newEvent.bay) h)

/-! ### READY (R32) -/

theorem tempOf_code {cls : TempClass} {temp : Byte}
    (h : (cls, temp) ∈ [(TempClass.cold, 0#8), (.room, 1#8), (.hot, 2#8)]) : tempOf temp = some cls := by
  simp only [List.mem_cons, Prod.mk.injEq, List.not_mem_nil, or_false] at h
  rcases h with ⟨rfl, rfl⟩ | ⟨rfl, rfl⟩ | ⟨rfl, rfl⟩ <;> rfl

/-- READY of a CLAIMED or FAULTED cell. -/
theorem Bay.readyFrame_kept {x : Ctx} {b : Bay} {c : CellNo} {kit temp sites : Byte} {t : TempClass}
    (ht : tempOf temp = some t) (hsites : sites ≠ 0#8) (h : (b.cell c).state ∈ [.claimed, .faulted]) :
    b.readyFrame x c kit temp sites = b.modCell c fun r => r.capable kit t sites := by
  unfold Bay.readyFrame
  rw [ht]
  dsimp only
  rw [if_neg hsites]
  simp only [List.mem_cons, List.not_mem_nil, or_false] at h
  rcases h with h | h <;> rw [h]

/-- READY of a cell that may become IDLE. -/
theorem Bay.readyFrame_idle {x : Ctx} {b : Bay} {c : CellNo} {kit temp sites : Byte} {t : TempClass}
    (ht : tempOf temp = some t) (hsites : sites ≠ 0#8) (h : (b.cell c).state ∈ [.offline, .notReady, .idle, .localMode]) :
    b.readyFrame x c kit temp sites
      = ((b.modCell c fun r => { r.capable kit t sites with state := .idle }).matchCell x c).modCell c
          fun r => { r with excluded := none } := by
  unfold Bay.readyFrame
  rw [ht]
  dsimp only
  rw [if_neg hsites]
  simp only [List.mem_cons, List.not_mem_nil, or_false] at h
  rcases h with h | h | h | h <;> rw [h]

theorem Bay.matchCell_of_empty {x : Ctx} {b : Bay} (c : CellNo) (h : b.queue = []) : b.matchCell x c = b := by
  rw [Bay.matchCell, h]
  rfl

/-- Settles O30. -/
theorem readyRecordsCapability : Obligations.ReadyRecordsCapability := by
  intro c lot kit temp sites cls s hs ht hsites r r'
  have ht' := tempOf_code ht
  refine ⟨fun hst => ?kept, fun hst hq => ?idle⟩
  case kept =>
    exact takes_of_effect hs (Bay.readyFrame_kept (b := s.newEvent.bay) ht' hsites hst)
      (records_modCell s c fun r => r.capable kit cls sites) (by simp)
  case idle =>
    let b := s.newEvent.bay.modCell c fun r => { r.capable kit cls sites with state := .idle }
    have he : Bay.readyFrame s.ctx s.newEvent.bay c kit temp sites = b.modCell c fun r => { r with excluded := none } := by
      refine (Bay.readyFrame_idle (b := s.newEvent.bay) ht' hsites hst).trans ?_
      exact congrArg (Bay.modCell · c _) (Bay.matchCell_of_empty c (by simpa [b] using hq))
    refine takes_of_effect hs he ?_ ?_
    · rw [Bay.modCell_quietly rfl]
      simp only [records_bay, Bay.setCell, b, Bay.lots_modCell, Bay.cells_modCell, Bay.queue_modCell, Bay.rotation_modCell,
        Bay.nextSublot_modCell, Bay.waitQueue_modCell, Bay.releaseCounter_modCell, Bay.channels_modCell,
        Bay.cell_modCell_self, Vector.set_set]
      rfl
    · intro n hn
      split at hn
      · cases hn
      · next hi =>
        rw [List.mem_singleton] at hn
        refine Bay.mem_notices_modCell.2 (.inr (Bay.mem_notices_modCell.2 (.inl ⟨hn, fun e => hi ?_⟩)))
        exact (congrArg CellView.state e).symm

end Sys2Proof.Machine

/-!
SUPPORT. Line states, the frames that a port's check refuses, the place of an entry in the uplink queue and of a withdrawal in
a command queue, notices, and the beginning of a command's sending (R171 to R175, R178 to R186).
-/

namespace Sys2Proof.Machine

/-! ### What an event keeps of the uplink queue -/

theorem sublist_buildNotice (s : State) (n : Notice) : s.link.uplink.Sublist (s.buildNotice n).link.uplink := by
  have hexpress (t : State) (h : LotNo) (e : UpEntry) : t.link.uplink.Sublist (t.pushExpress h e).link.uplink := by
    show t.link.uplink.Sublist (t.link.uplink.take (t.link.expressPlace h) ++ e :: t.link.uplink.drop (t.link.expressPlace h))
    conv_lhs => rw [← List.take_append_drop (t.link.expressPlace h) t.link.uplink]
    exact List.Sublist.append_left (List.sublist_cons_self ..) _
  cases n with
  | lotState h => exact hexpress { s with bay := s.bay.unowe (.lotState h) } h _
  | release h => exact hexpress { s with bay := s.bay.unowe (.release h) } h _
  | cellState c => exact List.sublist_append_left ..

theorem sublist_issuePull (s : State) (k : ChanNo) : s.link.uplink.Sublist (s.issuePull k).link.uplink := by
  unfold State.issuePull
  dsimp only
  split
  · exact List.Sublist.refl _
  · exact List.sublist_append_left ..

/-- The claims of an event add to the uplink queue, and nothing where there are none. -/
theorem State.uplinkKept_event {s u : State} {q : List UpEntry} (hq : u.Quiet) (hu : u.link.uplink = q)
    (hclaims : s.Unclaimed → u.Unclaimed) : s.UplinkKept q (u.serveClaims {}).eventEnd := by
  refine ⟨?_, fun hs => ?_⟩
  · rw [uplink_eventEnd]
    exact (settle_quiet (P := fun t => q.Sublist t.link.uplink) (fun t n ht => ht.trans (sublist_buildNotice t n))
      (fun t k ht => ht.trans (sublist_issuePull t k)) (fun t k ht => ht.trans (sublist_issuePull t k)) u.claimBound u hq
      (hu ▸ List.Sublist.refl _)).1
  · rw [uplink_eventEnd, (hclaims hs).serveClaims hq, hu]

/-- An event of the part without traffic of its own: what it leaves, and what it keeps of the uplink queue. -/
theorem leavesAnd_uplinkKept {i : Instr} {s : State} {f : State → State} {r : Records} {q : List UpEntry}
    (he : exec i s = .next (runEvent f s)) (hq : (f s.newEvent).Quiet) (hr : (f s.newEvent).records = r)
    (ht : (f s.newEvent).traffic = s.traffic) (hu : (f s.newEvent).link.uplink = q)
    (hclaims : s.Unclaimed → (f s.newEvent).Unclaimed) : LeavesAnd i s r [] (s.UplinkKept q) :=
  ⟨_, he, (event_quiet hq).1.trans hr, (event_quiet hq).2.1.trans (by rw [ht, List.append_nil]), settled_event hq, by simp,
    State.uplinkKept_event hq hu hclaims⟩

/-! ### A change of one cell port -/

theorem State.records_modPort (s : State) (c : CellNo) (f : CellPort → CellPort) :
    (s.modPort c f).records = { s.records with ports := s.records.ports.set c (f s.link.ports[c]).view } := by
  simp only [State.records, State.modPort, Vector.map_set]

/-- What waits at a port and what it sends are in no record. -/
theorem State.records_modPort_same {s : State} {c : CellNo} {f : CellPort → CellPort}
    (h : (f s.link.ports[c]).view = s.link.ports[c].view) : (s.modPort c f).records = s.records := by
  rw [State.records_modPort, h]
  have hports : (s.link.ports.map CellPort.view).set c s.link.ports[c].view = s.link.ports.map CellPort.view := by
    ext i hi : 1
    simp only [Vector.getElem_set, Vector.getElem_map]
    split
    · next h => subst h; rfl
    · rfl
  exact congrArg (fun v => { s.records with ports := v }) hports

theorem State.quiet_modPort {s : State} (h : s.Quiet) {c : CellNo} {f : CellPort → CellPort}
    (hf : (f s.link.ports[c]).waiting = []) : (s.modPort c f).Quiet := by
  refine ⟨h.1, fun c' => ?_⟩
  show (s.link.ports.set c (f s.link.ports[c]))[c'].waiting = []
  rw [Fin.getElem_fin, Vector.getElem_set]
  split
  · exact hf
  · exact h.2 c'

theorem State.traffic_modPort (s : State) (c : CellNo) (f : CellPort → CellPort) : (s.modPort c f).traffic = s.traffic := rfl

/-! ### Line states (R174, R175, R186) -/

/-- Nothing arrives on a line that is down. -/
theorem leaves_of_down {s : State} {c : CellNo} (hq : s.Quiet) (hup : s.link.ports[c].up = false) (src : CellStation)
    (lot : Half) (m : CellMsg) : Leaves (m.instr c src lot) s s.records := by
  have harrive : arriveCell c (.frame src lot m) s.newEvent = s.newEvent := if_pos hup
  refine leaves_of_event (exec_instr c src lot m s) ?_ ?_ ?_ (by simp) <;> rw [harrive]
  · exact quiet_newEvent hq
  · exact records_newEvent s
  · exact traffic_newEvent s

theorem leaves_of_uplink_down {s : State} {i : Instr} (he : exec i s = .next (runUplink i s)) (hq : s.Quiet)
    (hup : s.link.uplinkUp = false) : Leaves i s s.records := by
  have harrive : arriveUplink i s.newEvent = s.newEvent := if_pos hup
  refine leaves_of_event he ?_ ?_ ?_ (by simp) <;> rw [harrive]
  · exact quiet_newEvent hq
  · exact records_newEvent s
  · exact traffic_newEvent s

theorem exec_of_isRequest {i : Instr} (h : isRequest i = true) (s : State) : exec i s = .next (runUplink i s) := by
  cases i <;> first | exact absurd h Bool.false_ne_true | rfl

theorem Link.headSending_eq (l : Link) :
    l.headSending = (decide (l.uplink ≠ []) && (l.uplinkUp || l.headCut)) := by
  unfold Link.headSending
  cases l.uplink <;> simp

/-- Settles O45: each of the three events writes line states alone, so that no claim arises by it. -/
theorem lineRecoveryAndUplinkLoss : Obligations.LineRecoveryAndUplinkLoss := by
  refine ⟨fun c s hq => ⟨?recovery, fun hup src lot m => leaves_of_down hq hup src lot m⟩,
    fun s hq => ⟨?loss, ?back, fun hup => ⟨fun i hi => ?_, fun _ _ _ _ _ _ _ => ?_, fun _ _ _ _ => ?_⟩⟩⟩
  case recovery =>
    exact leavesAnd_uplinkKept (f := recoverCellLine c) rfl
      (State.quiet_modPort (s := s.newEvent) (f := fun p => { p with up := true }) hq (hq.2 c))
      (State.records_modPort s.newEvent c _) rfl rfl id
  case loss =>
    refine leavesAnd_uplinkKept (f := loseUplink) rfl ⟨rfl, hq.2⟩ ?_ rfl rfl id
    rw [← Link.headSending_eq]
    rfl
  case back => exact leavesAnd_uplinkKept (f := recoverUplink) rfl hq rfl rfl rfl id
  · exact leaves_of_uplink_down (exec_of_isRequest hi s) hq hup
  · exact leaves_of_uplink_down rfl hq hup
  · exact leaves_of_uplink_down rfl hq hup

/-! ### Frames that a port's check refuses (R178, R179, R201) -/

/-- What a check refuses needs no claim. -/
theorem leaves_of_arrival {i : Instr} {s : State} {c : CellNo} {a : Arrival} {r : Records}
    (he : exec i s = .next (runEvent (arriveCell c a) s)) (h : s.Quiet) (hup : s.link.ports[c].up = true)
    (ha : s.takenFreely a = true) (hq : (takeArrival c a s.newEvent).Quiet) (hr : (takeArrival c a s.newEvent).records = r)
    (ht : (takeArrival c a s.newEvent).traffic = s.traffic) : Leaves i s r := by
  have harrive : arriveCell c a s.newEvent = takeArrival c a s.newEvent :=
    arriveCell_eq (quiet_newEvent h) hup (.inl ha)
  refine leaves_of_event he ?_ ?_ ?_ (by simp) <;> rw [harrive]
  · exact hq
  · exact hr
  · exact ht

/-- A frame of the uplink port that is no request and puts nothing into the traffic. -/
theorem leaves_of_uplink {i : Instr} {s : State} {r : Records} (he : exec i s = .next (runUplink i s)) (h : s.TakesUplink)
    (hi : isRequest i = false) (hq : (serveUplink i s.newEvent).Quiet) (hr : (serveUplink i s.newEvent).records = r)
    (ht : (serveUplink i s.newEvent).traffic = s.traffic) : Leaves i s r :=
  gives_of_serve he h.1 h.2 (fun hreq => absurd hreq (by rw [hi]; decide)) hq hr (by rw [ht, List.append_nil]) (by simp)

/-- R180: the state after an uplink stray. -/
theorem leaves_stray {i : Instr} {s : State} (he : exec i s = .next (runUplink i s)) (h : s.TakesUplink)
    (hi : isRequest i = false) (hs : serveUplink i s.newEvent = s.newEvent.stray) :
    Leaves i s { s.records with strays := min (s.link.strays + 1) 65535 } := by
  refine leaves_of_uplink he h hi ?_ ?_ ?_ <;> rw [hs]
  · exact h.1
  · rfl
  · rfl

/-- R91, R95: a SEGMENT for a channel without an outstanding pull, for another image, or of wrong number while it drains. -/
theorem State.segmentFor_stray {s : State} {k : ChanNo} {lot program : Half} {revision : Byte} {number : Half}
    {image : List Byte}
    (h : (s.bay.chan k).pull = none
      ∨ (∃ im, (s.bay.chan k).image = some im ∧ (im.program ≠ program ∨ im.revision ≠ revision))
      ∨ ((s.bay.chan k).state = .draining ∧ ∃ p, (s.bay.chan k).pull = some p ∧ number.toNat ≠ p.first + p.arrived)) :
    s.segmentFor k lot program revision number image = s.stray := by
  unfold State.segmentFor
  dsimp only
  split
  · next p im hp him =>
    rcases h with h | ⟨im', him', h⟩ | ⟨hd, p', hp', h⟩
    · rw [hp] at h; cases h
    · cases him.symm.trans him'
      exact if_pos h
    · cases hp.symm.trans hp'
      rw [if_neg h, if_pos hd, ite_self]
  · rfl

/-- Settles O41: each of these frames moves one count, and no claim follows from it. -/
theorem refusedFramesAndSegmentStrays : Obligations.RefusedFramesAndSegmentStrays := by
  refine ⟨fun c s hq => ?checks, fun lot channel slot program revision number image s hs hlen h => ?segment⟩
  case checks =>
    intro r p port
    refine ⟨fun hup => ⟨?_, ?_, ?_, ?_⟩, fun hup => ⟨?_, ?_⟩⟩
    · exact leaves_of_arrival (a := .checkFailure) rfl hq hup rfl
        (State.quiet_modPort (s := s.newEvent) (f := fun p => { p with checkFailures := bump16 p.checkFailures }) hq (hq.2 c))
        (State.records_modPort s.newEvent c _) rfl
    · exact leaves_of_arrival (a := .badDestination) rfl hq hup rfl
        (State.quiet_modPort (s := s.newEvent) (f := fun p => { p with destinationErrors := bump16 p.destinationErrors }) hq
          (hq.2 c))
        (State.records_modPort s.newEvent c _) rfl
    · exact leaves_of_arrival (a := .badSource) rfl hq hup rfl hq (records_protocolError s c) rfl
    · exact leaves_of_arrival (a := .badKindOrLength) rfl hq hup rfl hq (records_protocolError s c) rfl
    · exact leaves_of_uplink rfl ⟨hq, hup⟩ rfl hq rfl rfl
    · exact leaves_stray rfl ⟨hq, hup⟩ rfl rfl
  case segment =>
    refine leaves_stray rfl hs rfl ?_
    show serveSegment lot channel program revision number image s.newEvent = _
    unfold serveSegment
    rw [if_neg (by omega)]
    split
    · rfl
    · next hne =>
      rcases h with h | h | ⟨k, hk, h⟩
      · exact absurd h hne
      · rw [indexOf_none h]
      · have hchan : indexOf 8 channel = some k := by
          rw [indexOf_toNat (hk ▸ k.isLt)]
          exact congrArg some (Fin.ext hk.symm)
        rw [hchan]
        exact State.segmentFor_stray (s := s.newEvent) h

/-! ### The place of an entry in the uplink queue (R171) -/

/-- Whether an entry holds back an express entry for a lot: it is express itself, or about the lot. -/
def UpEntry.holdsBack (h : LotNo) (e : UpEntry) : Bool := e.express || e.handle = some h

theorem lotOf_eq_some {handle : Half} {h : LotNo} : lotOf handle = some h ↔ handle = BitVec.ofNat 16 h.val := by
  have hlt := h.isLt
  constructor
  · intro e
    by_cases hh : handle.toNat < 256
    · rw [lotOf_toNat hh, Option.some.injEq] at e
      subst e
      exact BitVec.eq_of_toNat_eq (by simp)
    · rw [lotOf_none (by omega)] at e
      cases e
  · rintro rfl
    have hval : (BitVec.ofNat 16 h.val).toNat = h.val := by
      rw [BitVec.toNat_ofNat]
      exact Nat.mod_eq_of_lt (by omega)
    rw [lotOf_toNat (by omega)]
    exact congrArg some (Fin.ext hval)

theorem UpEntry.holdsBack_iff {h : LotNo} {e : UpEntry} :
    e.holdsBack h = true ↔ e.express = true ∨ e.frame.lot = BitVec.ofNat 16 h.val := by
  rw [UpEntry.holdsBack, Bool.or_eq_true, decide_eq_true_eq, UpEntry.handle, lotOf_eq_some]

/-- R171: the queue up to the youngest entry that holds the new one back, and what stands behind it. -/
theorem Link.expressPlace_eq (l : Link) (h : LotNo) :
    l.expressPlace h
      = max (l.uplink.rdropWhile fun e => !e.holdsBack h).length (if l.headSending then 1 else 0) := by
  have hlen := congrArg List.length (List.rdropWhile_append_rtakeWhile (p := fun e : UpEntry => !e.holdsBack h) (l := l.uplink))
  rw [List.length_append] at hlen
  have htail : (l.uplink.reverse.takeWhile fun e => !(e.express || e.handle = some h)).length
      = (l.uplink.rtakeWhile fun e => !e.holdsBack h).length := by
    rw [List.rtakeWhile, List.length_reverse]
    rfl
  unfold Link.expressPlace
  dsimp only
  rw [htail]
  congr 1
  omega

/-- R171: what stands before the place of an express entry ends with an entry that holds it back, or is the entry being
sent alone, or nothing; and what stands behind the place holds nothing back. -/
theorem Link.expressPlace_split (l : Link) (h : LotNo) :
    (∀ x ∈ l.uplink.drop (l.expressPlace h), x.holdsBack h = false)
      ∧ ((∃ init x, l.uplink.take (l.expressPlace h) = init ++ [x] ∧ x.holdsBack h = true)
        ∨ (l.uplink.take (l.expressPlace h) = [] ∧ l.headSending = false)
        ∨ ∃ x, l.uplink.take (l.expressPlace h) = [x] ∧ l.headSending = true) := by
  have hsplit := List.rdropWhile_append_rtakeWhile (p := fun e : UpEntry => !e.holdsBack h) (l := l.uplink)
  have htail : ∀ x ∈ l.uplink.rtakeWhile (fun e => !e.holdsBack h), x.holdsBack h = false := fun x hx => by
    simpa using List.mem_rtakeWhile_imp hx
  rw [Link.expressPlace_eq]
  by_cases hne : l.uplink.rdropWhile (fun e => !e.holdsBack h) = []
  · rw [hne, List.nil_append] at hsplit
    rw [hne, List.length_nil, Nat.zero_max]
    rw [hsplit] at htail
    refine ⟨fun x hx => htail x (List.mem_of_mem_drop hx), .inr ?_⟩
    cases hs : l.headSending with
    | false => exact .inl ⟨rfl, rfl⟩
    | true =>
      have hup : l.uplink ≠ [] := by
        intro he
        rw [Link.headSending, he] at hs
        simp at hs
      obtain ⟨x, rest, hx⟩ := List.exists_cons_of_ne_nil hup
      exact .inr ⟨x, by rw [hx]; rfl, rfl⟩
  · have hpos := List.length_pos_of_ne_nil hne
    have hmax : max (l.uplink.rdropWhile fun e => !e.holdsBack h).length (if l.headSending then 1 else 0)
        = (l.uplink.rdropWhile fun e => !e.holdsBack h).length := max_eq_left (by split <;> omega)
    have hlast : ((l.uplink.rdropWhile fun e => !e.holdsBack h).getLast hne).holdsBack h = true := by
      simpa using List.rdropWhile_last_not (fun e : UpEntry => !e.holdsBack h) l.uplink hne
    rw [hmax]
    generalize l.uplink.rdropWhile (fun e => !e.holdsBack h) = front at hne hsplit hlast
    rw [← hsplit, List.drop_left, List.take_left]
    exact ⟨htail, .inl ⟨_, _, (List.dropLast_append_getLast hne).symm, hlast⟩⟩

/-! ### The place of a withdrawal in a command queue (R72) -/

theorem any_offers {q : List Command} {id : Half} : q.any (·.offers id) = true ↔ ∃ o, Command.offer o ∈ q ∧ o.id = id := by
  rw [List.any_eq_true]
  constructor
  · rintro ⟨k, hk, hid⟩
    cases k with
    | offer o => exact ⟨o, hk, of_decide_eq_true hid⟩
    | _ => exact absurd hid Bool.false_ne_true
  · rintro ⟨o, ho, hid⟩
    exact ⟨_, ho, decide_eq_true hid⟩

theorem queuedWithdraw_none {q : List Command} (h : ∀ ids, Command.withdraw ids ∉ q) : queuedWithdraw q = none := by
  refine List.findSome?_eq_none_iff.2 fun k hk => ?_
  cases k with
  | withdraw ids => exact absurd hk (h ids)
  | _ => rfl

theorem queuedWithdraw_split {before after : List Command} {ids : List (Half × Option LotNo)}
    (h : ∀ x, Command.withdraw x ∉ before) : queuedWithdraw (before ++ .withdraw ids :: after) = some ids := by
  have hnone := queuedWithdraw_none h
  unfold queuedWithdraw at hnone ⊢
  rw [List.findSome?_append, hnone]
  rfl

/-- R72: an id joins the one WITHDRAW, every command keeping its place. -/
theorem map_addToWithdraw {q : List Command} (id : Half) (lot : Option LotNo) (h : ∀ x, Command.withdraw x ∉ q) :
    q.map (addToWithdraw id lot) = q := by
  refine (List.map_congr_left fun k hk => ?_).trans (List.map_id q)
  cases k with
  | withdraw ids => exact absurd hk (h ids)
  | _ => rfl

theorem any_id {ids : List (Half × Option LotNo)} {id : Half} : ids.any (·.1 = id) = true ↔ id ∈ ids.map (·.1) := by
  simp only [List.any_eq_true, List.mem_map, decide_eq_true_eq]

/-- Settles O53. -/
theorem placementInQueues : Obligations.PlacementInQueues := by
  refine ⟨fun s h e => ?express, fun q id lot => ⟨fun ho => ?offer, fun ho => ⟨fun hw => ?tail, ?join⟩⟩⟩
  case express =>
    intro about
    have habout (x : UpEntry) : x.holdsBack h = true ↔ about x := UpEntry.holdsBack_iff
    obtain ⟨hafter, hbefore⟩ := s.link.expressPlace_split h
    refine ⟨_, _, (List.take_append_drop (s.link.expressPlace h) s.link.uplink).symm, rfl, fun x hx ha => ?_, ?_⟩
    · exact absurd ((habout x).2 ha) (by rw [hafter x hx]; decide)
    · exact hbefore.imp_left fun ⟨init, x, hx, ha⟩ => ⟨init, x, hx, (habout x).1 ha⟩
  case offer => exact if_pos (any_offers.2 ho)
  all_goals
    have hno : ¬q.any (·.offers id) = true := fun hany => by
      obtain ⟨o, hm, hid⟩ := any_offers.1 hany
      exact ho o hm hid
  case tail => rw [placeWithdraw, if_neg hno, queuedWithdraw_none hw]
  case join =>
    rintro before ids after rfl hbefore hafter
    rw [placeWithdraw, if_neg hno, queuedWithdraw_split hbefore]
    refine ⟨fun hid => if_pos (any_id.2 hid), fun hid hlen => ?_, fun hid hlen => ?_⟩ <;>
      dsimp only <;> rw [if_neg (mt any_id.1 hid)]
    · rw [if_pos hlen, List.map_append, List.map_cons, map_addToWithdraw id lot hbefore, map_addToWithdraw id lot hafter]
      rfl
    · rw [if_neg (by omega)]

/-! ### Notices (R172, R173) -/

theorem State.nextNotice_head {s : State} {n : Notice} {rest : List Notice} (hn : s.bay.notices = n :: rest) (hf : 1 ≤ s.free)
    (he : ∀ e ∈ s.link.uplink, e.origin ≠ n.origin) : s.nextNotice = some n := by
  have helig : s.eligible n = true := by
    rw [State.eligible, Bool.not_eq_true']
    exact List.any_eq_false.2 fun e hm => by simpa using he e hm
  rw [State.nextNotice, if_pos hf, hn, List.find?_cons_of_pos helig]

/-- A notice that has been built, and is owed no more, stays so as its event ends. -/
theorem event_built {u : State} {n : Notice} {e : UpEntry} (hq : u.Quiet) (hn : n ∉ u.bay.notices) (he : e ∈ u.link.uplink) :
    n ∉ (u.serveClaims {}).eventEnd.bay.notices ∧ e ∈ (u.serveClaims {}).eventEnd.link.uplink := by
  have hissue (t : State) (k : ChanNo) (h : n ∉ t.bay.notices ∧ e ∈ t.link.uplink) :
      n ∉ (t.issuePull k).bay.notices ∧ e ∈ (t.issuePull k).link.uplink := by
    refine ⟨?_, (sublist_issuePull t k).subset h.2⟩
    unfold State.issuePull
    dsimp only
    split <;> exact h.1
  have hbuild (t : State) (m : Notice) (h : n ∉ t.bay.notices ∧ e ∈ t.link.uplink) :
      n ∉ (t.buildNotice m).bay.notices ∧ e ∈ (t.buildNotice m).link.uplink := by
    refine ⟨?_, (sublist_buildNotice t m).subset h.2⟩
    rw [notices_buildNotice]
    exact fun hm => h.1 (List.mem_of_mem_filter hm)
  have := (settle_quiet (P := fun t => n ∉ t.bay.notices ∧ e ∈ t.link.uplink) hbuild hissue hissue u.claimBound u hq
    ⟨hn, he⟩).1
  exact ⟨this.1, by rw [uplink_eventEnd]; exact this.2⟩

/-- R172: the row of a notice's kind builds the notice at the head of the list. -/
theorem built_of_head {i : Instr} {s : State} {n : Notice} {rest : List Notice} {f : Notice → Bool}
    (he : exec i s = .next (runEvent (buildIf f) s)) (hq : s.Quiet) (hn : s.bay.notices = n :: rest) (hfree : 1 ≤ s.free)
    (hu : ∀ e ∈ s.link.uplink, e.origin ≠ n.origin) (hf : f n = true) :
    ∃ t, exec i s = .next t ∧ t.records = s.records ∧ t.traffic = s.traffic ∧ n ∉ t.bay.notices
      ∧ noticeEntry s n ∈ t.link.uplink ∧ t.Settled := by
  have hnext : s.newEvent.nextNotice = some n := State.nextNotice_head (s := s.newEvent) hn hfree hu
  have hb : buildIf f s.newEvent = s.newEvent.buildNotice n := by
    rw [buildIf, hnext]
    exact if_pos hf
  have hquiet : (s.newEvent.buildNotice n).Quiet := quiet_buildNotice (s := s.newEvent) hq n
  have hnot : n ∉ (s.newEvent.buildNotice n).bay.notices := by rw [notices_buildNotice]; simp
  obtain ⟨h1, h2⟩ := event_built hquiet hnot (mem_buildNotice.2 (.inl rfl))
  refine ⟨_, by rw [he, runEvent, hb], ?_, ?_, h1, h2, settled_event hquiet⟩
  · exact (event_quiet hquiet).1.trans (records_buildNotice s.newEvent n)
  · exact (event_quiet hquiet).2.1.trans (traffic_buildNotice s.newEvent n)

/-- Settles O52. -/
theorem noticesBuilt : Obligations.NoticesBuilt := by
  intro n rest s hq hn hfree hu frame built
  refine ⟨?_, ?_, ?_⟩
  · rintro h rfl
    exact built_of_head rfl hq hn hfree hu rfl
  · rintro c rfl
    exact built_of_head rfl hq hn hfree hu rfl
  · rintro h r rfl hr
    have hentry : noticeEntry s (.release h)
        = ⟨.release h, frame 0x34#8 (BitVec.ofNat 16 h.val) (releaseBytes r)⟩ := by
      show (⟨.release h, frame 0x34#8 (BitVec.ofNat 16 h.val) (((s.bay.lot h).release.map releaseBytes).getD [])⟩ : UpEntry) = _
      rw [hr]
      rfl
    have := built_of_head (i := .releaseNotice) (f := Notice.isRelease) rfl hq hn hfree hu rfl
    rwa [hentry] at this

/-! ### A command's sending begins (R184, R185) -/

theorem Tx.maybeFree_iff (t : Tx) : t.maybeFree = true ↔ t.command ≠ none ∨ (t.segment = none ∧ t.copy = false) := by
  simp [Tx.maybeFree, Option.isSome_iff_ne_none]

/-- What a port does as an event ends takes no command from it. -/
theorem Tx.command_settled (b : Bay) (c : CellNo) (t : Tx) : (t.settled b c).command = t.command := by
  unfold Tx.settled
  split
  · rfl
  · split
    · split <;> rfl
    · rfl

theorem Tx.command_begun (b : Bay) (p : Half) (c : CellNo) (port : CellPort) (t : Tx) :
    (t.begun b p c port).command = t.command := by
  unfold Tx.begun
  split
  · split
    · split <;> rfl
    · split <;> rfl
  · rfl

theorem State.command_eventEnd (s : State) (c : CellNo) :
    s.eventEnd.link.ports[c].tx.command = s.link.ports[c].tx.command := by
  simp only [State.eventEnd, State.newEvent, State.portsAfter, Fin.getElem_fin, Vector.getElem_ofFn, Tx.command_begun,
    Tx.command_settled]

theorem ports_serveClaims {u : State} (hq : u.Quiet) : (u.serveClaims {}).link.ports = u.link.ports :=
  (settle_quiet (P := fun t => t.link.ports = u.link.ports) (fun t n ht => (t.ports_buildNotice n).trans ht)
    (fun t k ht => (t.ports_issuePull k).trans ht) (fun t k ht => (t.ports_issuePull k).trans ht) u.claimBound u hq rfl).1

/-- The state as the sending of a command begins. -/
def State.sending (s : State) (c : CellNo) (k : Command) (rest : List Command) : State :=
  (s.onBay fun _ b => b.modCell c fun r => { r with commands := rest }).modPort c fun p =>
    { p with tx := { command := some (commandFrame s.part.station c k) } }

theorem beginCommand_of_head {s : State} {c : CellNo} {k : Command} {rest : List Command}
    (hk : (s.bay.cell c).commands = k :: rest) (hup : s.link.ports[c].up = true) (hf : s.link.ports[c].tx.maybeFree = true) :
    beginCommand c s = s.sending c k rest := by
  unfold beginCommand
  dsimp only
  rw [hk]
  dsimp only
  rw [hup, hf]
  rfl

theorem beginCommand_none {s : State} {c : CellNo} (h : (s.bay.cell c).commands = [] ∨ s.link.ports[c].up = false) :
    beginCommand c s = s := by
  unfold beginCommand
  dsimp only
  split
  · rfl
  · next k rest hk =>
    rcases h with h | h
    · rw [h] at hk; cases hk
    · rw [h]; rfl

theorem records_sending (s : State) (c : CellNo) (k : Command) (rest : List Command) :
    (s.newEvent.sending c k rest).records = s.records.setCell c { s.bay.cell c with commands := rest } := by
  exact (State.records_modPort_same rfl).trans (records_modCell s c fun r => { r with commands := rest })

/-- R184: the command at the head of a cell's queue goes out as its frame. -/
theorem sending_begins {s : State} {c : CellNo} {k : Command} {rest : List Command} (hq : s.Quiet)
    (hk : (s.bay.cell c).commands = k :: rest) (hup : s.link.ports[c].up = true) (hf : s.link.ports[c].tx.maybeFree = true) :
    ∃ t, exec (.commandSendingBegins c) s = .next t
      ∧ t.records = s.records.setCell c { s.bay.cell c with commands := rest } ∧ t.traffic = s.traffic
      ∧ t.link.ports[c].tx.command = some (commandFrame s.part.station c k) := by
  have hb : beginCommand c s.newEvent = s.newEvent.sending c k rest := beginCommand_of_head (s := s.newEvent) hk hup hf
  have hquiet : (s.newEvent.sending c k rest).Quiet :=
    State.quiet_modPort (s := s.newEvent.onBay fun _ b => b.modCell c fun r => { r with commands := rest })
      (f := fun p => { p with tx := { command := some (commandFrame s.part.station c k) } }) hq (hq.2 c)
  refine ⟨((s.newEvent.sending c k rest).serveClaims {}).eventEnd, ?_, ?_, (event_quiet hquiet).2.1, ?_⟩
  · show Host.Outcome.next _ = _
    rw [runEvent, hb]
  · exact (event_quiet hquiet).1.trans (records_sending s c k rest)
  · rw [State.command_eventEnd, ports_serveClaims hquiet]
    show (s.link.ports.set c _)[c].tx.command = _
    rw [Fin.getElem_fin, Vector.getElem_set_self]
    rfl

theorem beBytes_one (n : Nat) : beBytes 1 n = [BitVec.ofNat 8 n] := by simp [beBytes]

/-- Table 11-4: the frame of an OFFER. -/
theorem commandFrame_offer (p : Half) (c : CellNo) (o : Offer) :
    commandFrame p c (.offer o)
      = { dst := handlerStation p c, src := p, kind := 0x11#8, lot := BitVec.ofNat 16 o.lot.val, descriptor := []
          payload :=
            bytes16 o.id ++ beBytes 1 o.step ++ beBytes 2 o.qty ++ bytes16 o.program
              ++ [o.revision, BitVec.ofNat 8 o.slot.val, tempCode o.temp] } := by
  simp [commandFrame, Command.fields, beBytes_one o.slot.val]

/-- R200: a WITHDRAW whose ids are of one lot carries its handle. -/
theorem withdrawHandle_of_one {ids : List (Half × Option LotNo)} {lot : LotNo} (hne : ids ≠ [])
    (h : ∀ x ∈ ids, x.2 = some lot) : withdrawHandle ids = BitVec.ofNat 16 lot.val := by
  cases ids with
  | nil => exact absurd rfl hne
  | cons a rest =>
    obtain ⟨id, l⟩ := a
    have hl : l = some lot := h _ List.mem_cons_self
    subst hl
    exact if_pos (List.all_eq_true.2 fun x hx => decide_eq_true (h x (List.mem_cons_of_mem _ hx)))


/-- Settles O51: the command leaves its queue and stands at the port as the frame that Table 11-4 gives it. -/
theorem commandSendingBegins : Obligations.CommandSendingBegins := by
  intro c k rest s hq r p handler sent
  have hidle (h : (s.bay.cell c).commands = [] ∨ s.link.ports[c].up = false) :
      Leaves (.commandSendingBegins c) s s.records := by
    have hb : beginCommand c s.newEvent = s.newEvent := beginCommand_none (s := s.newEvent) h
    refine leaves_of_event (f := beginCommand c) rfl ?_ ?_ ?_ (by simp) <;> rw [hb]
    · exact hq
    · rfl
    · rfl
  refine ⟨fun h => hidle (.inl h), fun h => hidle (.inr h), fun hk hup hfree => ?_⟩
  have hsent := sending_begins hq hk hup ((Tx.maybeFree_iff _).2 hfree)
  have hframe {dst : Half} {kind : Byte} {lot : Half} {payload : List Byte}
      (h : commandFrame s.part.station c k
        = { dst := dst, src := s.part.station, kind := kind, lot := lot, descriptor := [], payload := payload }) :
      sent dst kind lot payload := by rw [h] at hsent; exact hsent
  refine ⟨?_, ?_, ?_, ?_, ?_, ?_⟩
  · rintro o rfl
    exact hframe (commandFrame_offer _ c o)
  · rintro ids lot rfl hne hids
    refine hframe ?_
    rw [← withdrawHandle_of_one hne hids]
    rfl
  · rintro id lot rfl
    exact hframe rfl
  · rintro id lot rfl
    exact hframe rfl
  · rintro id lot rfl
    exact hframe rfl
  · rintro rfl
    exact hframe rfl

end Sys2Proof.Machine

/-!
SUPPORT. Byte strings field by field: where a field stands in data that is put together from fields, the big-endian fields as
they are read again, a frame as it is parsed from its bytes, and the data of the reads (R24, R43, R193, chapter 11).
-/

namespace Sys2Proof.Machine

/-! ### Lengths of fields -/

@[simp] theorem length_beBytes : ∀ n v : Nat, (beBytes n v).length = n
  | 0, _ => rfl
  | n + 1, v => by simp [beBytes, length_beBytes n v]

@[simp] theorem length_signedBytes (n : Nat) (v : Int) : (signedBytes n v).length = n := length_beBytes n _

@[simp] theorem length_bytes16 (x : Half) : (bytes16 x).length = 2 := by simp [bytes16]

@[simp] theorem length_bytes24 (x : BitVec 24) : (bytes24 x).length = 3 := by simp [bytes24]

@[simp] theorem length_bytes32 (x : BitVec 32) : (bytes32 x).length = 4 := by simp [bytes32]

@[simp] theorem length_padTo (n : Nat) (bs : List Byte) : (padTo n bs).length = n := by
  simp [padTo]

@[simp] theorem length_slotsOf (n w : Nat) (entries : List (List Byte)) : (slotsOf n w entries).length = n * w :=
  length_padTo ..

@[simp] theorem length_cellSet (f : CellNo → Bool) : (cellSet f).length = 4 := length_beBytes ..

theorem length_flatMap_const {α : Type} {f : α → List Byte} {w : Nat} (hf : ∀ x, (f x).length = w) (l : List α) :
    (l.flatMap f).length = l.length * w := by
  simp [List.length_flatMap, hf, List.map_const', List.sum_replicate]

/-! ### Where a field stands -/

/-- A field stands where what precedes it ends. -/
theorem fieldAt_of_split {data front field back : List Byte} {place : Nat} (h : data = front ++ (field ++ back))
    (hp : front.length = place) : FieldAt data place field := by
  subst h hp
  simp [FieldAt]

@[simp] theorem fieldAt_self (field : List Byte) : FieldAt field 0 field := by simp [FieldAt]

@[simp] theorem fieldAt_zero (field back : List Byte) : FieldAt (field ++ back) 0 field := by simp [FieldAt]

/-- A field that begins as the data does. -/
@[simp] theorem fieldAt_zero_append (a field back : List Byte) : FieldAt (a ++ back) 0 (a ++ field) ↔ FieldAt back 0 field := by
  rw [FieldAt, FieldAt, List.drop_zero, List.drop_zero, List.length_append, List.take_length_add_append,
    List.append_cancel_left_eq]

@[simp] theorem fieldAt_zero_cons (a : Byte) (field back : List Byte) : FieldAt (a :: back) 0 (a :: field) ↔ FieldAt back 0 field :=
  fieldAt_zero_append [a] field back

/-- A field that stands behind the first part of the data. -/
@[simp] theorem fieldAt_append {a b : List Byte} {place : Nat} (field : List Byte) (h : a.length ≤ place) :
    FieldAt (a ++ b) place field ↔ FieldAt b (place - a.length) field := by
  rw [FieldAt, FieldAt, List.drop_append, List.drop_of_length_le h, List.nil_append]

@[simp] theorem fieldAt_cons (a : Byte) (b field : List Byte) (place : Nat) :
    FieldAt (a :: b) (place + 1) field ↔ FieldAt b place field := Iff.rfl

/-- The same for a place with an offset into an array. -/
theorem fieldAt_append_add {a b : List Byte} {place : Nat} (offset : Nat) (field : List Byte) (h : a.length ≤ place) :
    FieldAt (a ++ b) (place + offset) field ↔ FieldAt b (place - a.length + offset) field := by
  rw [fieldAt_append field (by omega)]
  congr! 1
  omega

/-- A field of the first part of the data. -/
theorem FieldAt.append {a field : List Byte} {place : Nat} (h : FieldAt a place field) (hp : place + field.length ≤ a.length)
    (b : List Byte) : FieldAt (a ++ b) place field := by
  rw [FieldAt] at h ⊢
  rw [List.drop_append_of_le_length (by omega), List.take_append_of_le_length (by rw [List.length_drop]; omega), h]

/-- A field at the head of a field. -/
theorem FieldAt.head {data a b : List Byte} {place : Nat} (h : FieldAt data place (a ++ b)) : FieldAt data place a := by
  rw [FieldAt] at h ⊢
  have := congrArg (List.take a.length) h
  rwa [List.take_take, List.length_append, Nat.min_eq_left (Nat.le_add_right ..), List.take_left] at this

theorem split_at_getElem {α : Type} {l : List α} {i : Nat} (hi : i < l.length) : l = l.take i ++ l[i] :: l.drop (i + 1) := by
  rw [← List.drop_eq_getElem_cons hi, List.take_append_drop]

/-- An element of a list whose elements take `w` bytes each. -/
theorem fieldAt_flatMap {α : Type} {f : α → List Byte} {w : Nat} (hf : ∀ x, (f x).length = w) {l : List α} {i : Nat} {x : α}
    (hx : l[i]? = some x) (back : List Byte) : FieldAt (l.flatMap f ++ back) (w * i) (f x) := by
  obtain ⟨hi, rfl⟩ := List.getElem?_eq_some_iff.1 hx
  refine fieldAt_of_split (front := (l.take i).flatMap f) (back := (l.drop (i + 1)).flatMap f ++ back) ?_ ?_
  · conv_lhs => rw [split_at_getElem hi, List.flatMap_append, List.flatMap_cons]
    simp only [List.append_assoc]
  · rw [length_flatMap_const hf, List.length_take_of_le hi.le, Nat.mul_comm]

/-- An entry of a list of slots, which holds as many bytes as it has slots for. -/
theorem fieldAt_slotsOf {n w i : Nat} {entries : List (List Byte)} {e : List Byte} (hw : ∀ x ∈ entries, x.length = w)
    (hn : i < n) (he : entries[i]? = some e) (back : List Byte) : FieldAt (slotsOf n w entries ++ back) (w * i) e := by
  obtain ⟨hi, rfl⟩ := List.getElem?_eq_some_iff.1 he
  have hlen : ((entries.take i).flatten).length = w * i := by
    rw [List.length_flatten, List.map_eq_replicate_iff.2 fun x hx => hw x (List.mem_of_mem_take hx), List.sum_replicate,
      List.length_take_of_le hi.le, smul_eq_mul, Nat.mul_comm]
  have hsplit : entries.flatten = (entries.take i).flatten ++ (entries[i] ++ (entries.drop (i + 1)).flatten) := by
    conv_lhs => rw [split_at_getElem hi, List.flatten_append, List.flatten_cons]
  have hin : w * i + (entries[i]).length ≤ n * w := by
    rw [hw _ (List.getElem_mem hi), ← Nat.mul_succ, Nat.mul_comm n]
    exact Nat.mul_le_mul_left _ hn
  refine FieldAt.append ?_ (by rw [length_slotsOf]; exact hin) back
  have hfield : FieldAt (entries.flatten ++ List.replicate (n * w) 0#8) (w * i) entries[i] :=
    fieldAt_of_split (front := (entries.take i).flatten) (back := (entries.drop (i + 1)).flatten ++ List.replicate (n * w) 0#8)
      (by rw [hsplit]; simp) hlen
  rw [FieldAt] at hfield ⊢
  rw [slotsOf, padTo, List.drop_take, List.take_take, Nat.min_eq_left (by omega), hfield]

/-! ### Fields as they are read again (section 11.1) -/

/-- Two neighbouring parts of a value, put together. -/
theorem extract_append {w start k len len' : Nat} (x : BitVec w) (h : k = start + len) :
    x.extractLsb' k len' ++ x.extractLsb' start len = x.extractLsb' start (len' + len) :=
  BitVec.extractLsb'_append_extractLsb'_eq_extractLsb' h

theorem halfAt_bytes16 (x : Half) (rest : List Byte) : halfAt (bytes16 x ++ rest) 0 = x := by
  show x.extractLsb' 8 8 ++ x.extractLsb' 0 8 = x
  rw [extract_append x (start := 0) (k := 8) rfl, BitVec.extractLsb'_eq_self]

theorem word24At_bytes24 (x : BitVec 24) (rest : List Byte) : word24At (bytes24 x ++ rest) 0 = x := by
  show x.extractLsb' 16 8 ++ (x.extractLsb' 8 8 ++ x.extractLsb' 0 8) = x
  rw [extract_append x (start := 0) (k := 8) rfl, extract_append x (start := 0) (k := 16) rfl, BitVec.extractLsb'_eq_self]

theorem word32At_bytes32 (x : BitVec 32) (rest : List Byte) : word32At (bytes32 x ++ rest) 0 = x := by
  show (x.extractLsb' 24 8 ++ x.extractLsb' 16 8) ++ (x.extractLsb' 8 8 ++ x.extractLsb' 0 8) = x
  rw [extract_append x (start := 16) (k := 24) rfl, extract_append x (start := 0) (k := 8) rfl,
    extract_append x (start := 0) (k := 16) rfl, BitVec.extractLsb'_eq_self]

/-! ### Cell messages (Table 11-3) -/

/-- The bytes of a field that stands at a place. -/
theorem byteAt_of_fieldAt {data field : List Byte} {place j : Nat} (h : FieldAt data place field) (hj : j < field.length) :
    byteAt data (place + j) = byteAt field j := by
  have := congrArg (fun l => l.getD j 0#8) h
  simpa [byteAt, List.getD_eq_getElem?_getD, List.getElem?_take, List.getElem?_drop, hj] using this

theorem halfAt_of_fieldAt {data : List Byte} {place : Nat} {x : Half} (h : FieldAt data place (bytes16 x)) :
    halfAt data place = x := by
  have h0 : byteAt data place = _ := byteAt_of_fieldAt h (j := 0) (by simp)
  rw [halfAt, h0, byteAt_of_fieldAt h (j := 1) (by simp)]
  exact halfAt_bytes16 x []

theorem word24At_of_fieldAt {data : List Byte} {place : Nat} {x : BitVec 24} (h : FieldAt data place (bytes24 x)) :
    word24At data place = x := by
  have h0 : byteAt data place = _ := byteAt_of_fieldAt h (j := 0) (by simp)
  rw [word24At, h0, byteAt_of_fieldAt h (j := 1) (by simp), byteAt_of_fieldAt h (j := 2) (by simp)]
  exact word24At_bytes24 x []

theorem CellMsg.length_payload (m : CellMsg) : m.payload.length = m.kind.length := by
  cases m with
  | tally id bins returned missing =>
    simp [CellMsg.payload, CellMsg.kind, CellKind.length, length_flatMap_const length_bytes24]
  | _ => rfl

/-- A message is read from its payload as it is. -/
theorem decodeCellMsg_payload (m : CellMsg) : decodeCellMsg m.kind m.payload = m := by
  have hid (id : Half) (rest : List Byte) := halfAt_bytes16 id rest
  cases m with
  | ready kit temp sites => rfl
  | take id => exact congrArg CellMsg.take (hid id [])
  | decline id => exact congrArg CellMsg.decline (hid id [])
  | unit id site bin seq =>
    have hseq := word32At_bytes32 seq []
    exact congrArg₂ (fun i q => CellMsg.unit i site bin q) (hid id _) hseq
  | tally id bins returned missing =>
    have hpay : (CellMsg.tally id bins returned missing).payload
        = bytes16 id ++ (bins.toList.flatMap bytes24 ++ (bytes24 returned ++ bytes24 missing)) := by
      simp [CellMsg.payload]
    have hlen : (bins.toList.flatMap bytes24).length = 48 := by simp [length_flatMap_const length_bytes24]
    have hbins (i : Fin 16) : word24At (CellMsg.tally id bins returned missing).payload (2 + 3 * i.val) = bins[i] := by
      refine word24At_of_fieldAt ?_
      rw [hpay, fieldAt_append_add _ _ (by simp)]
      have := fieldAt_flatMap length_bytes24 (l := bins.toList) (i := i.val) (x := bins[i]) (by simp)
        (bytes24 returned ++ bytes24 missing)
      simpa using this
    have hreturned : word24At (CellMsg.tally id bins returned missing).payload 50 = returned := by
      refine word24At_of_fieldAt ?_
      rw [hpay]
      exact fieldAt_of_split (front := bytes16 id ++ bins.toList.flatMap bytes24) (List.append_assoc ..).symm (by simp [hlen])
    have hmissing : word24At (CellMsg.tally id bins returned missing).payload 53 = missing := by
      refine word24At_of_fieldAt ?_
      rw [hpay]
      exact fieldAt_of_split (front := bytes16 id ++ (bins.toList.flatMap bytes24 ++ bytes24 returned)) (back := [])
        (by simp) (by simp [hlen])
    have hvector : (Vector.ofFn fun i : Fin 16 => word24At (CellMsg.tally id bins returned missing).payload (2 + 3 * i.val)) = bins := by
      ext i hi : 1
      rw [Vector.getElem_ofFn]
      exact hbins ⟨i, hi⟩
    show CellMsg.tally (halfAt (CellMsg.tally id bins returned missing).payload 0) (Vector.ofFn _) _ _ = _
    rw [hvector, hreturned, hmissing, hpay, hid]
  | paused id => exact congrArg CellMsg.paused (hid id [])
  | state mode alarm => exact congrArg (CellMsg.state mode) (hid alarm [])
  | loaded program revision slot result => exact congrArg (fun p => CellMsg.loaded p revision slot result) (hid program _)
  | tstate code slot => rfl

/-! ### Cell frames (R178, R179, R200, R201) -/

/-- A frame without a descriptor is read from its bytes as it is. -/
theorem parseFrame_bytes {f : Frame} (hk : f.kind ≠ kindSegment) (hd : f.descriptor = []) (hl : f.payload.length ≤ 1024) :
    parseFrame f.bytes = some f := by
  obtain ⟨dst, src, kind, lot, descriptor, payload⟩ := f
  subst hd
  have hbytes : ∃ check, check.length = 4 ∧ (Frame.mk dst src kind lot [] payload).bytes
      = bytes16 dst ++ (bytes16 src ++ ([kind] ++ (bytes16 lot ++ (bytes16 (BitVec.ofNat 16 payload.length)
          ++ (payload ++ check))))) :=
    ⟨_, length_bytes32 (crc32 (Frame.mk dst src kind lot [] payload).body), by simp [Frame.bytes, Frame.body]⟩
  obtain ⟨check, hcheck, hbytes⟩ := hbytes
  unfold parseFrame
  dsimp only
  generalize hbs : (Frame.mk dst src kind lot [] payload).bytes = bs at hbytes
  have hdst : halfAt bs 0 = dst := halfAt_of_fieldAt (hbytes ▸ fieldAt_zero ..)
  have hsrc : halfAt bs 2 = src := halfAt_of_fieldAt (fieldAt_of_split hbytes rfl)
  have hkind : byteAt bs 4 = kind := by rw [hbytes]; rfl
  have hlot : halfAt bs 5 = lot :=
    halfAt_of_fieldAt (fieldAt_of_split (front := bytes16 dst ++ (bytes16 src ++ [kind])) hbytes rfl)
  have hlength : (halfAt bs 7).toNat = payload.length := by
    have hfield : halfAt bs 7 = _ := halfAt_of_fieldAt
      (fieldAt_of_split (front := bytes16 dst ++ (bytes16 src ++ ([kind] ++ bytes16 lot))) hbytes rfl)
    rw [hfield, BitVec.toNat_ofNat, Nat.mod_eq_of_lt (lt_of_le_of_lt hl (by decide))]
  have hpayload : (bs.drop 9).take payload.length = payload :=
    fieldAt_of_split
      (front := bytes16 dst ++ (bytes16 src ++ ([kind] ++ (bytes16 lot ++ bytes16 (BitVec.ofNat 16 payload.length)))))
      hbytes rfl
  have hlen : bs.length = 9 + 0 + payload.length + 4 := by
    rw [hbytes]
    simp [hcheck]
    omega
  rw [hkind, if_neg hk, hlength, hdst, hsrc, hlot, Nat.add_zero, hpayload, List.take_zero]
  exact if_pos ⟨hl, hlen, hbs.symm⟩

theorem CellKind.code_ne_segment (k : CellKind) : k.code ≠ kindSegment := by
  cases k <;> decide

theorem testerStation_ne_handlerStation (p : Half) (c : CellNo) : testerStation p c ≠ handlerStation p c := by
  intro h
  have := congrArg BitVec.toNat (add_left_cancel h)
  have := c.isLt
  simp only [BitVec.toNat_ofNat] at *
  omega

/-- Settles O60: the bytes parse as the frame, whose source is a station of the cell, and its payload spells the message. -/
theorem cellFramesReadAsSent : Obligations.CellFramesReadAsSent := by
  intro p c src lot m
  have hshort : m.payload.length ≤ 1024 := by
    rw [CellMsg.length_payload m]
    cases m <;> exact of_decide_eq_true rfl
  unfold decodeCellFrame
  rw [parseFrame_bytes (f := cellFrame p c src lot m) (CellKind.code_ne_segment m.kind) rfl hshort]
  dsimp only [cellFrame]
  have hstation : ¬(cellStation p c src ≠ handlerStation p c ∧ cellStation p c src ≠ testerStation p c) := by
    cases src <;> simp [cellStation]
  have hsrc : (if cellStation p c src = handlerStation p c then CellStation.handler else .tester) = src := by
    cases src
    · exact if_pos rfl
    · exact if_neg (testerStation_ne_handlerStation p c)
  rw [if_neg hstation, if_neg (not_not.2 rfl), CellKind.ofCode_code]
  dsimp only
  rw [if_neg (not_not.2 (CellMsg.length_payload m)), decodeCellMsg_payload, hsrc]

/-! ### The data of LOT.READ (Table 11-11) -/

@[simp] theorem length_stepRecBytes (r : StepRec) : (stepRecBytes r).length = 73 := by
  simp [stepRecBytes, length_flatMap_const (length_beBytes 3)]

@[simp] theorem length_holdDetailBytes (d : HoldDetail) : d.bytes.length = 8 := length_padTo 8 _

@[simp] theorem length_holdEntryBytes (e : HoldEntry) : e.bytes.length = 18 := by
  simp only [HoldEntry.bytes, List.length_append, length_beBytes, length_holdDetailBytes, List.length_cons, List.length_nil]

theorem length_lotReadBytes (l : LotRec) : (lotReadBytes l).length = 792 := by
  unfold lotReadBytes
  simp only [List.length_append, length_beBytes, length_padTo, length_slotsOf, length_bytes32, List.length_cons, List.length_nil]

theorem lotRead_fields (l : LotRec) :
    FieldAt (lotReadBytes l) 1 ([l.state.code, savedCode l.saved] ++ beBytes 1 l.name.length)
    ∧ FieldAt (lotReadBytes l) 22
      (beBytes 1 (l.stepIndex.getD 0) ++ beBytes 3 l.startQty ++ beBytes 3 l.carried ++ beBytes 3 l.remaining)
    ∧ FieldAt (lotReadBytes l) 32 (beBytes 1 l.openSublots ++ beBytes 6 l.queuedAt ++ beBytes 6 (l.completedAt.getD 0))
    ∧ FieldAt (lotReadBytes l) 45
      (beBytes 6 (l.quarantine.getD 0) ++ bytes32 l.stamp ++ [leadingCode l] ++ beBytes 1 l.route.length)
    ∧ FieldAt (lotReadBytes l) 537 (beBytes 1 l.holds.length) := by
  unfold lotReadBytes
  simp only [LotRec.openIndex, List.append_assoc, List.cons_append, List.nil_append, fieldAt_append, fieldAt_cons,
    fieldAt_zero_append, fieldAt_zero_cons, fieldAt_zero, length_beBytes, length_padTo, length_slotsOf, length_bytes32,
    Nat.reduceLeDiff, Nat.reduceSub, Nat.reduceMul, and_self]

/-- Table 11-12: a step record in the data of LOT.READ. -/
theorem lotRead_step (l : LotRec) {k : Nat} {r : StepRec} (hk : k < 6) (hr : l.steps[k]? = some r) :
    FieldAt (lotReadBytes l) (99 + 73 * k) (stepRecBytes r) := by
  have hstep := fieldAt_slotsOf (n := 6) (entries := l.steps.map stepRecBytes)
    (fun x hx => by obtain ⟨y, -, rfl⟩ := List.mem_map.1 hx; exact length_stepRecBytes y) hk
    (by rw [List.getElem?_map, hr]; rfl)
  unfold lotReadBytes
  simp only [List.append_assoc, fieldAt_append_add, length_beBytes, length_padTo, length_slotsOf, length_bytes32,
    List.length_cons, List.length_nil, Nat.reduceLeDiff, Nat.reduceSub, Nat.reduceMul, Nat.reduceAdd, Nat.zero_add, hstep]

/-- Table 11-13: a hold entry in the data of LOT.READ. -/
theorem lotRead_hold (l : LotRec) {k : Nat} {e : HoldEntry} (hk : k < 8) (he : l.holds[k]? = some e) :
    FieldAt (lotReadBytes l) (538 + 18 * k) e.bytes := by
  have hentry := fieldAt_slotsOf (n := 8) (entries := l.holds.map HoldEntry.bytes)
    (fun x hx => by obtain ⟨y, -, rfl⟩ := List.mem_map.1 hx; exact length_holdEntryBytes y) hk
    (by rw [List.getElem?_map, he]; rfl)
  unfold lotReadBytes
  simp only [List.append_assoc, fieldAt_append_add, length_beBytes, length_padTo, length_slotsOf, length_bytes32,
    List.length_cons, List.length_nil, Nat.reduceLeDiff, Nat.reduceSub, Nat.reduceMul, Nat.reduceAdd, Nat.zero_add, hentry]

/-- Table 11-7: the release record in the data of LOT.READ. -/
theorem lotRead_release (l : LotRec) {r : ReleaseRecord} (hr : l.release = some r) :
    FieldAt (lotReadBytes l) 682 (bytes32 r.number ++ beBytes 1 r.lot.val) := by
  have hpad : ∃ rest, padTo 110 (releaseBytes r) = bytes32 r.number ++ (beBytes 1 r.lot.val ++ rest) :=
    ⟨_, by
      simp only [padTo, releaseBytes, List.append_assoc]
      rw [List.take_append, List.take_of_length_le (by simp), List.take_append, List.take_of_length_le (by simp)]⟩
  obtain ⟨rest, hrest⟩ := hpad
  unfold lotReadBytes
  rw [hr, Option.map_some, Option.getD_some, hrest]
  simp only [List.append_assoc, List.cons_append, List.nil_append, fieldAt_append, fieldAt_cons,
    fieldAt_zero_append, fieldAt_zero, length_beBytes, length_padTo, length_slotsOf, length_bytes32, Nat.reduceLeDiff,
    Nat.reduceSub, Nat.reduceMul]

/-! ### The data of CELL.READ (Table 11-15) -/

@[simp] theorem length_cellStateBytes (c : CellNo) (r : CellRec) : (cellStateBytes c r).length = 20 := by
  unfold cellStateBytes
  cases r.assignment <;> simp

@[simp] theorem length_cellConfigBytes (k : CellConfig) : (cellConfigBytes k).length = 5 := by simp [cellConfigBytes]

@[simp] theorem length_slotBytes (x : Slot) : (slotBytes x).length = 10 := by simp [slotBytes]

@[simp] theorem length_siteBytes (t : SiteTally) : (siteBytes t).length = 9 := by simp [siteBytes]

theorem length_slots (v : Vector Slot 4) : (v.toList.flatMap slotBytes).length = 40 := by
  rw [length_flatMap_const length_slotBytes, Vector.length_toList]

theorem length_cellReadBytes (s : State) (c : CellNo) : (cellReadBytes s c).length = 213 := by
  unfold cellReadBytes
  simp only [List.length_append, length_cellStateBytes, length_cellConfigBytes, length_beBytes, length_padTo, length_bytes16,
    length_slots, List.length_cons, List.length_nil]

/-- A field of what a take keeps. -/
theorem fieldAt_take {data field : List Byte} {place n : Nat} (h : place + field.length ≤ n) :
    FieldAt (data.take n) place field ↔ FieldAt data place field := by
  rw [FieldAt, FieldAt, List.drop_take, List.take_take, Nat.min_eq_left (by omega)]

/-- A field of the part of a fixed-size field that its bytes fill. -/
theorem FieldAt.in_padTo {bs field : List Byte} {place n : Nat} (h : FieldAt bs place field)
    (hbs : place + field.length ≤ bs.length) (hn : place + field.length ≤ n) (back : List Byte) :
    FieldAt (padTo n bs ++ back) place field :=
  have hlen : place + field.length ≤ (padTo n bs).length := by rwa [length_padTo]
  FieldAt.append ((fieldAt_take hn).2 (h.append hbs _)) hlen back

/-- The rest of a fixed-size field is 0. -/
theorem fieldAt_padTo_zeros {bs : List Byte} {place n k : Nat} (hbs : bs.length ≤ place) (hn : place + k ≤ n)
    (back : List Byte) : FieldAt (padTo n bs ++ back) place (List.replicate k 0#8) := by
  have hlen : place + (List.replicate k 0#8).length ≤ (padTo n bs).length := by simpa using hn
  refine FieldAt.append ((fieldAt_take (by simpa using hn)).2 ?_) hlen back
  rw [fieldAt_append _ hbs, FieldAt, List.drop_replicate, List.take_replicate, List.length_replicate, Nat.min_eq_left (by omega)]

theorem bytes16_handleField (h : LotNo) : bytes16 (handleField (some h)) = beBytes 2 h.val := by
  have hlt := h.isLt
  have hval : (handleField (some h)).toNat = h.val := by
    rw [handleField, Option.map_some, Option.getD_some, BitVec.toNat_ofNat, Nat.mod_eq_of_lt (by omega)]
  have h1 : (handleField (some h)).extractLsb' 8 8 = BitVec.ofNat 8 (h.val / 256) := by
    apply BitVec.eq_of_toNat_eq
    rw [BitVec.extractLsb'_toNat, hval, BitVec.toNat_ofNat, Nat.shiftRight_eq_div_pow]
  have h0 : (handleField (some h)).extractLsb' 0 8 = BitVec.ofNat 8 h.val := by
    apply BitVec.eq_of_toNat_eq
    rw [BitVec.extractLsb'_toNat, hval, BitVec.toNat_ofNat, Nat.shiftRight_zero]
  simp [bytes16, beBytes, h1, h0]

theorem cellRead_head (s : State) (c : CellNo) :
    FieldAt (cellReadBytes s c) 0 (beBytes 1 c.val ++ [(s.bay.cell c).state.code, (s.bay.cell c).kit]) := by
  have hhead : FieldAt (cellStateBytes c (s.bay.cell c)) 0 (beBytes 1 c.val ++ [(s.bay.cell c).state.code, (s.bay.cell c).kit]) := by
    unfold cellStateBytes
    simp only [List.append_assoc, List.cons_append, fieldAt_zero_append, fieldAt_zero_cons]
    exact fieldAt_zero [] _
  unfold cellReadBytes
  simp only [List.append_assoc]
  exact hhead.append (by simp) _

theorem cellRead_counters (s : State) (c : CellNo) :
    let r := s.bay.cell c
    let k := r.counters
    FieldAt (cellReadBytes s c) 24 ([flagByte r.stallDeadline.isSome] ++ beBytes 6 (r.stallDeadline.getD 0))
    ∧ FieldAt (cellReadBytes s c) 36 (beBytes 2 k.offerTimeouts ++ beBytes 2 k.declines ++ beBytes 2 k.stalls ++ beBytes 2 k.strays
      ++ beBytes 2 k.protocolErrors ++ beBytes 2 k.drops)
    ∧ FieldAt (cellReadBytes s c) 209
      (beBytes 2 s.link.ports[c].checkFailures ++ beBytes 2 s.link.ports[c].destinationErrors) := by
  unfold cellReadBytes
  simp only [List.append_assoc, List.cons_append, List.nil_append, fieldAt_append, fieldAt_cons, fieldAt_zero_append,
    fieldAt_zero_cons, fieldAt_zero, fieldAt_self, length_beBytes, length_padTo, length_slots, length_bytes16,
    length_cellStateBytes, length_cellConfigBytes, Nat.reduceLeDiff, Nat.reduceSub, and_self]

/-- Table 11-15: a cell without an assignment. -/
theorem cellRead_unassigned (s : State) {c : CellNo} (h : (s.bay.cell c).assignment = none) :
    FieldAt (cellReadBytes s c) 10 (List.replicate 10 0#8 ++ [0xFF#8, 0xFF#8]) := by
  have hnone : bytes16 (handleField none) = [0xFF#8, 0xFF#8] := rfl
  unfold cellReadBytes cellStateBytes
  dsimp only
  rw [h, Option.map_none, hnone]
  simp only [List.append_assoc, List.cons_append, List.nil_append, fieldAt_append, fieldAt_cons, fieldAt_zero_append,
    fieldAt_zero_cons, length_beBytes, length_bytes16, Nat.reduceLeDiff, Nat.reduceSub]
  exact fieldAt_zero [] _

/-- Table 11-15: the assignment a cell holds. -/
theorem cellRead_assigned (s : State) {c : CellNo} {a : Assignment} (h : (s.bay.cell c).assignment = some a) :
    FieldAt (cellReadBytes s c) 10
      ([1#8] ++ beBytes 1 a.step ++ bytes16 a.id ++ beBytes 2 a.qty ++ beBytes 3 a.units ++ [flagByte a.finishSent]
        ++ beBytes 2 a.lot.val) := by
  unfold cellReadBytes cellStateBytes
  dsimp only
  rw [h, Option.map_some, bytes16_handleField]
  simp only [List.append_assoc, List.cons_append, List.nil_append, fieldAt_append, fieldAt_cons, fieldAt_zero_append,
    fieldAt_zero_cons, fieldAt_zero, length_beBytes, length_bytes16, Nat.reduceLeDiff, Nat.reduceSub]

/-- Table 11-15: the bin counts of the assignment. -/
theorem cellRead_bin (s : State) {c : CellNo} {a : Assignment} (h : (s.bay.cell c).assignment = some a) (b : BinNo) :
    FieldAt (cellReadBytes s c) (49 + 3 * b.val) (beBytes 3 a.bins[b]) := by
  have hlen : (a.bins.toList.flatMap (beBytes 3)).length = 48 := by
    rw [length_flatMap_const (length_beBytes 3), Vector.length_toList]
  have hb := b.isLt
  have hbin := fieldAt_flatMap (length_beBytes 3) (l := a.bins.toList) (i := b.val) (x := a.bins[b]) (by simp) []
  rw [List.append_nil] at hbin
  unfold cellReadBytes
  dsimp only
  rw [h]
  simp only [Option.map_some, Option.getD_some, List.append_assoc, fieldAt_append_add, length_cellStateBytes, length_cellConfigBytes, length_beBytes,
    length_bytes16, List.length_cons, List.length_nil, Nat.reduceLeDiff, Nat.reduceSub, Nat.zero_add]
  exact hbin.in_padTo (by rw [length_beBytes, hlen]; omega) (by rw [length_beBytes]; omega) _

/-- Table 11-15: the tallies of the cell's sites, 0 beyond them. -/
theorem cellRead_site (s : State) {c : CellNo} {a : Assignment} (h : (s.bay.cell c).assignment = some a) (i : SiteNo) :
    FieldAt (cellReadBytes s c) (97 + 9 * i.val)
      (if i.val < (s.bay.cell c).sites.getD 0 then siteBytes a.sites[i] else List.replicate 9 0#8) := by
  have hi := i.isLt
  set n := (s.bay.cell c).sites.getD 0 with hn
  have hlen : ((a.sites.toList.take n).flatMap siteBytes).length = min n 8 * 9 := by
    rw [length_flatMap_const length_siteBytes, List.length_take, Vector.length_toList]
  unfold cellReadBytes
  dsimp only
  rw [h, ← hn]
  simp only [Option.map_some, Option.getD_some, List.append_assoc, fieldAt_append_add, length_cellStateBytes, length_cellConfigBytes, length_beBytes, length_padTo,
    length_bytes16, List.length_cons, List.length_nil, Nat.reduceLeDiff, Nat.reduceSub, Nat.zero_add]
  split
  · next hin =>
    have hsite := fieldAt_flatMap length_siteBytes (l := a.sites.toList.take n) (i := i.val) (x := a.sites[i])
      (by rw [List.getElem?_take_of_lt hin]; simp) []
    rw [List.append_nil] at hsite
    exact hsite.in_padTo (by rw [length_siteBytes, hlen]; omega) (by rw [length_siteBytes]; omega) _
  · next hout => exact fieldAt_padTo_zeros (by rw [hlen]; omega) (by omega) _

/-- Table 11-15: the residency slots. -/
theorem cellRead_slot (s : State) (c : CellNo) (i : SlotNo) :
    FieldAt (cellReadBytes s c) (169 + 10 * i.val) (slotBytes (s.bay.cell c).slots[i]) := by
  have hslot := fieldAt_flatMap length_slotBytes (l := (s.bay.cell c).slots.toList) (i := i.val) (x := (s.bay.cell c).slots[i])
    (by simp)
  unfold cellReadBytes
  simp only [List.append_assoc, fieldAt_append_add, length_cellStateBytes, length_cellConfigBytes, length_beBytes, length_padTo,
    length_bytes16, List.length_cons, List.length_nil, Nat.reduceLeDiff, Nat.reduceSub, Nat.zero_add, hslot]

/-! ### The data of PART.READ (Table 11-16) -/

@[simp] theorem length_channelBytes (k : ChannelSettings) (ch : Channel) : (channelBytes k ch).length = 73 := by
  unfold channelBytes
  cases ch.pull <;>
    simp only [List.length_append, channelSettingsBytes, length_beBytes, length_bytes16, length_slotsOf, List.length_cons,
      List.length_nil, List.length_replicate]

theorem length_perCell (f : CellNo → Nat) : (allCells.flatMap fun c => beBytes 2 (f c)).length = 64 := by
  rw [length_flatMap_const fun c => length_beBytes 2 (f c)]
  rfl

theorem length_channels (s : State) :
    (allChans.flatMap fun k => channelBytes s.tables.channels[k] (s.bay.chan k)).length = 584 := by
  rw [length_flatMap_const fun k => length_channelBytes _ _]
  rfl

theorem length_partReadBytes (s : State) : (partReadBytes s).length = 945 := by
  unfold partReadBytes
  simp only [List.length_append, length_perCell, length_channels, length_beBytes, length_bytes16, length_bytes32, length_cellSet,
    length_slotsOf, List.length_cons, List.length_nil]

/-- A 16-bit field of each cell. -/
theorem fieldAt_perCell (f : CellNo → Nat) (c : CellNo) (back : List Byte) :
    FieldAt ((allCells.flatMap fun c => beBytes 2 (f c)) ++ back) (2 * c.val) (beBytes 2 (f c)) :=
  fieldAt_flatMap (fun c => length_beBytes 2 (f c)) (l := allCells) (by simp [allCells]) back

theorem partRead_counts (s : State) :
    FieldAt (partReadBytes s) 0 (bytes16 s.part.station) ∧ FieldAt (partReadBytes s) 3 (beBytes 6 s.part.clock)
    ∧ FieldAt (partReadBytes s) 9 (bytes32 s.bay.releaseCounter ++ bytes16 s.bay.nextSublot)
    ∧ FieldAt (partReadBytes s) 15 (beBytes 2 s.reportedPool.1 ++ beBytes 2 s.reportedPool.2)
    ∧ FieldAt (partReadBytes s) 19 (beBytes 2 s.reserved ++ beBytes 2 s.link.uplink.length)
    ∧ FieldAt (partReadBytes s) 91 (beBytes 2 s.bay.notices.length)
    ∧ FieldAt (partReadBytes s) 228 (beBytes 2 s.link.strays)
    ∧ FieldAt (partReadBytes s) 814 (beBytes 1 s.bay.slotsHeld)
    ∧ FieldAt (partReadBytes s) 816 (beBytes 1 s.bay.waitQueue.length) := by
  unfold partReadBytes
  simp only [List.append_assoc, List.cons_append, List.nil_append, fieldAt_append, fieldAt_cons, fieldAt_zero_append,
    fieldAt_zero, length_perCell, length_channels, length_beBytes, length_bytes16, length_bytes32, length_cellSet,
    Nat.reduceLeDiff, Nat.reduceSub, and_self]

theorem partRead_cell (s : State) (c : CellNo) :
    FieldAt (partReadBytes s) (23 + 2 * c.val) (beBytes 2 (s.share c))
    ∧ FieldAt (partReadBytes s) (98 + 2 * c.val) (beBytes 2 s.link.ports[c].checkFailures)
    ∧ FieldAt (partReadBytes s) (164 + 2 * c.val) (beBytes 2 s.link.ports[c].destinationErrors) := by
  unfold partReadBytes
  simp only [List.append_assoc, fieldAt_append_add, length_perCell, length_beBytes, length_bytes16, length_bytes32,
    length_cellSet, List.length_cons, List.length_nil, Nat.reduceLeDiff, Nat.reduceSub, Nat.zero_add,
    fieldAt_perCell s.share c, fieldAt_perCell (fun c => s.link.ports[c].checkFailures) c,
    fieldAt_perCell (fun c => s.link.ports[c].destinationErrors) c, and_self]

theorem partRead_channel (s : State) (k : ChanNo) :
    FieldAt (partReadBytes s) (230 + 73 * k.val) (channelBytes s.tables.channels[k] (s.bay.chan k)) := by
  have hchannel := fieldAt_flatMap (f := fun k => channelBytes s.tables.channels[k] (s.bay.chan k))
    (fun k => length_channelBytes _ _) (l := allChans) (i := k.val) (x := k) (by simp [allChans])
  unfold partReadBytes
  simp only [List.append_assoc, fieldAt_append_add, length_perCell, length_beBytes, length_bytes16, length_bytes32,
    length_cellSet, List.length_cons, List.length_nil, Nat.reduceLeDiff, Nat.reduceSub, Nat.zero_add, hchannel]

/-- R193: whether the counts take in the RESPONSE's own buffer is the model's free value. -/
theorem State.reportedPool_cases (s : State) :
    s.reportedPool = (s.free, s.occupied) ∨ s.reportedPool = (s.free - 1, s.occupied + 1) := by
  unfold State.reportedPool
  split
  · exact .inr rfl
  · exact .inl rfl

/-! ### The reads (R24, R43, R191, R193) -/

/-- Settles O11: the reads leave every record as it is, and each field stands where the fields before it in its table end. -/
theorem readsAnswerAndChangeNothing : Obligations.ReadsAnswerAndChangeNothing := by
  refine ⟨fun tag s hs => ?answers, fun l => ?lot, fun s c => ?cell, fun s => ?part, rfl, rfl⟩
  case answers =>
    refine ⟨fun table index => ⟨fun entry he => ?_, fun he => ?_⟩, fun handle => ⟨fun h => ?_, fun h => ?_⟩,
      fun cell => ⟨fun h => ?_, fun h => ?_⟩, answers_unchanged rfl hs rfl⟩
    · exact Tables.reply_of_entry he ▸ tableRead_answers hs
    · exact Tables.reply_of_none he ▸ tableRead_answers hs
    · exact answers_of_lotRequest (f := fun _ b h => (b, { status := .done, data := lotReadBytes (b.lot h) })) rfl hs rfl h rfl
        rfl (by simp)
    · have hserve : serveLotRead tag handle s.newEvent = _ := State.lotRequest_out_of_range h
      exact answers_unchanged rfl hs hserve
    · exact answers_of_cellRequest (f := fun _ b c => (b, { status := .done, data := cellReadBytes s c })) rfl hs rfl h rfl
        rfl (by simp)
    · have hserve : serveCellRead tag cell s.newEvent = _ := State.cellRequest_out_of_range h
      exact answers_unchanged rfl hs hserve
  case lot =>
    obtain ⟨hhead, hcounts, hsublots, hstamp, hholds⟩ := lotRead_fields l
    refine ⟨length_lotReadBytes l, hhead, hcounts, hsublots, hstamp, fun k r hr => ?_, hholds, fun k e he => ?_,
      fun r hr => lotRead_release l hr⟩
    · have hstep := lotRead_step l k.isLt hr
      rw [stepRecBytes] at hstep
      exact hstep.head.head.head
    · exact (lotRead_hold l k.isLt he).head
  case cell =>
    obtain ⟨hstall, hcounters, hport⟩ := cellRead_counters s c
    refine ⟨length_cellReadBytes s c, cellRead_head s c, cellRead_unassigned s, ?_, hcounters,
      fun a ha => ⟨cellRead_assigned s ha, cellRead_bin s ha, fun i => ?_⟩, cellRead_slot s c, hport⟩
    · cases hdeadline : (s.bay.cell c).stallDeadline <;> rw [hdeadline] at hstall <;> exact hstall
    · exact cellRead_site s ha i
  case part =>
    obtain ⟨hstation, hclock, hrelease, hpool, hreserved, hnotices, hstrays, hslots, hwaiting⟩ := partRead_counts s
    refine ⟨length_partReadBytes s, hstation, hclock, hrelease, ?_, hreserved, partRead_cell s, hnotices, hstrays, fun k => ?_,
      hslots, hwaiting⟩
    · rcases s.reportedPool_cases with h | h <;> rw [h] at hpool
      · exact .inl hpool
      · exact .inr hpool
    · have hchannel := partRead_channel s k
      rw [channelBytes] at hchannel
      exact hchannel.head.head.head.head.head.head.head.head

end Sys2Proof.Machine

/-!
SUPPORT. LOT.DEFINE (R3, R4, R17): the position of the first step at fault, the lowest FREE record, and the record it becomes.
-/

namespace Sys2Proof.Machine

/-! ### The first index of which something holds -/

/-- The lowest index that a test finds. -/
theorem find?_finRange {n : Nat} {p : Fin n → Bool} {i : Fin n} (hi : p i = true) (hbefore : ∀ j < i, p j = false) :
    (List.finRange n).find? p = some i := by
  refine List.find?_eq_some_iff_getElem.2 ⟨hi, i.val, by simp, by simp, fun j hj => ?_⟩
  have := hbefore ⟨j, hj.trans i.isLt⟩ hj
  simpa using this

theorem find?_finRange_none {n : Nat} {p : Fin n → Bool} (h : ∀ i, p i = false) : (List.finRange n).find? p = none := by
  simp [List.find?_eq_none, h]

/-! ### Steps at fault (R17, Table 1-2) -/

theorem stepKindOf_eq_none {b : Byte} : stepKindOf b = none ↔ 1 < b.toNat := by
  unfold stepKindOf
  split <;> simp_all
  omega

theorem stepKindOf_of_le {b : Byte} (h : b.toNat ≤ 1) : stepKindOf b = some (if b = 1#8 then .retest else .test) := by
  have hb : b = 0#8 ∨ b = 1#8 := by
    rcases Nat.le_one_iff_eq_zero_or_eq_one.1 h with h | h
    · exact .inl (BitVec.eq_of_toNat_eq h)
    · exact .inr (BitVec.eq_of_toNat_eq h)
  rcases hb with rfl | rfl <;> rfl

theorem stepKindOf_eq_test {b : Byte} : stepKindOf b = some .test ↔ b = 0#8 := by
  constructor
  · intro h
    by_cases hb : b.toNat ≤ 1
    · rw [stepKindOf_of_le hb] at h
      split at h
      · cases h
      · next h1 =>
        refine BitVec.eq_of_toNat_eq ?_
        have : b.toNat ≠ 1 := fun e => h1 (BitVec.eq_of_toNat_eq e)
        show b.toNat = 0
        omega
    · rw [stepKindOf_eq_none.2 (by omega)] at h
      cases h
  · rintro rfl
    rfl

theorem tempOf_of_le {b : Byte} (h : b.toNat ≤ 2) :
    tempOf b = some (if b = 0#8 then .cold else if b = 1#8 then .room else .hot) := by
  have hb : b = 0#8 ∨ b = 1#8 ∨ b = 2#8 := by
    have : b.toNat = 0 ∨ b.toNat = 1 ∨ b.toNat = 2 := by omega
    exact this.imp BitVec.eq_of_toNat_eq (Or.imp BitVec.eq_of_toNat_eq BitVec.eq_of_toNat_eq)
  rcases hb with rfl | rfl | rfl <;> rfl

theorem tempOf_isNone {b : Byte} : (tempOf b).isNone = true ↔ 2 < b.toNat := by
  constructor
  · intro h
    by_contra hle
    rw [tempOf_of_le (by omega)] at h
    cases h
  · intro h
    rw [tempOf_none h]
    rfl

/-- Table 1-2: what makes a step slot refused, `after` being the kind of the step before it. -/
theorem stepRefused_iff {after : Option StepKind} {e : StepImage} :
    stepRefused after e = true
      ↔ 1 < e.kind.toNat ∨ 2 < e.temp.toNat ∨ e.kit = 0#8 ∨ e.program = 0#16 ∨ 63 < e.profile.toNat
        ∨ (e.kind = 1#8 ∧ after ≠ some .test) := by
  unfold stepRefused
  by_cases hk : e.kind.toNat ≤ 1
  · have hk' : ¬1 < e.kind.toNat := by omega
    rw [stepKindOf_of_le hk]
    simp only [Bool.or_eq_true, Bool.and_eq_true, decide_eq_true_eq, tempOf_isNone, hk', false_or, ne_eq]
    by_cases h1 : e.kind = 1#8 <;> simp [h1] <;> tauto
  · rw [stepKindOf_eq_none.2 (by omega)]
    simp only [true_iff]
    exact .inl (by omega)

/-- The kind of the step directly before place `i` of a route. -/
def kindBefore (after : Option StepKind) (l : List StepImage) : Nat → Option StepKind
  | 0 => after
  | i + 1 => (l[i]?).bind fun e => stepKindOf e.kind

/-- Whether the step at a place of a route is refused. -/
def refusedAt (after : Option StepKind) (l : List StepImage) (i : Nat) : Bool :=
  (l[i]?).any (stepRefused (kindBefore after l i))

theorem refusedAt_cons (after : Option StepKind) (e : StepImage) (rest : List StepImage) (i : Nat) :
    refusedAt after (e :: rest) (i + 1) = refusedAt (stepKindOf e.kind) rest i := by
  cases i <;> rfl

/-- R17: the position of the first step that is refused. -/
theorem routeFault_eq_some : ∀ {l : List StepImage} {after : Option StepKind} {pos i : Nat}, refusedAt after l i = true →
    (∀ j < i, refusedAt after l j = false) → routeFault after pos l = some (pos + i)
  | [], _, _, _, h, _ => absurd h Bool.false_ne_true
  | e :: rest, after, pos, 0, h, _ => if_pos h
  | e :: rest, after, pos, i + 1, h, hbefore => by
    have hfirst : stepRefused after e = false := hbefore 0 (Nat.succ_pos i)
    rw [refusedAt_cons] at h
    rw [routeFault, if_neg (by rw [hfirst]; decide),
      routeFault_eq_some h fun j hj => refusedAt_cons after e rest j ▸ hbefore (j + 1) (Nat.succ_lt_succ hj)]
    congr 1
    omega

theorem routeFault_eq_none : ∀ {l : List StepImage} {after : Option StepKind} {pos : Nat},
    (∀ i < l.length, refusedAt after l i = false) → routeFault after pos l = none
  | [], _, _, _ => rfl
  | e :: rest, after, pos, h => by
    have hfirst : stepRefused after e = false := h 0 (Nat.succ_pos _)
    rw [routeFault, if_neg (by rw [hfirst]; decide)]
    exact routeFault_eq_none fun i hi => refusedAt_cons after e rest i ▸ h (i + 1) (Nat.succ_lt_succ hi)

theorem getElem?_definedSteps {n : Byte} {steps : Vector StepImage 6} {k : Fin 6} (hk : k.val < n.toNat) :
    (definedSteps n steps)[k.val]? = some steps[k] := by
  rw [definedSteps, List.getElem?_take_of_lt hk]
  simp

/-- Table 1-2: a step slot of LOT.DEFINE at fault. -/
def StepFault (steps : Vector StepImage 6) (k : Fin 6) : Prop :=
  1 < steps[k].kind.toNat ∨ 2 < steps[k].temp.toNat ∨ steps[k].kit = 0#8 ∨ steps[k].program = 0#16
    ∨ 63 < steps[k].profile.toNat ∨ (steps[k].kind = 1#8 ∧ ∀ j : Fin 6, j.val + 1 = k.val → steps[j].kind ≠ 0#8)

theorem refusedAt_iff {n : Byte} {steps : Vector StepImage 6} {k : Fin 6} (hk : k.val < n.toNat) :
    refusedAt none (definedSteps n steps) k.val = true ↔ StepFault steps k := by
  have hbefore : kindBefore none (definedSteps n steps) k.val ≠ some .test
      ↔ ∀ j : Fin 6, j.val + 1 = k.val → steps[j].kind ≠ 0#8 := by
    obtain ⟨k, hk6⟩ := k
    cases k with
    | zero => simp [kindBefore]
    | succ k =>
      have hget := getElem?_definedSteps (n := n) (steps := steps) (k := ⟨k, by omega⟩) (by simp at hk; simp; omega)
      simp only [kindBefore]
      rw [hget, Option.bind_some, ne_eq, stepKindOf_eq_test]
      constructor
      · rintro h ⟨j, hj⟩ he
        obtain rfl : j = k := by simpa using he
        exact h
      · exact fun h => h ⟨k, by omega⟩ rfl
  rw [refusedAt, getElem?_definedSteps hk, Option.any_some, stepRefused_iff, hbefore]
  rfl

/-! ### The effect of LOT.DEFINE -/

theorem policyOf_none {b : Byte} (h : 1 < b.toNat) : policyOf b = none := by
  unfold policyOf
  split <;> first | omega | rfl

theorem policyOf_of_le {b : Byte} (h : b.toNat ≤ 1) : policyOf b = some (if b = 1#8 then .auto else .manual) := by
  have hb : b = 0#8 ∨ b = 1#8 := (Nat.le_one_iff_eq_zero_or_eq_one.1 h).imp BitVec.eq_of_toNat_eq BitVec.eq_of_toNat_eq
  rcases hb with rfl | rfl <;> rfl

/-- R3: a step slot that is not at fault, as the route step it becomes. -/
def StepImage.taken (e : StepImage) : RouteStep :=
  { kind := if e.kind = 1#8 then .retest else .test
    temp := if e.temp = 0#8 then .cold else if e.temp = 1#8 then .room else .hot
    kit := e.kit, program := e.program, profile := Fin.ofNat 64 e.profile.toNat
    minSites := max 1 (min e.minSites.toNat 8) }

theorem routeStepOf_eq {e : StepImage} (hk : e.kind.toNat ≤ 1) (ht : e.temp.toNat ≤ 2) (hp : e.profile.toNat ≤ 63) :
    routeStepOf e = StepImage.taken e := by
  have hprofile : (indexOf 64 e.profile).getD 0 = Fin.ofNat 64 e.profile.toNat := by
    rw [indexOf_toNat (by omega), Option.getD_some]
    exact Fin.ext (Nat.mod_eq_of_lt (by omega)).symm
  rw [routeStepOf, stepKindOf_of_le hk, tempOf_of_le ht, hprofile]
  rfl

/-- The record of a FREE lot that LOT.DEFINE takes. -/
def LotRec.defined (l : LotRec) (name : List Byte) (start : BitVec 24) (policy : ReleasePolicy) (route : List RouteStep) : LotRec :=
  { definedLot name start policy route with stamp := l.stamp + 1 }

theorem Bay.lowestFree_eq {b : Bay} {h : LotNo} (hf : (b.lot h).state = .free) (hbefore : ∀ h' < h, (b.lot h').state ≠ .free) :
    b.lowestFree = some h :=
  find?_finRange (decide_eq_true hf) fun j hj => decide_eq_false (hbefore j hj)

/-- R17: the record that LOT.DEFINE takes. -/
theorem stampedRec_defined {l : LotRec} (hf : l.state = .free) (name : List Byte) (start : BitVec 24) (policy : ReleasePolicy)
    (route : List RouteStep) :
    stampedRec false l { definedLot name start policy route with stamp := l.stamp } = l.defined name start policy route := by
  refine if_neg ?_
  simp only [LotRec.followed, definedLot, hf]
  simp

/-- LOT.DEFINE, its effect and answer on the bay being `b` and `p`. -/
theorem answers_of_define {tag : Half} {nameLength : Byte} {name : Vector Byte 16} {start : BitVec 24} {policy stepCount : Byte}
    {steps : Vector StepImage 6} {s : State} {r : Records} {b : Bay} {p : Reply} {reported : List Notice}
    (h : s.TakesRequests) (hd : s.newEvent.bay.define nameLength name start policy stepCount steps = (b, p))
    (hr : { s with bay := b }.records = r) (hn : ∀ n ∈ reported, n ∈ b.notices) :
    Answers (.lotDefine tag nameLength name start policy stepCount steps) s r none 0x10#8 tag p reported := by
  refine answers_of_serve (u := { s with bay := b }) rfl h ?_ rfl h.1 hr rfl fun n hm => .inl (hn n hm)
  show serveLotDefine tag nameLength name start policy stepCount steps s.newEvent = _
  rw [serveLotDefine, hd]
  rfl

section
variable {b : Bay} {nameLength : Byte} {name : Vector Byte 16} {start : BitVec 24} {policy stepCount : Byte}
  {steps : Vector StepImage 6}

/-- R190: a policy that names nothing, or a name that is too long. -/
theorem Bay.define_unknown (h : 1 < policy.toNat ∨ 16 < nameLength.toNat) :
    b.define nameLength name start policy stepCount steps = (b, { status := .unknown, data := [] }) := by
  unfold Bay.define
  rcases h with h | h
  · rw [policyOf_none h]
    rfl
  · split
    · rfl
    · exact if_pos h

theorem Bay.define_fault (hp : policy.toNat ≤ 1) (hname : nameLength.toNat ≤ 16) {k : Nat}
    (hk : defineFault start stepCount steps = some k) :
    b.define nameLength name start policy stepCount steps = (b, { status := .unknown, data := [BitVec.ofNat 8 k] }) := by
  unfold Bay.define
  rw [policyOf_of_le hp, hk, ← beBytes_one]
  exact if_neg (by omega)

theorem Bay.define_full (hp : policy.toNat ≤ 1) (hname : nameLength.toNat ≤ 16)
    (hk : defineFault start stepCount steps = none) (hfree : b.lowestFree = none) :
    b.define nameLength name start policy stepCount steps = (b, { status := .full, data := [] }) := by
  unfold Bay.define
  rw [policyOf_of_le hp, hk, hfree]
  exact if_neg (by omega)

/-- R17: a FREE record is taken. -/
theorem Bay.define_taken (hp : policy.toNat ≤ 1) (hname : nameLength.toNat ≤ 16)
    (hk : defineFault start stepCount steps = none) {h : LotNo} (hf : (b.lot h).state = .free)
    (hbefore : ∀ h' < h, (b.lot h').state ≠ .free) (hs : b.stamped = []) :
    b.define nameLength name start policy stepCount steps
      = (b.modLot h fun l =>
          { definedLot (name.toList.take nameLength.toNat) start (if policy = 1#8 then .auto else .manual)
              ((definedSteps stepCount steps).map routeStepOf) with stamp := l.stamp },
        { status := .done, data := beBytes 2 h.val ++ bytes32 ((b.lot h).stamp + 1) }) := by
  have hlot := Bay.lot_modLot_self b h fun l =>
    { definedLot (name.toList.take nameLength.toNat) start (if policy = 1#8 then .auto else .manual)
        ((definedSteps stepCount steps).map routeStepOf) with stamp := l.stamp }
  rw [hs, show decide (h ∈ []) = false from rfl, stampedRec_defined hf] at hlot
  unfold Bay.define
  rw [policyOf_of_le hp, hk, Bay.lowestFree_eq hf hbefore]
  dsimp only
  rw [if_neg (by omega), hlot]
  rfl

end

/-- R17: the answer where a step is at fault. -/
theorem defineFault_of_step {start : BitVec 24} {n : Byte} {steps : Vector StepImage 6} {k : Fin 6} (hk : k.val < n.toNat)
    (hfault : StepFault steps k) (hbefore : ∀ j, j < k → ¬StepFault steps j) :
    defineFault start n steps
      = some (if (6 < n.toNat ∧ Config.countFaultFirst = true) ∨ (start = 0#24 ∧ Config.startFaultFirst = true) then 0
          else k.val + 1) := by
  have hroute : routeFault none 1 (definedSteps n steps) = some (1 + k.val) :=
    routeFault_eq_some ((refusedAt_iff hk).2 hfault) fun j hj => by
      have hjk := (refusedAt_iff (steps := steps) (k := ⟨j, hj.trans k.isLt⟩) (hj.trans hk)).not.2 (hbefore _ hj)
      exact Bool.eq_false_iff.2 hjk
  rw [defineFault, hroute, Nat.add_comm 1]
  dsimp only
  split <;> rfl

/-- R17: the answer where no step is at fault. -/
theorem defineFault_of_sound {start : BitVec 24} {n : Byte} {steps : Vector StepImage 6}
    (h : ∀ k : Fin 6, k.val < n.toNat → ¬StepFault steps k) :
    defineFault start n steps = if n.toNat < 1 ∨ 6 < n.toNat ∨ start = 0#24 then some 0 else none := by
  have hroute : routeFault none 1 (definedSteps n steps) = none := by
    refine routeFault_eq_none fun i hi => ?_
    have hlen : i < n.toNat ∧ i < 6 := by
      rw [definedSteps, List.length_take, Vector.length_toList] at hi
      omega
    exact Bool.eq_false_iff.2 ((refusedAt_iff (k := ⟨i, hlen.2⟩) hlen.1).not.2 (h _ hlen.1))
  rw [defineFault, hroute]

/-- R3: the route that LOT.DEFINE records. -/
theorem route_of_sound {n : Byte} {steps : Vector StepImage 6} (h : ∀ k : Fin 6, k.val < n.toNat → ¬StepFault steps k) :
    (definedSteps n steps).map routeStepOf = (steps.toList.take n.toNat).map StepImage.taken := by
  refine List.map_congr_left fun e he => ?_
  obtain ⟨i, hi, rfl⟩ := List.getElem_of_mem he
  have hlen : i < n.toNat ∧ i < 6 := by
    rw [definedSteps, List.length_take, Vector.length_toList] at hi
    omega
  have hget : (definedSteps n steps)[i] = steps[i] := by simp [definedSteps]
  have hsound := h ⟨i, hlen.2⟩ hlen.1
  simp only [StepFault, not_or, not_lt, Fin.getElem_fin] at hsound
  obtain ⟨hkind, htemp, -, -, hprofile, -⟩ := hsound
  rw [hget]
  exact routeStepOf_eq hkind htemp hprofile

/-- Settles O14: the refusals in the order of the checks, and the record that the lowest FREE lot becomes. -/
theorem lotDefine : Obligations.LotDefine := by
  intro tag nameLength name start policy stepCount steps s hs i n wrong refused
  refine ⟨fun h => answers_of_define hs (Bay.define_unknown h) rfl (by simp), fun hp hname => ⟨fun k hk hw hbefore => ?_, ?_⟩⟩
  · have hdefine := Bay.define_fault (b := s.newEvent.bay) (name := name) hp hname
      (defineFault_of_step (start := start) hk hw hbefore)
    have hdata (c : Prop) [Decidable c] :
        BitVec.ofNat 8 (if c then 0 else k.val + 1) = if c then 0#8 else BitVec.ofNat 8 (k.val + 1) := by split <;> rfl
    rw [hdata] at hdefine
    exact answers_of_define hs hdefine rfl (by simp)
  · intro hsound
    have hfault := defineFault_of_sound (start := start) (n := stepCount) (steps := steps) hsound
    refine ⟨fun h => ?_, fun h1 h6 hstart => ?_⟩
    · rw [if_pos (h.imp_left fun h0 : stepCount.toNat = 0 => by omega)] at hfault
      exact answers_of_define hs (Bay.define_fault hp hname hfault) rfl (by simp)
    · rw [if_neg (by rintro (h | h | h) <;> first | omega | exact hstart h)] at hfault
      refine ⟨fun hfull => ?_, ?_⟩
      · have hnone : s.newEvent.bay.lowestFree = none := find?_finRange_none fun h => decide_eq_false (hfull h)
        exact answers_of_define hs (Bay.define_full hp hname hfault hnone) rfl (by simp)
      · intro h hf hbefore step l
        refine answers_of_define hs (Bay.define_taken (b := s.newEvent.bay) hp hname hfault hf hbefore rfl) ?_ ?_
        · rw [records_modLot, stampedRec_defined hf, route_of_sound hsound]
          have hlen : ((steps.toList.take stepCount.toNat).map StepImage.taken).length = stepCount.toNat := by
            rw [List.length_map, List.length_take, Vector.length_toList]
            exact Nat.min_eq_left h6
          have hl : (s.bay.lot h).defined (name.toList.take nameLength.toNat) start (if policy = 1#8 then .auto else .manual)
              ((steps.toList.take stepCount.toNat).map StepImage.taken) = l := by
            simp only [LotRec.defined, definedLot, List.map_const', hlen]
            rfl
          rw [hl]
        · intro m hm
          rw [List.mem_singleton] at hm
          refine Bay.mem_notices_modLot.2 (.inl ⟨hm, fun e => ?_, by simp⟩)
          have hstate := congrArg Prod.fst e
          rw [show s.newEvent.bay.lot h = s.bay.lot h from rfl] at hstate
          simp only [LotRec.followed, hf, definedLot] at hstate
          cases hstate

end Sys2Proof.Machine

/-!
SUPPORT. Through-frames (R165, R180 to R182): the stations that a destination names, the copies that are made with room for all
of them, and the copy that is dropped.
-/

namespace Sys2Proof.Machine

/-! ### The stations of Table 9-1 -/

section
variable {p : Half}

/-- R177: a station of the part, by its distance from P. -/
theorem toNat_station (hp : p.toNat ≤ 65408) {k : Nat} (hk : k ≤ 127) : (p + BitVec.ofNat 16 k).toNat = p.toNat + k := by
  rw [BitVec.toNat_add, BitVec.toNat_ofNat]
  omega

theorem station_ne_broadcast (hp : p.toNat ≤ 65408) {k : Nat} (hk : k ≤ 126) : p + BitVec.ofNat 16 k ≠ broadcast := by
  intro h
  have := congrArg BitVec.toNat h
  rw [toNat_station hp (by omega)] at this
  have hb : broadcast.toNat = 65535 := rfl
  omega

theorem station_ne_part (hp : p.toNat ≤ 65408) {k : Nat} (h0 : 0 < k) (hk : k ≤ 127) : p + BitVec.ofNat 16 k ≠ p := by
  intro h
  have := congrArg BitVec.toNat h
  rw [toNat_station hp hk] at this
  omega

theorem destOf_cellStation (hp : p.toNat ≤ 65408) (i : Fin 64) : destOf p (p + BitVec.ofNat 16 (1 + i.val)) = .cellStation i := by
  have hi := i.isLt
  have hval := toNat_station hp (k := 1 + i.val) (by omega)
  unfold destOf
  dsimp only
  rw [if_neg (station_ne_broadcast hp (by omega)), if_neg (station_ne_part hp (by omega) (by omega)), dif_pos (by omega)]
  congr 1
  exact Fin.ext (by simp only; omega)

theorem destOf_group (hp : p.toNat ≤ 65408) (g : Fin 4) : destOf p (p + BitVec.ofNat 16 (100 + g.val)) = .group g := by
  have hg := g.isLt
  have hval := toNat_station hp (k := 100 + g.val) (by omega)
  unfold destOf
  dsimp only
  rw [if_neg (station_ne_broadcast hp (by omega)), if_neg (station_ne_part hp (by omega) (by omega)), dif_neg (by omega),
    dif_pos (by omega)]
  congr 1
  exact Fin.ext (by simp only; omega)

theorem destOf_broadcast : destOf p broadcast = .everyCell := by
  unfold destOf
  exact if_pos rfl

theorem destOf_part (hp : p.toNat ≤ 65408) : destOf p p = .part := by
  have hne : p ≠ broadcast := by
    intro h
    have := congrArg BitVec.toNat h
    have hb : broadcast.toNat = 65535 := rfl
    omega
  unfold destOf
  dsimp only
  rw [if_neg hne, if_pos rfl]

theorem destOf_zero (h0 : 1 ≤ p.toNat) : destOf p 0x0000#16 = .unserved := by
  have hne : (0x0000#16 : Half) ≠ p := by
    rintro rfl
    exact absurd h0 (by decide)
  have hlow : ¬p.toNat < (0x0000#16 : Half).toNat := Nat.not_lt_zero _
  unfold destOf
  dsimp only
  rw [if_neg (by decide), if_neg hne, dif_neg fun h => hlow h.1, dif_neg fun h => hlow h.1]

/-- A destination at a distance above P. -/
theorem station_of_toNat {dst : Half} {k : Nat} (h : dst.toNat = p.toNat + k) : dst = p + BitVec.ofNat 16 k := by
  refine BitVec.eq_of_toNat_eq ?_
  have := dst.isLt
  rw [BitVec.toNat_add, BitVec.toNat_ofNat]
  omega

/-- R177: what the meaning of a destination says of its value. -/
def DestNames (p dst : Half) : Dest → Prop
  | .part => dst = p
  | .cellStation i => dst = p + BitVec.ofNat 16 (1 + i.val)
  | .group g => dst = p + BitVec.ofNat 16 (100 + g.val)
  | .everyCell => dst = broadcast
  | .unserved => True

theorem destNames_destOf (p dst : Half) : DestNames p dst (destOf p dst) := by
  unfold destOf
  dsimp only
  split
  · assumption
  · split
    · assumption
    · split
      · exact station_of_toNat (by simp only; omega)
      · split
        · exact station_of_toNat (by simp only; omega)
        · trivial

end

/-! ### Frames that are strays (R180) -/

theorem serveThrough_eq {dst : Half} {kind : Byte} {lot : Half} {payload : List Byte} {s : State} (h : payload.length ≤ 1024) :
    serveThrough dst kind lot payload s
      = match s.throughStations dst with
        | none => s.stray
        | some stations =>
          if kind = kindRequest ∨ kind = kindSegment then s.stray else stations.foldl (State.makeCopy kind lot payload) s := by
  unfold serveThrough
  rw [if_neg (by omega)] <;> rfl

theorem throughStations_cellStation {s : State} (hp : s.part.station.toNat ≤ 65408) (i : Fin 64) :
    s.throughStations (s.part.station + BitVec.ofNat 16 (1 + i.val)) = some [i] := by
  rw [State.throughStations, destOf_cellStation hp]

theorem throughStations_group {s : State} (hp : s.part.station.toNat ≤ 65408) (g : Fin 4) :
    s.throughStations (s.part.station + BitVec.ofNat 16 (100 + g.val))
      = if s.tables.groups[g].inUse then some ((List.finRange 64).filter s.tables.groups[g].holds) else none := by
  rw [State.throughStations, destOf_group hp]

theorem throughStations_broadcast (s : State) : s.throughStations 0xFFFF#16 = some (List.finRange 64) := by
  rw [State.throughStations, show (0xFFFF#16 : Half) = broadcast from rfl, destOf_broadcast]

/-- R180: a destination that no through-frame may have. -/
theorem throughStations_eq_none {s : State} {dst : Half}
    (hcell : ¬∃ j : Fin 64, dst = s.part.station + BitVec.ofNat 16 (1 + j.val))
    (hgroup : ¬∃ g : Fin 4, dst = s.part.station + BitVec.ofNat 16 (100 + g.val) ∧ s.tables.groups[g].inUse = true)
    (hall : dst ≠ 0xFFFF#16) : s.throughStations dst = none := by
  have hdest := destNames_destOf s.part.station dst
  unfold State.throughStations
  generalize destOf s.part.station dst = d at hdest
  cases d with
  | part => rfl
  | cellStation i => exact absurd ⟨i, hdest⟩ hcell
  | group g => exact if_neg fun hused => hgroup ⟨g, hdest, hused⟩
  | everyCell => exact absurd hdest hall
  | unserved => rfl

/-! ### Copies (R165, R182) -/

/-- The copy of a through-frame for one station. -/
def copyFor (p : Half) (kind : Byte) (lot : Half) (payload : List Byte) (i : Fin 64) : Frame :=
  { dst := indexStation p i, src := floorServer, kind := kind, lot := lot, descriptor := [], payload := payload }

/-- The state with other cell ports. -/
def State.withPorts (s : State) (v : Vector CellPort 32) : State := { s with link := { s.link with ports := v } }

/-- The ports with a copy of a through-frame queued for each of a list of stations. -/
def State.copiedPorts (s : State) (kind : Byte) (lot : Half) (payload : List Byte) (l : List (Fin 64)) : Vector CellPort 32 :=
  Vector.ofFn fun c : CellNo =>
    { s.link.ports[c] with
      downlink := s.link.ports[c].downlink ++ (l.filter fun i => stationCell i = c).map (copyFor s.part.station kind lot payload) }

/-- The state with those ports. -/
def State.withCopies (s : State) (kind : Byte) (lot : Half) (payload : List Byte) (l : List (Fin 64)) : State :=
  s.withPorts (s.copiedPorts kind lot payload l)

theorem State.modPort_withPorts (s : State) (v : Vector CellPort 32) (c : CellNo) (f : CellPort → CellPort) :
    (s.withPorts v).modPort c f = s.withPorts (v.set c (f v[c])) := rfl

theorem State.held_withPorts (s : State) (v : Vector CellPort 32) : (s.withPorts v).link.held = s.link.held := rfl

section
variable {s : State} {kind : Byte} {lot : Half} {payload : List Byte}

theorem getElem_copiedPorts (l : List (Fin 64)) (c : CellNo) :
    (s.copiedPorts kind lot payload l)[c]
      = { s.link.ports[c] with
          downlink := s.link.ports[c].downlink ++ (l.filter fun i => stationCell i = c).map (copyFor s.part.station kind lot payload) } := by
  rw [State.copiedPorts, Fin.getElem_fin, Vector.getElem_ofFn]

theorem ports_withCopies (l : List (Fin 64)) (c : CellNo) :
    (s.withCopies kind lot payload l).link.ports[c]
      = { s.link.ports[c] with
          downlink := s.link.ports[c].downlink ++ (l.filter fun i => stationCell i = c).map (copyFor s.part.station kind lot payload) } :=
  getElem_copiedPorts l c

theorem part_withCopies (l : List (Fin 64)) : (s.withCopies kind lot payload l).part = s.part := by
  simp only [State.withCopies, State.withPorts]

theorem copyGranted_of {c : CellNo} (hup : s.link.ports[c].up = true) (hfree : Config.noticeReserve < s.free)
    (hdepth : s.link.ports[c].downlink.length < Config.downlinkDepth) : s.copyGranted c = true := by
  rw [State.copyGranted, hup, Bool.true_and, decide_eq_true_eq]
  exact ⟨hfree, hdepth⟩

theorem withCopies_nil : s.withCopies kind lot payload [] = s := by
  have hports : s.copiedPorts kind lot payload [] = s.link.ports := by
    ext i hi : 1
    have := getElem_copiedPorts (s := s) (kind := kind) (lot := lot) (payload := payload) [] ⟨i, hi⟩
    simpa using this
  rw [State.withCopies, hports]
  rfl

/-- One more copy. -/
theorem withCopies_concat (l : List (Fin 64)) (i : Fin 64) :
    ((s.withCopies kind lot payload l).modPort (stationCell i)
        fun p => { p with downlink := p.downlink ++ [copyFor s.part.station kind lot payload i] })
      = s.withCopies kind lot payload (l ++ [i]) := by
  rw [State.withCopies, State.modPort_withPorts, State.withCopies]
  refine congrArg s.withPorts ?_
  ext c hc : 1
  have hafter := getElem_copiedPorts (s := s) (kind := kind) (lot := lot) (payload := payload) (l ++ [i]) ⟨c, hc⟩
  have hbefore := getElem_copiedPorts (s := s) (kind := kind) (lot := lot) (payload := payload) l ⟨c, hc⟩
  rw [Fin.getElem_fin] at hafter hbefore
  rw [Vector.getElem_set, hafter]
  split
  · next hi =>
    subst hi
    rw [Fin.getElem_fin, hbefore]
    simp
  · next hi =>
    have hne : stationCell i ≠ ⟨c, hc⟩ := fun e => hi (congrArg Fin.val e)
    rw [hbefore]
    simp [hne]

theorem makeCopy_granted {i : Fin 64} (h : s.copyGranted (stationCell i) = true) :
    State.makeCopy kind lot payload s i
      = s.modPort (stationCell i) fun p => { p with downlink := p.downlink ++ [copyFor s.part.station kind lot payload i] } := if_pos h

theorem used_modPort_push (c : CellNo) (f : Frame) :
    (s.modPort c fun p => { p with downlink := p.downlink ++ [f] }).used = s.used + 1 := by
  have hset := sum_map_set s.link.ports c { s.link.ports[c] with downlink := s.link.ports[c].downlink ++ [f] }
    fun p => p.downlink.length
  simp only [List.length_append, List.length_singleton] at hset
  simp only [State.used, State.modPort]
  omega

/-- R177: a cell has two stations. -/
theorem stations_of_cell (c : CellNo) : ((List.finRange 64).filter fun i => stationCell i = c).length = 2 := by
  revert c
  decide

/-- R182: with copies for `l` made, there is room for one more for station `i`. -/
theorem copyGranted_withCopies {l : List (Fin 64)} {i : Fin 64} (hsub : (l ++ [i]).Sublist (List.finRange 64))
    (hused : (s.withCopies kind lot payload l).used + 129 ≤ 2048 + l.length)
    (hroom : ∀ c : CellNo, s.link.ports[c].up = true ∧ s.link.ports[c].downlink.length ≤ 6) :
    (s.withCopies kind lot payload l).copyGranted (stationCell i) = true := by
  have hlen := hsub.length_le
  have htwo := (hsub.filter fun j => stationCell j = stationCell i).length_le
  rw [stations_of_cell, List.filter_append, List.length_append] at htwo
  simp only [decide_true, List.filter_cons_of_pos, List.filter_nil, List.length_singleton] at htwo
  rw [List.length_append, List.length_singleton, List.length_finRange] at hlen
  obtain ⟨hup, hdepth⟩ := hroom (stationCell i)
  refine copyGranted_of ?_ ?_ ?_
  · rw [ports_withCopies]
    exact hup
  · have hfree : 64 < (s.withCopies kind lot payload l).free := by
      rw [State.free_eq]
      omega
    exact hfree
  · have hshort : (s.withCopies kind lot payload l).link.ports[stationCell i].downlink.length < 8 := by
      rw [ports_withCopies]
      simp only [List.length_append, List.length_map]
      omega
    exact hshort

/-- R165, R182: with room for 64 copies and two at every port, every copy is made. -/
theorem makeCopies (hfree : 129 ≤ s.free)
    (hroom : ∀ c : CellNo, s.link.ports[c].up = true ∧ s.link.ports[c].downlink.length ≤ 6) (l : List (Fin 64)) :
    l.Sublist (List.finRange 64) → l.foldl (State.makeCopy kind lot payload) s = s.withCopies kind lot payload l
      ∧ (s.withCopies kind lot payload l).used = s.used + l.length := by
  induction l using List.reverseRecOn with
  | nil => exact fun _ => ⟨withCopies_nil.symm, by rw [withCopies_nil]; rfl⟩
  | append_singleton l i ih =>
    intro hsub
    obtain ⟨hfold, hused⟩ := ih ((List.sublist_append_left l [i]).trans hsub)
    rw [State.free_eq] at hfree
    have hgranted := copyGranted_withCopies hsub (by omega) hroom (s := s) (kind := kind) (lot := lot) (payload := payload)
    have hone := makeCopy_granted (kind := kind) (lot := lot) (payload := payload) hgranted
    have hcount := used_modPort_push (s := s.withCopies kind lot payload l) (stationCell i)
      (copyFor s.part.station kind lot payload i)
    rw [part_withCopies] at hone
    rw [withCopies_concat] at hone hcount
    exact ⟨by rw [List.foldl_append, hfold, List.foldl_cons, List.foldl_nil, hone],
      by rw [hcount, hused, List.length_append, List.length_singleton, Nat.add_assoc]⟩

end

/-! ### Through-frames (Table 9-2) -/

theorem records_withCopies (s : State) (kind : Byte) (lot : Half) (payload : List Byte) (l : List (Fin 64)) :
    (s.withCopies kind lot payload l).records
      = { s.records with
          ports := Vector.ofFn fun c : CellNo =>
            { s.link.ports[c].view with
              downlink := s.link.ports[c].downlink
                ++ (l.filter fun i => stationCell i = c).map (copyFor s.part.station kind lot payload) } } := by
  have hports : (s.copiedPorts kind lot payload l).map CellPort.view
      = Vector.ofFn fun c : CellNo =>
          { s.link.ports[c].view with
            downlink := s.link.ports[c].downlink
              ++ (l.filter fun i => stationCell i = c).map (copyFor s.part.station kind lot payload) } := by
    ext i hi : 1
    rw [Vector.getElem_map, Vector.getElem_ofFn, State.copiedPorts, Vector.getElem_ofFn]
    rfl
  rw [← hports]
  rfl

theorem quiet_withCopies {s : State} (h : s.Quiet) (kind : Byte) (lot : Half) (payload : List Byte) (l : List (Fin 64)) :
    (s.withCopies kind lot payload l).Quiet :=
  ⟨(s.held_withPorts _).trans h.1, fun c => by rw [ports_withCopies]; exact h.2 c⟩

theorem traffic_withCopies (s : State) (kind : Byte) (lot : Half) (payload : List Byte) (l : List (Fin 64)) :
    (s.withCopies kind lot payload l).traffic = s.traffic := by
  simp only [State.traffic, State.withCopies, State.withPorts]

/-- A through-frame whose copies are all made. -/
theorem leaves_copies {dst : Half} {kind : Byte} {lot : Half} {payload : List Byte} {s : State} {l : List (Fin 64)}
    (h : s.TakesUplink) (hlen : payload.length ≤ 1024) (hk : kind ≠ 0x20#8) (hk' : kind ≠ 0x21#8) (hfree : 129 ≤ s.free)
    (hroom : ∀ c : CellNo, s.link.ports[c].up = true ∧ s.link.ports[c].downlink.length ≤ 6)
    (hl : s.throughStations dst = some l) (hsub : l.Sublist (List.finRange 64)) :
    Leaves (.throughFrame dst kind lot payload) s (s.withCopies kind lot payload l).records := by
  have hserve : serveThrough dst kind lot payload s.newEvent = s.newEvent.withCopies kind lot payload l := by
    rw [serveThrough_eq hlen, show s.newEvent.throughStations dst = some l from hl]
    dsimp only
    rw [if_neg (by rintro (e | e); exacts [hk e, hk' e])]
    exact (makeCopies (s := s.newEvent) hfree hroom l hsub).1
  have hserve' : serveUplink (.throughFrame dst kind lot payload) s.newEvent = _ := hserve
  refine leaves_of_uplink rfl h rfl ?_ ?_ ?_ <;> rw [hserve']
  · exact quiet_withCopies (quiet_newEvent h.1) ..
  · rw [records_withCopies, records_withCopies]
    rfl
  · rw [traffic_withCopies, traffic_newEvent]

/-- R182: a copy for which there is no room is dropped. -/
theorem makeCopy_dropped {s : State} {i : Fin 64} (h : s.copyGranted (stationCell i) = false) (kind : Byte) (lot : Half)
    (payload : List Byte) :
    State.makeCopy kind lot payload s i
      = s.onBay fun _ b => b.countCell (stationCell i) fun k => { k with drops := bump16 k.drops } :=
  if_neg (by rw [h]; decide)

/-- Settles O43: the destination names its stations (`destOf`), the copies are made one after another, and a destination that
names none, or a kind that goes to no cell station, leaves a stray. -/
theorem throughFrames : Obligations.ThroughFrames := by
  refine ⟨fun dst kind lot payload s hs hlen hk hk' hp hfree hroom => ?copied, fun dst kind lot payload s hs hlen h1 hp => ?rest⟩
  case copied =>
    intro station copy copied
    have hcopied (member : Fin 64 → Bool) (l : List (Fin 64)) (hl : s.throughStations dst = some l)
        (hm : l = (List.finRange 64).filter member) : copied member := by
      have hleaves := leaves_copies hs hlen hk hk' hfree hroom hl (hm ▸ List.filter_sublist) (lot := lot)
      have hfilter (c : CellNo) : (l.filter fun i => stationCell i = c)
          = (List.finRange 64).filter fun i => member i && decide (i.val / 2 = c.val) := by
        rw [hm, List.filter_filter]
        refine List.filter_congr fun i _ => ?_
        rw [Bool.and_comm]
        exact congrArg (member i && ·) (decide_eq_decide.2 Fin.ext_iff)
      rw [records_withCopies] at hleaves
      simp only [hfilter] at hleaves
      exact hleaves
    refine ⟨fun i hi => ?_, fun g hg hused => ?_, fun hall => ?_⟩
    · refine hcopied _ [i] (hi ▸ throughStations_cellStation hp i) ?_
      rw [List.filter_eq, List.count_eq_one_of_mem (List.nodup_finRange 64) (List.mem_finRange i)]
      rfl
    · refine hcopied _ ((List.finRange 64).filter s.tables.groups[g].holds) ?_ rfl
      rw [hg, throughStations_group hp, if_pos hused]
    · exact hcopied _ _ (hall ▸ throughStations_broadcast s) (by simp)
  case rest =>
    refine ⟨fun j c hj hc hk hk' hroom => ?dropped, ?stray⟩
    case dropped =>
      obtain rfl : stationCell j = c := Fin.ext hc.symm
      have hrefused : s.newEvent.copyGranted (stationCell j) = false := by
        rw [State.copyGranted, Bool.and_eq_false_iff, decide_eq_false_iff_not]
        rcases hroom with h | h | h
        · exact .inl h
        · exact .inr fun ⟨hfree, _⟩ => absurd h (not_le.2 hfree)
        · exact .inr fun ⟨_, hdepth⟩ => absurd h (not_le.2 hdepth)
      have hserve : serveUplink (.throughFrame dst kind lot payload) s.newEvent
          = s.newEvent.onBay fun _ b => b.countCell (stationCell j) fun k => { k with drops := bump16 k.drops } := by
        refine (serveThrough_eq hlen).trans ?_
        rw [hj, show s.newEvent.throughStations (s.part.station + BitVec.ofNat 16 (1 + j.val)) = some [j] from
          throughStations_cellStation hp j]
        dsimp only
        rw [if_neg (by rintro (e | e); exacts [hk e, hk' e]), List.foldl_cons, List.foldl_nil, makeCopy_dropped hrefused]
      refine leaves_of_uplink rfl hs rfl ?_ ?_ ?_ <;> rw [hserve]
      · exact hs.1
      · exact records_modCell s (stationCell j) fun r => { r with counters := { r.counters with drops := bump16 r.counters.drops } }
      · rfl
    case stray =>
      intro cell group request h
      have hnone (hn : s.throughStations dst = none) : serveUplink (.throughFrame dst kind lot payload) s.newEvent = s.newEvent.stray := by
        refine (serveThrough_eq hlen).trans ?_
        rw [show s.newEvent.throughStations dst = none from hn]
      have hrequest (l : List (Fin 64)) (hl : s.throughStations dst = some l) (hr : request) :
          serveUplink (.throughFrame dst kind lot payload) s.newEvent = s.newEvent.stray := by
        refine (serveThrough_eq hlen).trans ?_
        rw [show s.newEvent.throughStations dst = some l from hl]
        exact if_pos hr
      refine leaves_stray rfl hs rfl ?_
      rcases h with ⟨g, hg, hused⟩ | ⟨hnamed, hr⟩ | ⟨hpart, -⟩ | ⟨hcell, hgroup, hall, -, -⟩ | hzero
      · exact hnone (by rw [hg, throughStations_group hp, if_neg (by rw [hused]; decide)])
      · rcases hnamed with ⟨j, hj⟩ | ⟨g, hg, hused⟩ | hall
        · exact hrequest _ (hj ▸ throughStations_cellStation hp j) hr
        · exact hrequest _ (by rw [hg, throughStations_group hp, if_pos hused]) hr
        · exact hrequest _ (hall ▸ throughStations_broadcast s) hr
      · exact hnone (by rw [State.throughStations, hpart, destOf_part hp])
      · exact hnone (throughStations_eq_none hcell hgroup hall)
      · exact hnone (by rw [State.throughStations, hzero, destOf_zero h1])

end Sys2Proof.Machine

/-!
SUPPORT. The terms in which the effects of commands on lots and cells are computed: the bay less its owed notices and its stamped
lots (`Bay.bare`), the growth of those two (`Bay.Grows`), the two cases of `modLot` (R9), and a lot for which no IDLE cell
qualifies (`Bay.NoFit`), whose matches change nothing.
-/

namespace Sys2Proof.Machine

/-! ### The bay less its owed notices and its stamped lots -/

/-- All of a bay that the records of a state show. -/
def Bay.bare (b : Bay) : Bay := { b with notices := [], stamped := [] }

/-- The records of a state turn on its bay less its owed notices and its stamped lots. -/
theorem records_of_bare {s : State} {b b' : Bay} {r : Records} (h : b.bare = b') (hr : ({ s with bay := b' } : State).records = r) :
    ({ s with bay := b } : State).records = r := by
  rw [← hr, ← h]
  rfl

theorem Bay.lots_of_bare {b b' : Bay} (h : b.bare = b') : b.lots = b'.lots := by rw [← h]; rfl
theorem Bay.lot_of_bare {b b' : Bay} (h : b.bare = b') (l : LotNo) : b.lot l = b'.lot l := by rw [← h]; rfl
theorem Bay.queue_of_bare {b b' : Bay} (h : b.bare = b') : b.queue = b'.queue := by rw [← h]; rfl
theorem Bay.cells_of_bare {b b' : Bay} (h : b.bare = b') : b.cells = b'.cells := by rw [← h]; rfl
theorem Bay.cell_of_bare {b b' : Bay} (h : b.bare = b') (c : CellNo) : b.cell c = b'.cell c := by rw [← h]; rfl

@[simp] theorem Bay.bare_bare (b : Bay) : b.bare.bare = b.bare := rfl
@[simp] theorem Bay.lot_bare (b : Bay) (h : LotNo) : b.bare.lot h = b.lot h := rfl
@[simp] theorem Bay.cell_bare (b : Bay) (c : CellNo) : b.bare.cell c = b.cell c := rfl
@[simp] theorem Bay.bare_newEvent (s : State) : s.newEvent.bay.bare = s.bay.bare := rfl

@[simp] theorem Bay.bare_setCell (b : Bay) (c : CellNo) (r : CellRec) : (b.setCell c r).bare = b.bare.setCell c r := rfl
@[simp] theorem Bay.bare_setLot (b : Bay) (h : LotNo) (l : LotRec) : (b.setLot h l).bare = b.bare.setLot h l := rfl

@[simp] theorem Bay.bare_owe (b : Bay) (n : Notice) : (b.owe n).bare = b.bare := by
  unfold Bay.owe
  split <;> rfl

@[simp] theorem Bay.bare_modCell (b : Bay) (c : CellNo) (f : CellRec → CellRec) :
    (b.modCell c f).bare = b.bare.setCell c (f (b.cell c)) := by
  unfold Bay.modCell
  split
  · rfl
  · rw [Bay.bare_owe, Bay.bare_setCell]

/-- R9: a lot's record with its stamp advanced. -/
def LotRec.restamped (l : LotRec) : LotRec := { l with stamp := l.stamp + 1 }

theorem Bay.bare_stampLot_of_not_mem {b : Bay} {h : LotNo} (hs : h ∉ b.stamped) :
    (b.stampLot h).bare = b.bare.setLot h (b.lot h).restamped := by
  unfold Bay.stampLot
  rw [if_neg hs, Bay.bare_owe]
  rfl

/-- A bay with another dispatch queue. -/
def Bay.withQueue (b : Bay) (q : List LotNo) : Bay := { b with queue := q }

@[simp] theorem Bay.bare_withQueue (b : Bay) (q : List LotNo) : (b.withQueue q).bare = b.bare.withQueue q := rfl

theorem Bay.withQueue_setLot (b : Bay) (h : LotNo) (l : LotRec) (q : List LotNo) :
    (b.setLot h l).withQueue q = (b.withQueue q).setLot h l := rfl

theorem Bay.withQueue_setCell (b : Bay) (c : CellNo) (r : CellRec) (q : List LotNo) :
    (b.setCell c r).withQueue q = (b.withQueue q).setCell c r := rfl

theorem Bay.setLot_setCell (b : Bay) (h : LotNo) (l : LotRec) (c : CellNo) (r : CellRec) :
    (b.setCell c r).setLot h l = (b.setLot h l).setCell c r := rfl

theorem Bay.withQueue_withQueue (b : Bay) (q q' : List LotNo) : (b.withQueue q).withQueue q' = b.withQueue q' := rfl

theorem Bay.withQueue_self (b : Bay) : b.withQueue b.queue = b := rfl

theorem Bay.setLot_setLot (b : Bay) (h : LotNo) (l l' : LotRec) : (b.setLot h l).setLot h l' = b.setLot h l' := by
  simp only [Bay.setLot, Vector.set_set]

theorem Bay.setCell_setCell (b : Bay) (c : CellNo) (r r' : CellRec) : (b.setCell c r).setCell c r' = b.setCell c r' := by
  simp only [Bay.setCell, Vector.set_set]

theorem Bay.setLot_self (b : Bay) (h : LotNo) : b.setLot h (b.lot h) = b := by simp [Bay.setLot, Bay.lot]

theorem Bay.setCell_self (b : Bay) (c : CellNo) : b.setCell c (b.cell c) = b := by simp [Bay.setCell, Bay.cell]

/-- R9: a change of nothing that the stamp follows. -/
theorem Bay.modLot_same {b : Bay} {h : LotNo} {f : LotRec → LotRec} (hf : (f (b.lot h)).followed = (b.lot h).followed) :
    b.modLot h f = b.setLot h (f (b.lot h)) := if_pos hf

/-- R9: a further change of a lot in an event that has advanced its stamp. -/
theorem Bay.modLot_again {b : Bay} {h : LotNo} {f : LotRec → LotRec} (hs : h ∈ b.stamped) :
    b.modLot h f = b.setLot h (f (b.lot h)) := by
  unfold Bay.modLot
  split
  · rfl
  · exact Bay.stampLot_of_mem hs

/-- R9: the first followed change of a lot in an event. -/
theorem Bay.bare_modLot_first {b : Bay} {h : LotNo} {f : LotRec → LotRec} (hf : (f (b.lot h)).followed ≠ (b.lot h).followed)
    (hs : h ∉ b.stamped) : (b.modLot h f).bare = b.bare.setLot h (f (b.lot h)).restamped := by
  unfold Bay.modLot
  have hs' : h ∉ (b.setLot h (f (b.lot h))).stamped := hs
  rw [if_neg hf, Bay.bare_stampLot_of_not_mem hs', Bay.lot_setLot_self, Bay.bare_setLot, Bay.setLot_setLot]

theorem Bay.stamped_modLot_first {b : Bay} {h : LotNo} {f : LotRec → LotRec} (hf : (f (b.lot h)).followed ≠ (b.lot h).followed) :
    h ∈ (b.modLot h f).stamped := by
  rw [Bay.stamped_modLot]
  split
  · next hc => exact hc.resolve_left hf
  · exact List.mem_cons_self

theorem Bay.owed_modLot_first {b : Bay} {h : LotNo} {f : LotRec → LotRec} (hf : (f (b.lot h)).followed ≠ (b.lot h).followed)
    (hs : h ∉ b.stamped) : .lotState h ∈ (b.modLot h f).notices := Bay.mem_notices_modLot.2 (.inl ⟨rfl, hf, hs⟩)

/-- Whatever `modLot` writes, the bay less its notices and stamps is written at that lot alone. -/
theorem Bay.bare_modLot (b : Bay) (h : LotNo) (f : LotRec → LotRec) :
    (b.modLot h f).bare = b.bare.setLot h ((b.modLot h f).lot h) := by
  by_cases hf : (f (b.lot h)).followed = (b.lot h).followed
  · rw [Bay.modLot_same hf, Bay.bare_setLot, Bay.lot_setLot_self]
  · by_cases hs : h ∈ b.stamped
    · rw [Bay.modLot_again hs, Bay.bare_setLot, Bay.lot_setLot_self]
    · rw [Bay.bare_modLot_first hf hs, Bay.lot_modLot_self, stampedRec, if_neg (not_or.2 ⟨hf, by simpa using hs⟩)]
      rfl

/-! ### What an event adds to the owed notices and the stamped lots -/

/-- The owed notices and the stamped lots of a bay are those of an earlier one, and more. -/
def Bay.Grows (b b' : Bay) : Prop := (∀ n ∈ b.notices, n ∈ b'.notices) ∧ ∀ h ∈ b.stamped, h ∈ b'.stamped

theorem Bay.Grows.refl (b : Bay) : b.Grows b := ⟨fun _ h => h, fun _ h => h⟩

theorem Bay.Grows.trans {b b' b'' : Bay} (h : b.Grows b') (h' : b'.Grows b'') : b.Grows b'' :=
  ⟨fun n hn => h'.1 n (h.1 n hn), fun l hl => h'.2 l (h.2 l hl)⟩

theorem Bay.Grows.of_eq {b b' : Bay} (hn : b'.notices = b.notices) (hs : b'.stamped = b.stamped) : b.Grows b' :=
  ⟨fun _ h => hn ▸ h, fun _ h => hs ▸ h⟩

theorem Bay.Grows.modLot (b : Bay) (h : LotNo) (f : LotRec → LotRec) : b.Grows (b.modLot h f) := by
  refine ⟨fun n hn => Bay.mem_notices_modLot.2 (.inr hn), fun l hl => ?_⟩
  rw [Bay.stamped_modLot]
  split
  · exact hl
  · exact List.mem_cons_of_mem _ hl

theorem Bay.Grows.modCell (b : Bay) (c : CellNo) (f : CellRec → CellRec) : b.Grows (b.modCell c f) :=
  ⟨fun _ hn => Bay.mem_notices_modCell.2 (.inr hn), fun _ hl => by rwa [Bay.stamped_modCell]⟩

theorem Bay.Grows.owe (b : Bay) (n : Notice) : b.Grows (b.owe n) :=
  ⟨fun _ hn => Bay.mem_notices_owe.2 (.inr hn), fun _ hl => by rwa [Bay.stamped_owe]⟩

theorem Bay.Grows.setCell (b : Bay) (c : CellNo) (r : CellRec) : b.Grows (b.setCell c r) := .of_eq rfl rfl

theorem Bay.Grows.leaveQueue (b : Bay) (h : LotNo) : b.Grows (b.leaveQueue h) :=
  .trans (b' := { b with queue := b.queue.filter (· ≠ h) }) (.of_eq rfl rfl) (.modLot ..)

theorem Bay.Grows.of_reloads {b b' : Bay} (h : b.Reloads b') : b.Grows b' := .of_eq h.notices h.stamped

theorem Bay.Grows.foldl {α : Type} {f : Bay → α → Bay} (hf : ∀ (b : Bay) (a : α), b.Grows (f b a)) :
    ∀ (l : List α) (b : Bay), b.Grows (l.foldl f b)
  | [], b => .refl b
  | a :: l, b => (hf b a).trans (Bay.Grows.foldl hf l (f b a))

theorem Bay.Grows.makeOffer (x : Ctx) (b : Bay) (c : CellNo) (k : SlotNo) : b.Grows (b.makeOffer x c k) := by
  unfold Bay.makeOffer
  split
  · exact .refl b
  · exact .modCell ..

theorem Bay.Grows.startLoad (x : Ctx) (b : Bay) (c : CellNo) (e : CatalogueEntry) : b.Grows (b.startLoad x c e) :=
  (Bay.Grows.modCell ..).trans (.of_reloads (.placeLoad ..))

theorem Bay.Grows.cutOpen (x : Ctx) (b : Bay) (h : LotNo) (c : CellNo) : b.Grows (b.cutOpen x h c) := by
  have hoffer (b : Bay) (p : Half) : b.Grows (b.offerOrLoad x c p) := by
    unfold Bay.offerOrLoad
    split
    · exact .makeOffer ..
    · split
      · exact .startLoad ..
      · exact .refl b
  have hrotate (b : Bay) : b.Grows (b.rotate x c) := by
    unfold Bay.rotate
    split
    · exact .of_eq rfl rfl
    · exact .refl b
  exact .trans (b' := b.drawn) (.of_eq rfl rfl) ((((Bay.Grows.modLot ..).trans (.modCell ..)).trans (hoffer _ _)).trans (hrotate _))

theorem Bay.Grows.cut (x : Ctx) (b : Bay) (h : LotNo) (c : CellNo) : b.Grows (b.cut x h c) := by
  rw [Bay.cut_eq]
  split
  · exact ((Bay.Grows.cutOpen ..).trans (.modLot ..)).trans (.leaveQueue ..)
  · exact .cutOpen ..

theorem Bay.Grows.matchLotUpTo (x : Ctx) (h : LotNo) : ∀ (n : Nat) (b : Bay), b.Grows (b.matchLotUpTo x n h)
  | 0, b => .refl b
  | n + 1, b => by
    rw [Bay.matchLotUpTo]
    split
    · split
      · exact (Bay.Grows.cut ..).trans (Bay.Grows.matchLotUpTo x h n _)
      · exact .refl b
    · exact .refl b

theorem Bay.Grows.matchLot (x : Ctx) (b : Bay) (h : LotNo) : b.Grows (b.matchLot x h) := .matchLotUpTo x h 32 b

theorem Bay.Grows.matchCell (x : Ctx) (b : Bay) (c : CellNo) : b.Grows (b.matchCell x c) := by
  unfold Bay.matchCell
  split
  · exact .cut ..
  · exact .refl b

theorem Bay.Grows.matchCells (x : Ctx) (b : Bay) (cs : List CellNo) : b.Grows (b.matchCells x cs) :=
  .foldl (fun b c => .matchCell x b c) cs b

theorem Bay.Grows.joinQueue (x : Ctx) (b : Bay) (h : LotNo) : b.Grows (b.joinQueue x h) :=
  .trans (b' := b.enqueue h) (.of_eq rfl rfl) ((Bay.Grows.modLot ..).trans (.matchLot ..))

theorem Bay.Grows.raiseEntry (x : Ctx) (b : Bay) (h : LotNo) (kind : HoldKind) (origin : HoldOrigin) (detail : HoldDetail) :
    b.Grows (b.raiseEntry x h kind origin detail) := by
  rw [Bay.raiseEntry_eq]
  split
  · dsimp only
    split
    · exact .modLot ..
    · exact ((Bay.Grows.modLot ..).trans (.modLot ..)).trans (.leaveQueue ..)
  · exact .refl b

theorem Bay.Grows.openActive (x : Ctx) (b : Bay) (h : LotNo) (k : Nat) : b.Grows (b.openActive x h k) := by
  unfold Bay.openActive
  split
  · exact .raiseEntry ..
  · exact .joinQueue ..

theorem Bay.Grows.openStep (x : Ctx) (h : LotNo) : ∀ (n : Nat) (b : Bay) (k : Nat), b.Grows (Bay.openStep x n b h k)
  | 0, b, k => by
    rw [Bay.openStep_eq]
    unfold Bay.openNext
    split
    · split
      · exact (Bay.Grows.modLot ..).trans (.modLot ..)
      · exact ((Bay.Grows.modLot ..).trans (.modLot ..)).trans (.modLot ..)
    · exact (Bay.Grows.modLot ..).trans (.openActive ..)
  | n + 1, b, k => by
    rw [Bay.openStep_eq]
    unfold Bay.openNext
    split
    · split
      · exact ((Bay.Grows.modLot ..).trans (.modLot ..)).trans (Bay.Grows.openStep x h n _ _)
      · exact ((Bay.Grows.modLot ..).trans (.modLot ..)).trans (.modLot ..)
    · exact (Bay.Grows.modLot ..).trans (.openActive ..)

theorem Bay.Grows.advance (x : Ctx) (b : Bay) (h : LotNo) : b.Grows (b.advance x h) := by
  unfold Bay.advance
  dsimp only
  split
  · exact (Bay.Grows.modLot ..).trans (.openStep ..)
  · exact (Bay.Grows.modLot ..).trans (.modLot ..)

theorem Bay.Grows.raiseEntries (x : Ctx) (h : LotNo) : ∀ (raises : List (HoldKind × HoldOrigin × HoldDetail)) (b : Bay),
    b.Grows (b.raiseEntries x h raises)
  | [], b => .refl b
  | r :: raises, b => (Bay.Grows.raiseEntry x b h r.1 r.2.1 r.2.2).trans (Bay.Grows.raiseEntries x h raises _)

theorem Bay.Grows.evaluate (x : Ctx) (b : Bay) (h : LotNo) : b.Grows (b.evaluate x h) := by
  have hraise := Bay.Grows.raiseEntries x h (b.closing x h) b
  rw [Bay.evaluate_eq]
  split
  · exact (hraise.trans (.modLot ..)).trans (.advance ..)
  · exact hraise.trans (.modLot ..)

theorem Bay.Grows.afterGiven (x : Ctx) (b : Bay) (h : LotNo) : b.Grows (b.afterGiven x h) := by
  unfold Bay.afterGiven
  split
  · split
    · exact .matchLot ..
    · exact .refl b
  · split
    · exact (Bay.Grows.modLot ..).trans (.joinQueue ..)
    · split
      · exact .evaluate ..
      · exact .refl b
  · split
    · split
      · exact .modLot ..
      · split
        · exact .evaluate ..
        · exact .refl b
    · exact .refl b
  · split
    · exact .modLot ..
    · exact .refl b
  · exact .refl b

theorem Bay.Grows.giveBack (x : Ctx) (b : Bay) (h : LotNo) (amount : Nat) : b.Grows (b.giveBack x h amount) := by
  rw [Bay.giveBack_eq]
  exact (Bay.Grows.modLot ..).trans (.afterGiven ..)

theorem Bay.Grows.dropAssignment (b : Bay) (c : CellNo) : b.Grows (b.dropAssignment c) := by
  unfold Bay.dropAssignment
  split
  · exact .refl b
  · exact (Bay.Grows.modCell ..).trans (.modLot ..)

theorem Bay.Grows.returnSublot (x : Ctx) (b : Bay) (c : CellNo) : b.Grows (b.returnSublot x c) := by
  unfold Bay.returnSublot
  split
  · exact .refl b
  · exact (Bay.Grows.dropAssignment ..).trans (.giveBack ..)

theorem Bay.Grows.withdrawDue (b : Bay) (c : CellNo) (id : Half) (lot : Option LotNo) : b.Grows (b.withdrawDue c id lot) := by
  rw [Bay.withdrawDue_eq]
  exact .setCell ..

theorem Bay.Grows.withdrawOffer (x : Ctx) (b : Bay) (c : CellNo) (after : CellState) : b.Grows (b.withdrawOffer x c after) := by
  unfold Bay.withdrawOffer
  dsimp only
  split
  · exact .modCell ..
  · exact ((Bay.Grows.modCell ..).trans (.withdrawDue ..)).trans (.returnSublot ..)

theorem Bay.Grows.pauseDue (b : Bay) (c : CellNo) : b.Grows (b.pauseDue c) := by
  unfold Bay.pauseDue
  split
  · exact .refl b
  · exact .modCell ..

theorem Bay.Grows.holdCell (x : Ctx) (h : LotNo) (acc : Bay × List CellNo) (c : CellNo) :
    acc.1.Grows (Bay.holdCell x h acc c).1 := by
  unfold Bay.holdCell
  dsimp only
  split
  · split
    · exact .withdrawOffer ..
    · exact .returnSublot ..
    · split
      · exact .pauseDue ..
      · exact .refl _
    · exact .refl _
  · exact .refl _

theorem Bay.Grows.foldlPair {α : Type} {f : Bay × List CellNo → α → Bay × List CellNo}
    (hf : ∀ (acc : Bay × List CellNo) (a : α), acc.1.Grows (f acc a).1) :
    ∀ (l : List α) (acc : Bay × List CellNo), acc.1.Grows (l.foldl f acc).1
  | [], acc => .refl acc.1
  | a :: l, acc => (hf acc a).trans (Bay.Grows.foldlPair hf l (f acc a))

theorem Bay.Grows.raise (x : Ctx) (b : Bay) (h : LotNo) (kind : HoldKind) (origin : HoldOrigin) (detail : HoldDetail) :
    b.Grows (b.raise x h kind origin detail) := by
  rw [Bay.raise_eq]
  split
  · exact ((Bay.Grows.raiseEntry ..).trans
      (.foldlPair (Bay.Grows.holdCell x h) allCells (b.raiseEntry x h kind origin detail, []))).trans (.matchCells ..)
  · exact .refl b

/-! ### Lots for which no IDLE cell qualifies (R58, R61, R62) -/

/-- R75: a program has an entry only if a catalogue entry names it. -/
theorem Tables.entryOf_eq_none {t : Tables} {p : Half}
    (h : ∀ (j : Fin 128) (e : CatalogueEntry), t.catalogue[j] = some e → e.program ≠ p) : t.entryOf p = none := by
  unfold Tables.entryOf
  rw [List.find?_eq_none]
  intro e he
  obtain ⟨o, ho, hoe⟩ := List.mem_filterMap.1 he
  obtain ⟨j, hj, rfl⟩ := List.mem_iff_getElem.1 ho
  have hj' : j < 128 := by simpa using hj
  have := h ⟨j, hj'⟩ e (by simpa using hoe)
  simpa using this

/-- R75: the entry of a program that the catalogue has once. -/
theorem State.Catalogued.entryOf {s : State} {p : Half} {e : CatalogueEntry} (h : s.Catalogued p e) : s.tables.entryOf p = some e := by
  obtain ⟨hp, ⟨j, hj⟩, hone⟩ := h
  unfold Tables.entryOf
  have hmem : e ∈ s.tables.catalogue.toList.filterMap id := by
    rw [List.mem_filterMap]
    refine ⟨some e, ?_, rfl⟩
    rw [← hj]
    simp
  cases hf : (s.tables.catalogue.toList.filterMap id).find? (fun e => e.program = p) with
  | none =>
    rw [List.find?_eq_none] at hf
    exact absurd (decide_eq_true hp) (by simpa using hf e hmem)
  | some o =>
    have hop : o.program = p := by simpa using List.find?_some hf
    obtain ⟨v, hv, hvo⟩ := List.mem_filterMap.1 (List.mem_of_find?_eq_some hf)
    obtain ⟨i, hi, rfl⟩ := List.mem_iff_getElem.1 hv
    have hi' : i < 128 := by simpa using hi
    rw [hone ⟨i, hi'⟩ o (by simpa using hvo) hop]

theorem Bay.tier_of_fitsNot {x : Ctx} {b : Bay} {h : LotNo} {c : CellNo} (hf : (b.cell c).FitsNot x.tables (b.lot h) h) :
    b.tier x h c = none := by
  unfold Bay.tier
  dsimp only
  rw [CellRec.FitsNot, show (b.lot h).stepIndex.getD 0 = (b.lot h).openIndex from rfl] at hf
  split
  · next hq =>
    obtain ⟨_, _, _, hkit0, hkit, hsites, hexc, _, hentry⟩ := hq
    rcases hf with h1 | h1 | h1 | h1 | h1 | h1
    · exact absurd h1 hkit0
    · exact absurd hkit h1
    · exact absurd hsites (Nat.not_le.2 h1)
    · exact absurd h1 hexc
    · rw [if_neg h1.1, if_neg (by rw [h1.2]; decide)]
    · rw [Tables.entryOf_eq_none h1] at hentry
      cases hentry
  · rfl

/-- No IDLE cell of a bay qualifies for a lot. -/
def Bay.NoFit (x : Ctx) (b : Bay) (h : LotNo) : Prop := ∀ c, (b.cell c).state = .idle → (b.cell c).FitsNot x.tables (b.lot h) h

theorem State.NoIdle.noFit {s : State} (hs : s.NoIdle) (x : Ctx) {b : Bay} (hb : b.cells = s.bay.cells) (h : LotNo) :
    b.NoFit x h := by
  intro c hc
  rw [Bay.cell, hb] at hc
  exact absurd hc (hs c)

/-- What of a lot's record a cell's qualification turns on does not change. -/
theorem CellRec.FitsNot.of_lot {r : CellRec} {t : Tables} {l l' : LotRec} {h : LotNo} (hf : r.FitsNot t l h)
    (hr : l'.route = l.route) (hk : l'.stepIndex = l.stepIndex) (hc : l'.cls = l.cls) : r.FitsNot t l' h := by
  unfold CellRec.FitsNot LotRec.routeStep at hf ⊢
  rw [hr, hk, hc]
  exact hf

theorem Bay.NoFit.of_lot {x : Ctx} {b b' : Bay} {h : LotNo} (hb : b.NoFit x h) (hcells : b'.cells = b.cells)
    (hr : (b'.lot h).route = (b.lot h).route) (hk : (b'.lot h).stepIndex = (b.lot h).stepIndex)
    (hc : (b'.lot h).cls = (b.lot h).cls) : b'.NoFit x h := by
  intro c hi
  have hcell : b'.cell c = b.cell c := by simp only [Bay.cell, hcells]
  rw [hcell] at hi ⊢
  exact (hb c hi).of_lot hr hk hc

theorem Bay.NoFit.tier {x : Ctx} {b : Bay} {h : LotNo} (hb : b.NoFit x h) (c : CellNo) : b.tier x h c = none := by
  by_cases hi : (b.cell c).state = .idle
  · exact Bay.tier_of_fitsNot (hb c hi)
  · by_contra hn
    exact hi (Bay.of_tier (Option.isSome_iff_ne_none.2 hn)).2

/-- R62: the match of a lot for which no IDLE cell qualifies. -/
theorem Bay.matchLot_noFit {x : Ctx} {b : Bay} {h : LotNo} (hb : b.NoFit x h) : b.matchLot x h = b := by
  have hnone : b.chooseCell x h = none := by
    cases hc : b.chooseCell x h with
    | none => rfl
    | some c =>
      have := Bay.tier_chooseCell hc
      rw [hb.tier c] at this
      cases this
  unfold Bay.matchLot
  rw [Bay.matchLotUpTo, hnone]
  split <;> rfl

/-- R58: no cell qualifies for a lot that is not queued. -/
theorem Bay.matchLot_unqueued {x : Ctx} {b : Bay} {h : LotNo} (hq : h ∉ b.queue) : b.matchLot x h = b := by
  have hnone : b.chooseCell x h = none := by
    cases hc : b.chooseCell x h with
    | none => rfl
    | some c => exact absurd (Bay.of_tier (Bay.tier_chooseCell hc)).1 hq
  unfold Bay.matchLot
  rw [Bay.matchLotUpTo, hnone]
  split <;> rfl

/-- R61: the match of a cell that qualifies for no lot of the queue. -/
theorem Bay.matchCell_noFit {x : Ctx} {b : Bay} {c : CellNo}
    (hb : ∀ h ∈ b.queue, (b.cell c).state = .idle → (b.cell c).FitsNot x.tables (b.lot h) h) : b.matchCell x c = b := by
  unfold Bay.matchCell
  have hnone : (b.queue.find? fun h => (b.tier x h c).isSome) = none := by
    rw [List.find?_eq_none]
    intro h hq ht
    by_cases hi : (b.cell c).state = .idle
    · rw [Bay.tier_of_fitsNot (hb h hq hi)] at ht
      cases ht
    · exact hi (Bay.of_tier ht).2
  rw [hnone]

theorem Bay.matchCell_empty {x : Ctx} {b : Bay} {c : CellNo} (hq : b.queue = []) : b.matchCell x c = b :=
  Bay.matchCell_noFit (by simp [hq])

theorem Bay.matchCells_empty {x : Ctx} {b : Bay} (hq : b.queue = []) (cs : List CellNo) : b.matchCells x cs = b := by
  unfold Bay.matchCells
  induction cs with
  | nil => rfl
  | cons c cs ih => rw [List.foldl_cons, Bay.matchCell_empty hq, ih]

/-! ### Joining the dispatch queue (R51 to R54) -/

theorem List.takeWhile_congr {α : Type} {p q : α → Bool} : ∀ {l : List α}, (∀ a ∈ l, p a = q a) → l.takeWhile p = l.takeWhile q
  | [], _ => rfl
  | a :: l, h => by
    rw [List.takeWhile_cons, List.takeWhile_cons, h a List.mem_cons_self,
      List.takeWhile_congr fun b hb => h b (List.mem_cons_of_mem _ hb)]

theorem List.dropWhile_congr {α : Type} {p q : α → Bool} : ∀ {l : List α}, (∀ a ∈ l, p a = q a) → l.dropWhile p = l.dropWhile q
  | [], _ => rfl
  | a :: l, h => by
    rw [List.dropWhile_cons, List.dropWhile_cons, h a List.mem_cons_self,
      List.dropWhile_congr fun b hb => h b (List.mem_cons_of_mem _ hb)]

theorem queuedBefore_congr {l l' m m' : LotRec} {h h' : LotNo} (hc : l'.cls = l.cls) (ht : l'.queuedAt = l.queuedAt)
    (hc' : m'.cls = m.cls) (ht' : m'.queuedAt = m.queuedAt) : queuedBefore l' h m' h' = queuedBefore l h m h' := by
  unfold queuedBefore
  rw [hc, hc', ht, ht']

/-- R51: the place of a lot in the queue turns on its class and queued-at alone. -/
theorem State.placed_congr (s : State) (q : List LotNo) (h : LotNo) {l l' : LotRec} (hc : l'.cls = l.cls)
    (ht : l'.queuedAt = l.queuedAt) : s.placed q h l' = s.placed q h l := by
  unfold State.placed
  simp only [queuedBefore_congr rfl rfl hc ht]

/-- R51: the queue that a lot has joined. -/
theorem Bay.queue_enqueue {s : State} {b : Bay} {h : LotNo} (hb : ∀ h', h' ≠ h → b.lot h' = s.bay.lot h') :
    (b.enqueue h).queue = s.placed b.queue h (b.lot h) := by
  have hsame : ∀ h' ∈ b.queue.filter (· ≠ h), b.ahead h' h = queuedBefore (s.bay.lot h') h' (b.lot h) h := by
    intro h' hm
    rw [Bay.ahead_eq, hb h' (by simpa using (List.mem_filter.1 hm).2)]
  show (b.queue.filter (· ≠ h)).takeWhile (b.ahead · h) ++ h :: (b.queue.filter (· ≠ h)).dropWhile (b.ahead · h) = _
  rw [List.takeWhile_congr hsame, List.dropWhile_congr hsame]
  rfl

theorem State.ageOf_eq (s : State) (l : LotRec) : s.ctx.ageDeadline l = s.ageOf l := by
  unfold State.ageOf Ctx.ageDeadline
  rfl

/-- R54: a lot with the age deadline it forms as it joins the queue. -/
def State.withAge (s : State) (l : LotRec) : LotRec := { l with ageDeadline := s.ageOf l }

/-- R52: a lot joins the queue, no IDLE cell qualifying for it. -/
theorem Bay.bare_joinQueue {s : State} {b : Bay} {h : LotNo} (hb : ∀ h', h' ≠ h → b.lot h' = s.bay.lot h')
    (hfit : b.NoFit s.ctx h) :
    (b.joinQueue s.ctx h).bare = (b.bare.withQueue (s.placed b.queue h (b.lot h))).setLot h (s.withAge (b.lot h)) := by
  have hmod : (b.enqueue h).modLot h (fun l => { l with ageDeadline := s.ctx.ageDeadline l })
      = (b.enqueue h).setLot h (s.withAge (b.lot h)) := Bay.modLot_same rfl
  unfold Bay.joinQueue
  rw [hmod, Bay.matchLot_noFit, Bay.bare_setLot, ← Bay.queue_enqueue hb]
  · rfl
  · exact hfit.of_lot (b := b) rfl (by rw [Bay.lot_setLot_self]; rfl) (by rw [Bay.lot_setLot_self]; rfl)
      (by rw [Bay.lot_setLot_self]; rfl)

/-! ### The return of a sublot's quantity (R29, R72, R73, Table 3-3) -/

/-- R73: a HELD lot whose saved state is ACTIVE again. -/
def LotRec.savedActive (l : LotRec) : LotRec := { l with saved := some .active }

/-- R21: a lot that has been aborted. -/
def LotRec.toAborted (l : LotRec) : LotRec := { l with state := .aborted }

/-- Table 3-3 for a lot whose record is `l` once its amount has been returned: its record and the dispatch queue, no IDLE cell
qualifying for it and the close of its step not being reached. -/
def State.givenTo (s : State) (h : LotNo) (l : LotRec) : LotRec × List LotNo :=
  match l.state with
  | .closing =>
    if 0 < l.remaining then
      let n := s.withAge l.toActive.restamped
      (n, s.placed s.bay.queue h n)
    else (l, s.bay.queue)
  | .held =>
    if l.saved = some .closing ∧ 0 < l.remaining then (l.savedActive.restamped, s.bay.queue)
    else (l, s.bay.queue)
  | .aborting => (if l.openSublots = 0 then l.toAborted.restamped else l, s.bay.queue)
  | _ => (l, s.bay.queue)

/-- A lot from whose open sublots one has gone. -/
def LotRec.oneClosed (l : LotRec) : LotRec := { l with openSublots := l.openSublots - 1 }

theorem State.returned_eq (s : State) (h : LotNo) (amount : Nat) :
    s.returned h amount = s.givenTo h ((s.bay.lot h).oneClosed.given amount) := by
  unfold State.returned State.givenTo
  generalize s.bay.lot h = l
  cases hl : l.state <;> rfl

/-- R6, R147: the record of a lot to which an amount has been returned is not at the close of its step. -/
def LotRec.StaysOpen (l : LotRec) : Prop := 0 < l.remaining ∨ 0 < l.openSublots

theorem State.KeepsOpen.staysOpen {s : State} {h : LotNo} {amount : Nat} (hk : s.KeepsOpen h amount) :
    ((s.bay.lot h).oneClosed.given amount).StaysOpen := by
  unfold State.KeepsOpen at hk
  unfold LotRec.StaysOpen LotRec.given LotRec.oneClosed
  dsimp only
  omega

/-- R73: the return of an amount, as Table 3-3 has it, no IDLE cell qualifying for the lot if it ends in the queue. -/
theorem Bay.bare_giveBack_of {s : State} {b : Bay} {h : LotNo} {amount : Nat} (hlots : ∀ h', h' ≠ h → b.lot h' = s.bay.lot h')
    (hq : b.queue = s.bay.queue) (hs : h ∉ b.stamped) (hopen : ((b.lot h).given amount).StaysOpen)
    (hfit : h ∈ (s.givenTo h ((b.lot h).given amount)).2 → b.NoFit s.ctx h) :
    (b.giveBack s.ctx h amount).bare
      = (b.bare.withQueue (s.givenTo h ((b.lot h).given amount)).2).setLot h (s.givenTo h ((b.lot h).given amount)).1 := by
  rw [Bay.giveBack_eq, Bay.modLot_same rfl]
  generalize hg : (b.lot h).given amount = l at hopen hfit ⊢
  have hroute : l.route = (b.lot h).route ∧ l.stepIndex = (b.lot h).stepIndex ∧ l.cls = (b.lot h).cls := by
    rw [← hg]
    exact ⟨rfl, rfl, rfl⟩
  have hself : (b.setLot h l).lot h = l := Bay.lot_setLot_self ..
  have hset : (b.setLot h l).bare = (b.bare.withQueue s.bay.queue).setLot h l := by rw [← hq]; rfl
  have hfit' (hm : h ∈ (s.givenTo h l).2) : (b.setLot h l).NoFit s.ctx h :=
    (hfit hm).of_lot rfl (by rw [hself]; exact hroute.1) (by rw [hself]; exact hroute.2.1) (by rw [hself]; exact hroute.2.2)
  have hclose : ¬(l.openSublots = 0 ∧ ¬0 < l.remaining) := by
    unfold LotRec.StaysOpen at hopen
    omega
  have hs' : h ∉ (b.setLot h l).stamped := hs
  have hmod {f : LotRec → LotRec} (hf : (f l).followed ≠ l.followed) :
      ((b.setLot h l).modLot h f).bare = (b.bare.withQueue s.bay.queue).setLot h (f l).restamped := by
    rw [Bay.bare_modLot_first (by rw [hself]; exact hf) hs', hself, hset, Bay.setLot_setLot]
  unfold Bay.afterGiven
  unfold State.givenTo at hfit' ⊢
  rw [hself]
  cases hst : l.state <;> rw [hst] at hfit'
  case active =>
    dsimp only at hfit' ⊢
    split
    · by_cases hm : h ∈ s.bay.queue
      · rw [Bay.matchLot_noFit (hfit' hm), hset]
      · rw [Bay.matchLot_unqueued (by rw [Bay.queue_setLot, hq]; exact hm), hset]
    · exact hset
  case closing =>
    dsimp only at hfit' ⊢
    split
    · next hpos =>
      rw [if_pos hpos] at hfit'
      have hfit' := hfit' (List.mem_append_right _ List.mem_cons_self)
      have hne : l.toActive.followed ≠ l.followed := by simp [LotRec.followed, LotRec.toActive, hst]
      have hlot : ((b.setLot h l).modLot h LotRec.toActive).lot h = l.toActive.restamped := by
        have := congrArg (Bay.lot · h) (hmod hne)
        simpa only [Bay.lot_bare, Bay.lot_setLot_self] using this
      rw [Bay.bare_joinQueue, hlot, hmod hne, Bay.queue_modLot]
      · rw [show (b.setLot h l).queue = s.bay.queue from hq, s.placed_congr _ h (l := l.toActive.restamped) rfl rfl]
        rw [Bay.withQueue_setLot, Bay.withQueue_withQueue, Bay.setLot_setLot]
        rfl
      · intro h' hne'
        rw [Bay.lot_modLot_ne _ _ hne'.symm, Bay.lot_setLot_ne _ _ hne'.symm, hlots h' hne']
      · exact hfit'.of_lot (Bay.cells_modLot ..) (by rw [hlot, hself]; rfl) (by rw [hlot, hself]; rfl) (by rw [hlot, hself]; rfl)
    · next hz => rw [if_neg (fun hc => hclose ⟨hc.1, hz⟩), hset]
  case held =>
    dsimp only
    by_cases hsv : l.saved = some .closing
    · simp only [hsv, if_true, true_and]
      split
      · exact hmod (f := LotRec.savedActive) (by simp [LotRec.followed, LotRec.savedActive, hsv])
      · next hz => rw [if_neg (fun hc => hclose ⟨hc.1, hz⟩), hset]
    · simp only [hsv, if_false, false_and]
      exact hset
  case aborting =>
    dsimp only
    split
    · exact hmod (f := LotRec.toAborted) (by simp [LotRec.followed, LotRec.toAborted, hst])
    · exact hset
  all_goals exact hset

theorem Bay.bare_giveBack {s : State} {b : Bay} {h : LotNo} {amount : Nat} (hlots : ∀ h', h' ≠ h → b.lot h' = s.bay.lot h')
    (hq : b.queue = s.bay.queue) (hs : h ∉ b.stamped) (hopen : ((b.lot h).given amount).StaysOpen) (hfit : b.NoFit s.ctx h) :
    (b.giveBack s.ctx h amount).bare
      = (b.bare.withQueue (s.givenTo h ((b.lot h).given amount)).2).setLot h (s.givenTo h ((b.lot h).given amount)).1 :=
  Bay.bare_giveBack_of hlots hq hs hopen fun _ => hfit

/-- The bay of a state, a sublot of lot `h` having ended with an amount to return. -/
def State.returnedBay (s : State) (b : Bay) (h : LotNo) (amount : Nat) : Bay :=
  (b.bare.withQueue (s.returned h amount).2).setLot h (s.returned h amount).1

/-- R29, R73: the removal of an assignment and the return of its quantity. -/
theorem Bay.bare_returnSublot {s : State} {b : Bay} {c : CellNo} {a : Assignment} (ha : (b.cell c).assignment = some a)
    (hlots : b.lots = s.bay.lots) (hq : b.queue = s.bay.queue) (hs : a.lot ∉ b.stamped) (hopen : s.KeepsOpen a.lot a.qty)
    (hfit : b.NoFit s.ctx a.lot) :
    (b.returnSublot s.ctx c).bare = (s.returnedBay b a.lot a.qty).setCell c { b.cell c with assignment := none } := by
  have hlot : b.lot a.lot = s.bay.lot a.lot := by simp only [Bay.lot, hlots]
  generalize hd : b.dropAssignment c = d
  have hdrop : d = (b.modCell c fun r => { r with assignment := none }).setLot a.lot (s.bay.lot a.lot).oneClosed := by
    rw [← hd]
    unfold Bay.dropAssignment
    rw [ha, ← hlot]
    dsimp only
    rw [Bay.modLot_same rfl]
    simp only [Bay.lot, Bay.lots_modCell]
    rfl
  have hdlot : d.lot a.lot = (s.bay.lot a.lot).oneClosed := by rw [hdrop, Bay.lot_setLot_self]
  have hcell (c' : CellNo) : (d.cell c').state = (b.cell c').state
      ∧ ∀ (l : LotRec) (h : LotNo), (b.cell c').FitsNot s.tables l h → (d.cell c').FitsNot s.tables l h := by
    rw [hdrop, Bay.cell_setLot]
    by_cases he : c = c'
    · subst he
      rw [Bay.cell_modCell_self]
      exact ⟨rfl, fun _ _ h => h⟩
    · rw [Bay.cell_modCell_ne _ _ he]
      exact ⟨rfl, fun _ _ h => h⟩
  unfold Bay.returnSublot
  rw [ha]
  dsimp only
  rw [hd, Bay.bare_giveBack (s := s) (h := a.lot), hdlot, ← State.returned_eq]
  · rw [hdrop, Bay.bare_setLot, Bay.bare_modCell, Bay.withQueue_setLot, Bay.setLot_setLot]
    rfl
  · intro h' hne
    rw [hdrop, Bay.lot_setLot_ne _ _ hne.symm, Bay.lot, Bay.lots_modCell, hlots]
  · rw [hdrop, Bay.queue_setLot, Bay.queue_modCell, hq]
  · rw [hdrop, Bay.stamped_setLot, Bay.stamped_modCell]
    exact hs
  · rw [hdlot]
    exact hopen.staysOpen
  · intro c' hi
    rw [hdlot]
    rw [(hcell c').1] at hi
    have := hfit c' hi
    rw [hlot] at this
    exact (hcell c').2 _ _ (this.of_lot rfl rfl rfl)

/-- R31: the removal of an assignment is a change of the cell. -/
theorem Bay.owed_returnSublot {x : Ctx} {b : Bay} {c : CellNo} {a : Assignment} (ha : (b.cell c).assignment = some a) :
    .cellState c ∈ (b.returnSublot x c).notices := by
  unfold Bay.returnSublot
  rw [ha]
  refine (Bay.Grows.giveBack ..).1 _ ?_
  unfold Bay.dropAssignment
  rw [ha]
  refine (Bay.Grows.modLot ..).1 _ (Bay.mem_notices_modCell.2 (.inl ⟨rfl, fun he => ?_⟩))
  have hsub : none = (b.cell c).assignment.map (·.id) := congrArg CellView.sublot he
  rw [ha] at hsub
  cases hsub

theorem CellRec.withdrawn_with (r : CellRec) (id : Half) (lot : Option LotNo) (st : CellState) (d : Option Nat)
    (a : Option Assignment) :
    { { r with state := st, offerDeadline := d }.withdrawn id lot with assignment := a }
      = { r.withdrawn id lot with state := st, offerDeadline := d, assignment := a } := by
  unfold CellRec.withdrawn
  dsimp only
  split <;> rfl

theorem CellRec.fitsNot_withdrawn {r : CellRec} {t : Tables} {l : LotRec} {h : LotNo} {id : Half} {lot : Option LotNo}
    (hf : r.FitsNot t l h) : (r.withdrawn id lot).FitsNot t l h := by
  unfold CellRec.withdrawn
  dsimp only
  split <;> exact hf

theorem CellRec.state_withdrawn (r : CellRec) (id : Half) (lot : Option LotNo) : (r.withdrawn id lot).state = r.state := by
  unfold CellRec.withdrawn
  dsimp only
  split <;> rfl

/-- R72: a cell whose open offer has been withdrawn. -/
def CellRec.offerGone (r : CellRec) (a : Assignment) (after : CellState) : CellRec :=
  { r.withdrawn a.id (some a.lot) with state := after, offerDeadline := none, assignment := none }

/-- R67, R72: an offer is withdrawn, its cell in its new state, before the return of its quantity. -/
def Bay.withdrawing (b : Bay) (c : CellNo) (a : Assignment) (after : CellState) : Bay :=
  (b.modCell c fun r => { r with state := after, offerDeadline := none }).withdrawDue c a.id (some a.lot)

theorem Bay.withdrawOffer_eq {x : Ctx} {b : Bay} {c : CellNo} {a : Assignment} (ha : (b.cell c).assignment = some a)
    (after : CellState) : b.withdrawOffer x c after = (b.withdrawing c a after).returnSublot x c := by
  unfold Bay.withdrawOffer
  dsimp only
  rw [Bay.cell_modCell_self]
  dsimp only
  rw [ha]
  rfl

/-- R72: the record of a cell whose offer is being withdrawn. -/
def CellRec.withdrawing (r : CellRec) (a : Assignment) (after : CellState) : CellRec :=
  { r with state := after, offerDeadline := none }.withdrawn a.id (some a.lot)

theorem Bay.cell_withdrawing (b : Bay) (c : CellNo) (a : Assignment) (after : CellState) :
    (b.withdrawing c a after).cell c = (b.cell c).withdrawing a after := by
  unfold Bay.withdrawing
  rw [Bay.withdrawDue_eq, Bay.cell_setCell_self, Bay.cell_modCell_self]
  rfl

theorem Bay.bare_withdrawing (b : Bay) (c : CellNo) (a : Assignment) (after : CellState) :
    (b.withdrawing c a after).bare = b.bare.setCell c ((b.cell c).withdrawing a after) := by
  unfold Bay.withdrawing
  rw [Bay.withdrawDue_eq, Bay.bare_setCell, Bay.bare_modCell, Bay.cell_modCell_self, Bay.setCell_setCell]
  rfl

theorem Bay.stamped_withdrawing (b : Bay) (c : CellNo) (a : Assignment) (after : CellState) :
    (b.withdrawing c a after).stamped = b.stamped := by
  unfold Bay.withdrawing
  rw [Bay.withdrawDue_eq, Bay.stamped_setCell, Bay.stamped_modCell]

theorem CellRec.assignment_withdrawing (r : CellRec) (a : Assignment) (after : CellState) :
    (r.withdrawing a after).assignment = r.assignment := CellRec.assignment_withdrawn ..

theorem CellRec.withdrawing_dropped (r : CellRec) (a : Assignment) (after : CellState) :
    { r.withdrawing a after with assignment := none } = r.offerGone a after := CellRec.withdrawn_with ..

/-- R72, R73: an open offer is withdrawn and its quantity returned, no IDLE cell qualifying for its lot. -/
theorem Bay.bare_withdrawOffer {s : State} {b : Bay} {c : CellNo} {a : Assignment} {after : CellState}
    (ha : (b.cell c).assignment = some a) (hlots : b.lots = s.bay.lots) (hq : b.queue = s.bay.queue) (hs : a.lot ∉ b.stamped)
    (hopen : s.KeepsOpen a.lot a.qty)
    (hfit : ∀ c', c' ≠ c → (b.cell c').state = .idle → (b.cell c').FitsNot s.tables (s.bay.lot a.lot) a.lot)
    (hown : after = .idle → (b.cell c).FitsNot s.tables (s.bay.lot a.lot) a.lot) :
    (b.withdrawOffer s.ctx c after).bare = (s.returnedBay b a.lot a.qty).setCell c ((b.cell c).offerGone a after) := by
  have hbare := b.bare_withdrawing c a after
  have hl : (b.withdrawing c a after).lots = s.bay.lots := (congrArg Bay.lots hbare).trans hlots
  have hcell := b.cell_withdrawing c a after
  rw [Bay.withdrawOffer_eq ha, Bay.bare_returnSublot (s := s) (a := a), hcell, CellRec.withdrawing_dropped]
  · unfold State.returnedBay
    rw [hbare, Bay.withQueue_setCell, Bay.setLot_setCell, Bay.setCell_setCell]
  · rw [hcell, CellRec.assignment_withdrawing, ha]
  · exact hl
  · exact (congrArg Bay.queue hbare).trans hq
  · rw [Bay.stamped_withdrawing]
    exact hs
  · exact hopen
  · intro c' hi
    have hlot : (b.withdrawing c a after).lot a.lot = s.bay.lot a.lot := by simp only [Bay.lot, hl]
    rw [hlot]
    by_cases he : c = c'
    · subst he
      rw [hcell] at hi ⊢
      exact CellRec.fitsNot_withdrawn (r := { b.cell c with state := after, offerDeadline := none })
        (hown ((CellRec.state_withdrawn ..).symm.trans hi))
    · have hc' : (b.withdrawing c a after).cell c' = b.cell c' := by
        have := congrArg (Bay.cell · c') hbare
        simpa only [Bay.cell_bare, Bay.cell_setCell_ne _ _ he] using this
      rw [hc'] at hi ⊢
      exact hfit c' (Ne.symm he) hi

end Sys2Proof.Machine

/-!
PROOF. The replies to an offer (section 3.6), LOT.START on a started lot (section 1.7) and the partial release of a hold (section
6.5).
-/

namespace Sys2Proof.Machine

theorem records_returnedBay (s : State) (b : Bay) (c : CellNo) (h : LotNo) (amount : Nat) (r : CellRec)
    (hb : b.bare = s.bay.bare ∨ ∃ r', b.bare = s.bay.bare.setCell c r') :
    ({ s with bay := (s.returnedBay b h amount).setCell c r } : State).records = (s.afterReturn h amount).setCell c r := by
  unfold State.returnedBay
  rcases hb with hb | ⟨r', hb⟩
  · rw [hb]
    rfl
  · rw [hb, Bay.withQueue_setCell, Bay.setLot_setCell, Bay.setCell_setCell]
    rfl

/-! ### The stall watch (R44) -/

/-- R44: a RUNNING cell with its stall watch armed where it may be. -/
def State.armed (s : State) (c : CellNo) (r : CellRec) : CellRec := { r with stallDeadline := s.stallArmed c r }

/-- R44: the stall deadline by the stall limit of the cell's configuration. -/
theorem State.stallArmed_eq (s : State) (c : CellNo) (r : CellRec) :
    s.stallArmed c r = if r.pause = .none ∧ r.stallFinish = false then
      s.tables.cellConfig[c].stall.limit.elim r.stallDeadline fun ms => some (deadlineAfter s.part.clock ms)
      else r.stallDeadline := by
  unfold State.stallArmed
  split
  · cases s.tables.cellConfig[c].stall <;> rfl
  · rfl

theorem Bay.armStall_eq {s : State} {b : Bay} {c : CellNo} (hr : (b.cell c).state = .running) :
    b.armStall s.ctx c = b.setCell c (s.armed c (b.cell c)) := by
  have hkeep : b = b.setCell c { b.cell c with stallDeadline := (b.cell c).stallDeadline } := (Bay.setCell_self b c).symm
  unfold Bay.armStall State.armed
  rw [State.stallArmed_eq]
  by_cases hp : (b.cell c).pause = .none ∧ (b.cell c).stallFinish = false
  · rw [if_pos hp]
    cases hl : s.tables.cellConfig[c].stall.limit with
    | none => exact hkeep
    | some ms =>
      dsimp only
      rw [if_pos ⟨hr, hp⟩]
      exact Bay.modCell_quietly rfl
  · rw [if_neg hp]
    cases hl : s.tables.cellConfig[c].stall.limit with
    | none => exact hkeep
    | some ms =>
      dsimp only
      rw [if_neg fun h => hp h.2]
      exact hkeep

/-! ### TAKE and DECLINE of the open offer (R68, R69) -/

/-- R68: a cell that has taken its offer of slot `k`. -/
def CellRec.taken (r : CellRec) (a : Assignment) (k : SlotNo) (clock : Nat) : CellRec :=
  { r with
    state := .running, pause := .none, offerDeadline := none, assignment := some a.zeroed
    slots := r.slots.set k { r.slots[k] with lastUse := clock } }

theorem Bay.bare_takeFrame {s : State} {b : Bay} {c : CellNo} {a : Assignment} {k : SlotNo} (hst : (b.cell c).state = .offered)
    (ha : (b.cell c).assignment = some a) (hk : a.slot = some k) :
    (b.takeFrame s.ctx c a.id).bare = b.bare.setCell c (s.armed c ((b.cell c).taken a k s.part.clock))
      ∧ .cellState c ∈ (b.takeFrame s.ctx c a.id).notices := by
  have hopen : (b.cell c).openOffer a.id = some a := CellRec.openOffer_eq_some.2 ⟨hst, ha, rfl⟩
  unfold Bay.takeFrame
  rw [hopen]
  dsimp only
  rw [hk]
  dsimp only
  have hcell : ((b.modCell c fun r =>
      { r with state := .running, pause := .none, offerDeadline := none, assignment := some a.zeroed }).modSlot c k
        fun v => { v with lastUse := s.part.clock }).cell c = (b.cell c).taken a k s.part.clock := by
    unfold Bay.modSlot
    rw [Bay.cell_modCell_self, Bay.cell_modCell_self]
    rfl
  have hbare : ((b.modCell c fun r =>
      { r with state := .running, pause := .none, offerDeadline := none, assignment := some a.zeroed }).modSlot c k
        fun v => { v with lastUse := s.part.clock }).bare = b.bare.setCell c ((b.cell c).taken a k s.part.clock) := by
    unfold Bay.modSlot
    rw [Bay.bare_modCell, Bay.bare_modCell, Bay.setCell_setCell, Bay.cell_modCell_self]
    rfl
  refine ⟨?_, ?_⟩
  · rw [Bay.armStall_eq, Bay.bare_setCell]
    · erw [hbare, hcell]
      rw [Bay.setCell_setCell]
    · erw [hcell]
      rfl
  · rw [Bay.armStall_eq (by erw [hcell]; rfl)]
    refine Bay.mem_notices_modCell.2 (.inr (Bay.mem_notices_modCell.2 (.inl ⟨rfl, fun he => ?_⟩)))
    have hs := congrArg CellView.state he
    cases hst.symm.trans hs.symm

/-- R69: the record of a cell that declines its offer, before the return. -/
def CellRec.declined (r : CellRec) (a : Assignment) : CellRec :=
  { r with
    state := .notReady, offerDeadline := none, excluded := some a.lot
    counters := { r.counters with declines := bump16 r.counters.declines } }

theorem take_opens {c : CellNo} {lot : Half} {a : Assignment} {k : SlotNo} {s : State} (ht : s.TakesFrame c .take)
    (hst : (s.bay.cell c).state = .offered) (ha : (s.bay.cell c).assignment = some a) (hk : a.slot = some k) :
    Takes s c .handler lot (.take a.id) (s.records.setCell c (s.armed c ((s.bay.cell c).taken a k s.part.clock))) [.cellState c] := by
  obtain ⟨hb, hn⟩ := Bay.bare_takeFrame (s := s) (b := s.newEvent.bay) hst ha hk
  exact takes_of_effect (m := .take a.id) (b := s.newEvent.bay.takeFrame s.ctx c a.id) ht rfl (records_of_bare hb rfl)
    (List.forall_mem_singleton.2 hn)

theorem decline_returns {c : CellNo} {lot : Half} {a : Assignment} {s : State} (ht : s.TakesFrame c .decline) (hni : s.NoIdle)
    (hst : (s.bay.cell c).state = .offered) (ha : (s.bay.cell c).assignment = some a) (hk : s.KeepsOpen a.lot a.qty) :
    Takes s c .handler lot (.decline a.id)
      ((s.afterReturn a.lot a.qty).setCell c { (s.bay.cell c).declined a with assignment := none }) [.cellState c] := by
  generalize hd : s.newEvent.bay.modCell c (CellRec.declined · a) = b
  have hbare : b.bare = s.bay.bare.setCell c ((s.bay.cell c).declined a) := by
    rw [← hd, Bay.bare_modCell]
    rfl
  have hcell : b.cell c = (s.bay.cell c).declined a := by rw [← hd, Bay.cell_modCell_self]; rfl
  have heff : s.newEvent.bay.declineFrame s.ctx c a.id = b.returnSublot s.ctx c := by
    have hopen : (s.newEvent.bay.cell c).openOffer a.id = some a := CellRec.openOffer_eq_some.2 ⟨hst, ha, rfl⟩
    unfold Bay.declineFrame
    rw [hopen, ← hd]
    rfl
  have hasg : (b.cell c).assignment = some a := by rw [hcell]; exact ha
  have hret := Bay.bare_returnSublot (s := s) hasg ((Bay.lots_of_bare hbare :).trans rfl) ((Bay.queue_of_bare hbare :).trans rfl)
    (by rw [← hd, Bay.stamped_modCell]; exact List.not_mem_nil) hk (fun c' hi => by
      by_cases he : c = c'
      · subst he
        rw [hcell] at hi
        cases hi
      · rw [← hd, Bay.cell_modCell_ne _ _ he] at hi
        exact absurd hi (hni c'))
  rw [hcell] at hret
  exact takes_of_effect (m := .decline a.id) ht heff
    (records_of_bare hret (records_returnedBay s b c _ _ _ (.inr ⟨_, hbare⟩))) (List.forall_mem_singleton.2 (Bay.owed_returnSublot hasg))


/-! ### The late reply (R71, R200) -/

/-- R200: the lot of the sublot that an id names, where the assignments that carry the id name one. -/
theorem Bay.sublotLot_eq {b : Bay} {id : Half} {named : Option LotNo}
    (hall : ∀ c a, (b.cell c).assignment = some a → a.id = id → named = some a.lot)
    (hsome : named = none ∨ ∃ c a, (b.cell c).assignment = some a ∧ a.id = id) : b.sublotLot id = named := by
  have hof (c : CellNo) (l : LotNo) :
      ((b.cell c).assignment.filter (·.id = id)).map (·.lot) = some l ↔ ∃ a, (b.cell c).assignment = some a ∧ a.id = id ∧ a.lot = l := by
    cases (b.cell c).assignment <;> simp [Option.filter_eq_some_iff]
  unfold Bay.sublotLot
  cases hf : allCells.findSome? fun c => ((b.cell c).assignment.filter (·.id = id)).map (·.lot) with
  | some l =>
    obtain ⟨c, _, hc⟩ := List.exists_of_findSome?_eq_some hf
    obtain ⟨a, ha, hid, hl⟩ := (hof c l).1 hc
    rw [hall c a ha hid, hl]
  | none =>
    rcases hsome with hn | ⟨c, a, ha, hid⟩
    · exact hn.symm
    · have := List.findSome?_eq_none_iff.1 hf c (List.mem_finRange c)
      rw [(hof c a.lot).2 ⟨a, ha, hid, rfl⟩] at this
      cases this

/-- R71: a reply that meets neither an open offer of its id nor a running sublot of it. -/
theorem Bay.lateReply_late {b : Bay} {c : CellNo} {id : Half} (h : ¬(b.cell c).Runs id) :
    b.lateReply c id = b.setCell c ((b.cell c).withdrawn id (b.sublotLot id)) := by
  unfold Bay.lateReply
  dsimp only
  rw [if_neg (fun hr => h (CellRec.runs_iff.2 hr)), Bay.withdrawDue_eq]

theorem CellRec.openOffer_eq_none {r : CellRec} {id : Half}
    (h : r.state ≠ .offered ∨ ∀ a, r.assignment = some a → a.id ≠ id) : r.openOffer id = none := by
  by_contra hn
  obtain ⟨a, ha⟩ := Option.ne_none_iff_exists'.1 hn
  obtain ⟨hs, ha, hid⟩ := CellRec.openOffer_eq_some.1 ha
  exact h.elim (absurd hs) fun h => h a ha hid

/-- Settles O32: the TAKE and the DECLINE of the open offer, and the late reply. -/
theorem offerReplies : Obligations.OfferReplies := by
  refine ⟨fun c lot a k s ht hst ha hk => take_opens ht hst ha hk, fun c lot id s => ⟨?_, ?_⟩⟩
  · rintro ht hni a hst ha rfl hk
    exact decline_returns ht hni hst ha hk
  · intro hno named hall hsome
    have hlate : ¬(s.bay.cell c).Runs id := fun ⟨hrun, a, ha, hid⟩ => hno.elim (fun h => h.2 hrun) fun h => h a ha hid
    have hopen : (s.newEvent.bay.cell c).openOffer id = none := CellRec.openOffer_eq_none (hno.imp_left And.left)
    have heff : s.newEvent.bay.lateReply c id = s.newEvent.bay.setCell c ((s.bay.cell c).withdrawn id named) := by
      rw [Bay.lateReply_late (b := s.newEvent.bay) hlate, Bay.sublotLot_eq (b := s.newEvent.bay) hall hsome]
      rfl
    exact ⟨fun ht => takes_of_effect (m := .take id) ht ((Bay.takeFrame_late hopen).trans heff) rfl (by simp),
      fun ht => takes_of_effect (m := .decline id) ht ((Bay.declineFrame_late hopen).trans heff) rfl (by simp)⟩

/-! ### LOT.START on a lot that is not DEFINED (R19, R57) -/

/-- R19: the states of a lot on which LOT.START is refused. -/
theorem LotRec.not_promotable {l : LotRec}
    (h : l.state ∈ [.free, .complete, .aborting, .aborted, .released] ∨ (l.state = .held ∧ l.saved = some .complete)) :
    l.state ≠ .defined ∧ l.promotable = false := by
  rcases h with h | ⟨h, hs⟩
  · simp only [List.mem_cons, List.not_mem_nil, or_false] at h
    rcases h with h | h | h | h | h <;> simp [LotRec.promotable, h]
  · simp [LotRec.promotable, h, hs]

theorem LotRec.promotable_of {l : LotRec}
    (h : l.state ∈ [.active, .closing] ∨ (l.state = .held ∧ (l.saved = some .active ∨ l.saved = some .closing))) :
    l.state ≠ .defined ∧ l.promotable = true := by
  rcases h with h | ⟨h, hs⟩
  · simp only [List.mem_cons, List.not_mem_nil, or_false] at h
    rcases h with h | h <;> simp [LotRec.promotable, h]
  · simp [LotRec.promotable, h, hs]

theorem Bay.start_refused {x : Ctx} {b : Bay} {h : LotNo} (hl : (b.lot h).state ≠ .defined ∧ (b.lot h).promotable = false) :
    b.start x h = (b, b.briefReply h .state) := by
  unfold Bay.start
  dsimp only
  rw [if_neg hl.1, if_neg (by rw [hl.2]; decide)]

theorem Bay.start_started {x : Ctx} {b : Bay} {h : LotNo} (hl : (b.lot h).state ≠ .defined ∧ (b.lot h).promotable = true) :
    b.start x h = if (b.lot h).cls = .normal then (b.promote x h, (b.promote x h).briefReply h .done) else (b, b.briefReply h .done) := by
  unfold Bay.start
  dsimp only
  rw [if_neg hl.1, if_pos hl.2]
  split <;> rfl

/-- R57: a lot that has taken class EXPEDITED. -/
def LotRec.expedited (l : LotRec) : LotRec := { l with cls := .expedited, ageDeadline := none }

theorem LotRec.followed_expedited_ne {l : LotRec} (hc : l.cls = .normal) : l.expedited.followed ≠ l.followed := by
  simp [LotRec.followed, LotRec.expedited, hc]

/-- R55, R57: a NORMAL lot takes class EXPEDITED, in the queue at its new place, no IDLE cell qualifying for it there. -/
theorem Bay.bare_promote {s : State} {b : Bay} {h : LotNo} (hb : b.bare = s.bay.bare) (hs : b.stamped = [])
    (hc : (s.bay.lot h).cls = .normal) (hfit : h ∈ s.bay.queue → s.NoIdle) :
    (b.promote s.ctx h).bare
        = (s.bay.bare.withQueue
            (if h ∈ s.bay.queue then s.placed s.bay.queue h (s.bay.lot h).expedited.restamped else s.bay.queue)).setLot h
              (s.bay.lot h).expedited.restamped
      ∧ .lotState h ∈ (b.promote s.ctx h).notices := by
  have hlot : b.lot h = s.bay.lot h := Bay.lot_of_bare hb h
  have hne : ((b.lot h).expedited).followed ≠ (b.lot h).followed := LotRec.followed_expedited_ne (by rw [hlot]; exact hc)
  have hns : h ∉ b.stamped := by rw [hs]; exact List.not_mem_nil
  have hbare : (b.modLot h LotRec.expedited).bare = s.bay.bare.setLot h (s.bay.lot h).expedited.restamped := by
    rw [Bay.bare_modLot_first hne hns, hb, hlot]
  have howed : .lotState h ∈ (b.modLot h LotRec.expedited).notices := Bay.owed_modLot_first hne hns
  have hqueue : (b.modLot h LotRec.expedited).queue = s.bay.queue := (Bay.queue_of_bare hbare :)
  show (if h ∈ (b.modLot h LotRec.expedited).queue then ((b.modLot h LotRec.expedited).enqueue h).matchLot s.ctx h
      else b.modLot h LotRec.expedited).bare = _ ∧ .lotState h ∈ (if h ∈ (b.modLot h LotRec.expedited).queue then
        ((b.modLot h LotRec.expedited).enqueue h).matchLot s.ctx h else b.modLot h LotRec.expedited).notices
  rw [hqueue]
  by_cases hq : h ∈ s.bay.queue
  · have hcells : (b.modLot h LotRec.expedited).cells = s.bay.cells := (Bay.cells_of_bare hbare :)
    have hself : (b.modLot h LotRec.expedited).lot h = (s.bay.lot h).expedited.restamped := by
      rw [Bay.lot_of_bare hbare, Bay.lot_setLot_self]
    rw [if_pos hq, if_pos hq, Bay.matchLot_noFit ((hfit hq).noFit s.ctx (b := (b.modLot h LotRec.expedited).enqueue h) hcells h)]
    refine ⟨?_, howed⟩
    have hplace : ((b.modLot h LotRec.expedited).enqueue h).queue
        = s.placed s.bay.queue h (s.bay.lot h).expedited.restamped := by
      rw [Bay.queue_enqueue (s := s), hqueue, hself]
      intro h' hne
      rw [Bay.lot_of_bare hbare, Bay.lot_setLot_ne _ _ hne.symm]
      rfl
    show (b.modLot h LotRec.expedited).bare.withQueue ((b.modLot h LotRec.expedited).enqueue h).queue = _
    rw [hplace, hbare]
    rfl
  · rw [if_neg hq, if_neg hq]
    exact ⟨hbare, howed⟩

/-- A request that names lot `h`, its effect and answer on the bay being `b` and `p`, and `b` being `b'` but for owed notices. -/
theorem answers_of_lotEffect {i : Instr} {s : State} {code : Byte} {tag handle : Half} {f : Ctx → Bay → LotNo → Bay × Reply}
    {r : Records} {b b' : Bay} {p : Reply} {h : LotNo} {reported : List Notice} (he : exec i s = .next (runUplink i s))
    (ht : s.TakesRequests) (hs : serveUplink i s.newEvent = s.newEvent.lotRequest code tag handle f) (hh : handle.toNat < 256)
    (hd : ⟨handle.toNat, hh⟩ = h) (hf : f s.ctx s.newEvent.bay h = (b, p)) (hb : b.bare = b')
    (hr : ({ s with bay := b' } : State).records = r) (hn : ∀ n ∈ reported, n ∈ b.notices) :
    Answers i s r (some h) code tag p reported := by
  subst hd
  exact answers_of_lotRequest he ht hs hh hf (records_of_bare hb hr) hn

theorem Bay.briefReply_of_bare {b b' : Bay} (hb : b.bare = b') (h : LotNo) (st : Status) :
    b.briefReply h st = { status := st, data := (b'.lot h).answer } := by
  rw [← hb]
  rfl

/-- R19, R57: LOT.START on a started NORMAL lot. -/
theorem lotStart_promotes {tag handle : Half} {s : State} {h : LotNo} (ht : s.TakesRequests) (hh : handle.toNat < 256)
    (hd : ⟨handle.toNat, hh⟩ = h) (hl : (s.bay.lot h).state ≠ .defined ∧ (s.bay.lot h).promotable = true)
    (hc : (s.bay.lot h).cls = .normal) (hfit : h ∈ s.bay.queue → s.NoIdle) :
    Answers (.lotStart tag handle) s
      { s.records.setLot h (s.bay.lot h).expedited.restamped with
        queue := if h ∈ s.bay.queue then s.placed s.bay.queue h (s.bay.lot h).expedited.restamped else s.bay.queue }
      (some h) 0x11#8 tag { status := .done, data := (s.bay.lot h).expedited.restamped.answer } [.lotState h] := by
  obtain ⟨hbare, howed⟩ := Bay.bare_promote (s := s) (b := s.newEvent.bay) rfl rfl hc hfit
  refine answers_of_lotEffect (f := Bay.start) rfl ht rfl hh hd ?_ hbare rfl (List.forall_mem_singleton.2 howed)
  refine ((Bay.start_started (b := s.newEvent.bay) hl).trans (if_pos hc)).trans ?_
  rw [Bay.briefReply_of_bare hbare, Bay.lot_setLot_self]

/-- Settles O15: refused by state, or a promotion of a NORMAL lot. -/
theorem lotStartRefusesOrPromotes : Obligations.LotStartRefusesOrPromotes := by
  intro tag handle s hs hh h l l' i
  refine ⟨fun hst => ?_, fun hst => ⟨fun hc => ?_, fun hc hq => ?_, fun hc hq hni => ?_⟩⟩
  · exact answers_of_lotEffect (f := Bay.start) rfl hs rfl hh rfl
      (Bay.start_refused (b := s.newEvent.bay) (LotRec.not_promotable hst)) rfl rfl (by simp)
  · have hstart := Bay.start_started (x := s.ctx) (b := s.newEvent.bay) (LotRec.promotable_of hst)
    have hn : ¬(s.newEvent.bay.lot h).cls = .normal := fun hn => nomatch (hc.symm.trans hn : DispatchClass.expedited = .normal)
    exact answers_of_lotEffect (f := Bay.start) rfl hs rfl hh rfl (hstart.trans (if_neg hn)) rfl rfl (by simp)
  · have hp := lotStart_promotes (tag := tag) hs hh rfl (LotRec.promotable_of hst) hc fun hm => absurd hm hq
    rw [if_neg hq] at hp
    exact hp
  · have hp := lotStart_promotes (tag := tag) hs hh rfl (LotRec.promotable_of hst) hc fun _ => hni
    rw [if_pos hq] at hp
    exact hp

end Sys2Proof.Machine

/-!
PROOF. HOLD.RELEASE as far as it leaves the lot HELD (section 6.5): its codes, its stamp, its kind, and the removal of one of
several entries.
-/

namespace Sys2Proof.Machine

/-! ### The codes of the request (R134) -/

/-- R134: the codes that HOLD.RELEASE knows. -/
def KnownRelease (kind mode : Byte) : Prop := 1 ≤ kind.toNat ∧ kind.toNat ≤ 9 ∧ mode.toNat ≤ 1

/-- R134: the kind of a lot's hold set that a code names. -/
def LotRec.Names (l : LotRec) (kind : Byte) (k : HoldKind) : Prop :=
  if kind = 9#8 then l.holds.head?.map (·.kind) = some k else k.priority = kind.toNat ∧ k ∈ l.holds.map (·.kind)

theorem HoldKind.priority_range (k : HoldKind) : 1 ≤ k.priority ∧ k.priority ≤ 8 := by cases k <;> decide

theorem HoldKind.mem_holdKinds (k : HoldKind) : k ∈ holdKinds := by cases k <;> decide

theorem HoldKind.exists_priority {n : Nat} (h1 : 1 ≤ n) (h8 : n ≤ 8) : ∃ k : HoldKind, k.priority = n := by
  obtain rfl | rfl | rfl | rfl | rfl | rfl | rfl | rfl : n = 1 ∨ n = 2 ∨ n = 3 ∨ n = 4 ∨ n = 5 ∨ n = 6 ∨ n = 7 ∨ n = 8 := by omega
  exacts [⟨.quality, rfl⟩, ⟨.program, rfl⟩, ⟨.count, rfl⟩, ⟨.tally, rfl⟩, ⟨.run, rfl⟩, ⟨.site, rfl⟩, ⟨.bin, rfl⟩, ⟨.yield, rfl⟩]

theorem releaseTargetOf_priority {kind : Byte} {k : HoldKind} (hk : k.priority = kind.toNat) : releaseTargetOf kind = some (.kind k) := by
  have hr := k.priority_range
  unfold releaseTargetOf
  rw [if_neg (by omega)]
  have hf : holdKinds.find? (fun k' => k'.priority = kind.toNat) = some k := by
    cases hf : holdKinds.find? (fun k' => k'.priority = kind.toNat) with
    | none => simpa [hk] using List.find?_eq_none.1 hf k k.mem_holdKinds
    | some k' => rw [HoldKind.priority_inj ((by simpa using List.find?_some hf : k'.priority = kind.toNat).trans hk.symm)]
  rw [hf]
  rfl

theorem releaseTargetOf_unknown {kind : Byte} (h : ¬(1 ≤ kind.toNat ∧ kind.toNat ≤ 9)) : releaseTargetOf kind = none := by
  unfold releaseTargetOf
  rw [if_neg (by omega), Option.map_eq_none_iff, List.find?_eq_none]
  intro k _
  have hr := k.priority_range
  simp only [decide_eq_true_eq]
  omega

theorem releaseModeOf_known {mode : Byte} (h : mode.toNat ≤ 1) :
    releaseModeOf mode = some (if mode = 1#8 then .waive else .clear) := by
  obtain h0 | h1 : mode = 0#8 ∨ mode = 1#8 := by
    have : mode.toNat = 0 ∨ mode.toNat = 1 := by omega
    exact this.imp (fun h => BitVec.eq_of_toNat_eq h) (fun h => BitVec.eq_of_toNat_eq h)
  · subst h0; rfl
  · subst h1; rfl

theorem releaseModeOf_unknown {mode : Byte} (h : 1 < mode.toNat) : releaseModeOf mode = none := by
  unfold releaseModeOf
  split
  · omega
  · omega
  · rfl

/-- R134: a known kind code names a target, and the target a kind of the lot's set as the code does. -/
theorem releaseTargetOf_known {kind : Byte} (h : 1 ≤ kind.toNat ∧ kind.toNat ≤ 9) :
    ∃ t, releaseTargetOf kind = some t ∧ ∀ (l : LotRec) (k : HoldKind), l.releasedKind t = some k ↔ l.Names kind k := by
  by_cases h9 : kind = 9#8
  · subst h9
    exact ⟨.leading, rfl, fun l k => by simp [LotRec.releasedKind, LotRec.leading, LotRec.Names]⟩
  · have h9' : kind.toNat ≠ 9 := fun he => h9 (BitVec.eq_of_toNat_eq he)
    obtain ⟨k, hk⟩ := HoldKind.exists_priority h.1 (by omega)
    refine ⟨.kind k, releaseTargetOf_priority hk, fun l k' => ?_⟩
    unfold LotRec.Names
    rw [if_neg h9, LotRec.releasedKind]
    have hany : (l.holds.any fun e => decide (e.kind = k)) = true ↔ k ∈ l.holds.map (·.kind) := by simp
    constructor
    · intro he
      split at he
      · next hm =>
        cases he
        exact ⟨hk, hany.1 hm⟩
      · cases he
    · rintro ⟨hk', hm⟩
      cases HoldKind.priority_inj (hk'.trans hk.symm)
      rw [if_pos (hany.2 hm)]

theorem LotRec.Names.mem {l : LotRec} {kind : Byte} {k : HoldKind} (h : l.Names kind k) : k ∈ l.holds.map (·.kind) := by
  unfold LotRec.Names at h
  split at h
  · obtain ⟨e, he, rfl⟩ := Option.map_eq_some_iff.1 h
    exact List.mem_map_of_mem (List.mem_of_mem_head? he)
  · exact h.2

/-! ### The removal of an entry (R135, R136) -/

theorem HoldKind.waivable_iff (k : HoldKind) : k.waivable = true ↔ k ∈ [.yield, .bin, .site, .run] := by cases k <;> decide

/-- R136: a waivable kind in the waiver set of a step. -/
def Waivers.with (w : Waivers) (k : HoldKind) : Waivers :=
  { yield := w.yield || decide (k = .yield), bin := w.bin || decide (k = .bin)
    site := w.site || decide (k = .site), run := w.run || decide (k = .run) }

theorem Waivers.add_eq (w : Waivers) (k : HoldKind) : w.add k = w.with k := by
  unfold Waivers.add Waivers.with
  cases k <;> simp

/-- R136: a release is taken in mode WAIVE. -/
def LotRec.Waives (l : LotRec) (mode : Byte) (k : HoldKind) : Prop :=
  mode = 1#8 ∧ k ∈ [.yield, .bin, .site, .run] ∧ (l.saved = some .active ∨ l.saved = some .closing)

/-- Release mode by its code. -/
def modeOf (mode : Byte) : ReleaseMode := if mode = 1#8 then .waive else .clear

theorem LotRec.modeTaken_waives {l : LotRec} {mode : Byte} {k : HoldKind} (h : l.Waives mode k) :
    l.modeTaken k (modeOf mode) = .waive := by
  obtain ⟨hm, hk, hs⟩ := h
  unfold LotRec.modeTaken modeOf
  rw [if_pos ⟨if_pos hm, (HoldKind.waivable_iff k).2 hk, hs⟩]

theorem LotRec.modeTaken_not_waives {l : LotRec} {mode : Byte} {k : HoldKind} (h : ¬l.Waives mode k) :
    l.modeTaken k (modeOf mode) = .clear := by
  unfold LotRec.modeTaken modeOf
  rw [if_neg]
  rintro ⟨hm, hk, hs⟩
  refine h ⟨?_, (HoldKind.waivable_iff k).1 hk, hs⟩
  by_contra hne
  rw [if_neg hne] at hm
  cases hm

/-- R135: a lot without a kind in its hold set. -/
def LotRec.plainly (l : LotRec) (k : HoldKind) : LotRec := { l with holds := l.holds.filter (·.kind ≠ k) }

/-- R136: a lot without a kind in its hold set, which has joined the waiver set of its open step. -/
def LotRec.waiving (l : LotRec) (k : HoldKind) : LotRec :=
  { l.plainly k with steps := l.steps.modify (l.stepIndex.getD 0 - 1) fun r => { r with waivers := r.waivers.with k } }

theorem LotRec.without_waives {l : LotRec} {mode : Byte} {k : HoldKind} (h : l.Waives mode k) :
    l.without k (modeOf mode) = l.waiving k := by
  unfold LotRec.without
  rw [LotRec.modeTaken_waives h]
  unfold LotRec.waiving LotRec.modStep LotRec.plainly
  simp only [Waivers.add_eq]
  rfl

theorem LotRec.without_not_waives {l : LotRec} {mode : Byte} {k : HoldKind} (h : ¬l.Waives mode k) :
    l.without k (modeOf mode) = l.plainly k := by
  unfold LotRec.without
  rw [LotRec.modeTaken_not_waives h]
  rfl

theorem LotRec.holds_without (l : LotRec) (k : HoldKind) (m : ReleaseMode) :
    (l.without k m).holds = l.holds.filter (·.kind ≠ k) := (LotRec.like_without l k m).holds

/-- R9: the removal of an entry is followed by the stamp. -/
theorem LotRec.followed_without_ne {l : LotRec} {k : HoldKind} (hk : k ∈ l.holds.map (·.kind)) (m : ReleaseMode) :
    (l.without k m).followed ≠ l.followed := by
  intro he
  have hh : (l.without k m).holds = l.holds := congrArg (fun t => t.2.2.2.2) he
  rw [LotRec.holds_without, List.filter_eq_self] at hh
  obtain ⟨e, hm, rfl⟩ := List.mem_map.1 hk
  simpa using hh e hm

/-! ### The request -/

/-- The effect and the answer of HOLD.RELEASE, its codes being read. -/
def releaseEffect (kind mode : Byte) (stamp : Stamp) (x : Ctx) (b : Bay) (h : LotNo) : Bay × Reply :=
  match releaseTargetOf kind, releaseModeOf mode with
  | some t, some m => b.holdRelease t m stamp x h
  | _, _ => (b, Reply.unknown)

theorem serveHoldRelease_eq (tag handle : Half) (kind mode : Byte) (stamp : Stamp) (s : State) :
    serveHoldRelease tag handle kind mode stamp s = s.lotRequest 0x21#8 tag handle (releaseEffect kind mode stamp) := rfl

theorem releaseEffect_unknown {kind mode : Byte} {stamp : Stamp} {x : Ctx} {b : Bay} {h : LotNo} (hk : ¬KnownRelease kind mode) :
    releaseEffect kind mode stamp x b h = (b, Reply.unknown) := by
  unfold releaseEffect
  by_cases hkind : 1 ≤ kind.toNat ∧ kind.toNat ≤ 9
  · have hm : releaseModeOf mode = none := releaseModeOf_unknown (by unfold KnownRelease at hk; omega)
    rw [hm]
    cases releaseTargetOf kind <;> rfl
  · rw [releaseTargetOf_unknown hkind]

/-- HOLD.RELEASE with known codes. -/
theorem releaseEffect_known {kind mode : Byte} (hk : KnownRelease kind mode) :
    ∃ t, (∀ (l : LotRec) (k : HoldKind), l.releasedKind t = some k ↔ l.Names kind k)
      ∧ ∀ (stamp : Stamp) (x : Ctx) (b : Bay) (h : LotNo),
        releaseEffect kind mode stamp x b h = b.holdRelease t (modeOf mode) stamp x h := by
  obtain ⟨h1, h9, hm⟩ := hk
  obtain ⟨t, ht, hnames⟩ := releaseTargetOf_known ⟨h1, h9⟩
  refine ⟨t, hnames, fun stamp x b h => ?_⟩
  unfold releaseEffect
  rw [ht, releaseModeOf_known hm]
  rfl

theorem releaseEffect_stale {kind mode : Byte} {stamp : Stamp} {x : Ctx} {b : Bay} {h : LotNo} (hk : KnownRelease kind mode)
    (hs : stamp ≠ (b.lot h).stamp) :
    releaseEffect kind mode stamp x b h = (b, { status := .stale, data := (b.lot h).held ++ [0#8, 0#8] }) := by
  obtain ⟨t, _, he⟩ := releaseEffect_known hk
  rw [he, Bay.holdRelease]
  exact if_pos hs

theorem releaseEffect_notHeld {kind mode : Byte} {x : Ctx} {b : Bay} {h : LotNo} (hk : KnownRelease kind mode)
    (hn : ∀ k, ¬(b.lot h).Names kind k) :
    releaseEffect kind mode (b.lot h).stamp x b h = (b, { status := .notHeld, data := (b.lot h).held ++ [0#8, 0#8] }) := by
  obtain ⟨t, ht, he⟩ := releaseEffect_known hk
  have hnone : (b.lot h).releasedKind t = none := Option.eq_none_iff_forall_ne_some.2 fun k hk => hn k ((ht _ _).1 hk)
  rw [he, Bay.holdRelease]
  dsimp only
  rw [if_neg (not_not.2 rfl), hnone]

theorem releaseEffect_taken {kind mode : Byte} {x : Ctx} {b : Bay} {h : LotNo} {k : HoldKind} (hk : KnownRelease kind mode)
    (hn : (b.lot h).Names kind k) :
    releaseEffect kind mode (b.lot h).stamp x b h
      = (b.releaseHold x h k (modeOf mode),
        { status := .done
          data := ((b.releaseHold x h k (modeOf mode)).lot h).held ++ [k.code, ((b.lot h).modeTaken k (modeOf mode)).code] }) := by
  obtain ⟨t, ht, he⟩ := releaseEffect_known hk
  rw [he, Bay.holdRelease]
  dsimp only
  rw [if_neg (not_not.2 rfl), (ht _ _).2 hn]

/-- R135: the removal of one of several entries. -/
theorem Bay.bare_releaseHold_partial {x : Ctx} {b : Bay} {h : LotNo} {k : HoldKind} {m : ReleaseMode} (hs : h ∉ b.stamped)
    (hk : k ∈ (b.lot h).holds.map (·.kind)) (hother : ∃ e ∈ (b.lot h).holds, e.kind ≠ k) :
    (b.releaseHold x h k m).bare = b.bare.setLot h ((b.lot h).without k m).restamped
      ∧ .lotState h ∈ (b.releaseHold x h k m).notices := by
  have hne := LotRec.followed_without_ne hk m
  have hbare : (b.modLot h (LotRec.without k m)).bare = b.bare.setLot h ((b.lot h).without k m).restamped :=
    Bay.bare_modLot_first hne hs
  have hlot : (b.modLot h (LotRec.without k m)).lot h = ((b.lot h).without k m).restamped := by
    rw [Bay.lot_of_bare hbare, Bay.lot_setLot_self]
  obtain ⟨e, he, hek⟩ := hother
  have hkeep : ((b.modLot h (LotRec.without k m)).lot h).holds ≠ [] := by
    rw [hlot]
    show ((b.lot h).without k m).holds ≠ []
    rw [LotRec.holds_without]
    exact List.ne_nil_of_mem (List.mem_filter.2 ⟨he, by simpa using hek⟩)
  rw [Bay.releaseHold_eq, if_neg hkeep]
  exact ⟨hbare, Bay.owed_modLot_first hne hs⟩

/-- A release that is taken and leaves other entries. -/
theorem holdRelease_partial {tag handle : Half} {kind mode : Byte} {s : State} {h : LotNo} {k : HoldKind} (ht : s.TakesRequests)
    (hh : handle.toNat < 256) (hd : ⟨handle.toNat, hh⟩ = h) (hk : KnownRelease kind mode) (hn : (s.bay.lot h).Names kind k)
    (hother : ∃ e ∈ (s.bay.lot h).holds, e.kind ≠ k) :
    Answers (.holdRelease tag handle kind mode (s.bay.lot h).stamp) s
      (s.records.setLot h ((s.bay.lot h).without k (modeOf mode)).restamped) (some h) 0x21#8 tag
      { status := .done
        data := (((s.bay.lot h).without k (modeOf mode)).restamped).held
          ++ [k.code, ((s.bay.lot h).modeTaken k (modeOf mode)).code] } [.lotState h] := by
  obtain ⟨hbare, howed⟩ := Bay.bare_releaseHold_partial (x := s.ctx) (b := s.newEvent.bay) (h := h) (m := modeOf mode)
    List.not_mem_nil hn.mem hother
  refine answers_of_lotEffect (f := releaseEffect kind mode (s.bay.lot h).stamp) rfl ht rfl hh hd
    ((releaseEffect_taken (b := s.newEvent.bay) hk hn).trans ?_) hbare rfl (List.forall_mem_singleton.2 howed)
  rw [Bay.lot_of_bare hbare, Bay.lot_setLot_self]
  rfl

/-- Settles O20: the three refusals in their order, and the removal of one of several entries. -/
theorem holdReleaseRefusedOrPartial : Obligations.HoldReleaseRefusedOrPartial := by
  intro tag handle kind mode stamp s hs hh h l i known named shows
  refine ⟨fun hk => ?_, fun hk hst => ?_, ?_, ?_⟩
  · exact answers_of_lotEffect (f := releaseEffect kind mode stamp) rfl hs rfl hh rfl (releaseEffect_unknown hk) rfl rfl (by simp)
  · refine answers_of_lotEffect (f := releaseEffect kind mode stamp) rfl hs rfl hh rfl
      ((releaseEffect_stale (b := s.newEvent.bay) hk hst)) rfl rfl (by simp)
  · rintro hk rfl hn
    exact answers_of_lotEffect (f := releaseEffect kind mode l.stamp) rfl hs rfl hh rfl
      (releaseEffect_notHeld (b := s.newEvent.bay) hk hn) rfl rfl (by simp)
  · rintro hk rfl k hn hother
    have hpart := holdRelease_partial (tag := tag) hs hh rfl hk hn hother
    refine ⟨fun hw => ?_, fun hw => ?_⟩
    · rw [LotRec.without_not_waives hw, LotRec.modeTaken_not_waives hw] at hpart
      exact hpart
    · rw [LotRec.without_waives hw, LotRec.modeTaken_waives hw] at hpart
      exact hpart

end Sys2Proof.Machine

/-!
PROOF. A load that is given up (sections 3.7, 4.4, 4.7): it leaves the lists of every channel, and its cell; CELL.CLAIM and STATE,
which give loads and offers up.
-/

namespace Sys2Proof.Machine

/-! ### Leaving the lists of the channels (R95) -/

/-- R93, R94: a channel that has become IDLE. -/
def Channel.idled (x : Ctx) (k : ChanNo) (ch : Channel) : Channel :=
  { ch with
    state := .idle, modeInForce := (x.channel k).mode, image := none, base := 0, current := 0
    targets := [], nextRound := [], segs := [], pull := none, slotHeld := false }

/-- R95: a channel from whose lists a cell has gone. -/
def Channel.without (c : CellNo) (ch : Channel) : Channel :=
  { ch with targets := ch.targets.filter (·.cell ≠ c), nextRound := ch.nextRound.filter (·.1 ≠ c) }

/-- R95: what a channel does when a target has gone, no round following by it. -/
def Channel.targetGone (x : Ctx) (k : ChanNo) (ch : Channel) : Channel :=
  if ch.targets ≠ [] then { ch with segs := ch.unpassed }
  else if ch.pull.isSome then { ch with state := .draining, segs := [], current := 0 }
  else ch.idled x k

/-- R95: a channel that the load of a cell has left, no round following by it. -/
def Channel.left (x : Ctx) (c : CellNo) (k : ChanNo) (ch : Channel) : Channel :=
  if ch.targets.any (·.cell = c) then (ch.without c).targetGone x k else ch.without c

theorem Bay.takeWaiting_nil {x : Ctx} {b : Bay} {k : ChanNo} (hw : b.waitQueue = []) : b.takeWaiting x k = b := by
  unfold Bay.takeWaiting
  rw [hw]
  split <;> rfl

theorem Bay.goIdle_nil {x : Ctx} {b : Bay} {k : ChanNo} (hw : b.waitQueue = []) : b.goIdle x k = b.modChan k (Channel.idled x k) :=
  Bay.takeWaiting_nil (b := b.modChan k (Channel.idled x k)) hw

/-- R93: a round that ends with no next round and no load waiting. -/
theorem Bay.roundEnd_nil {x : Ctx} {b : Bay} {k : ChanNo} (hn : (b.chan k).nextRound = []) (hw : b.waitQueue = []) :
    b.roundEnd x k = b.modChan k (Channel.idled x k) := by
  unfold Bay.roundEnd
  rw [hn]
  exact Bay.goIdle_nil hw

theorem Bay.targetLeft_eq {x : Ctx} {b : Bay} {k : ChanNo}
    (h : (b.chan k).targets = [] → (b.chan k).pull = none → (b.chan k).nextRound = [] ∧ b.waitQueue = []) :
    b.targetLeft x k = b.modChan k (Channel.targetGone x k) := by
  unfold Bay.targetLeft
  dsimp only
  have hmod {f : Channel → Channel} (hf : Channel.targetGone x k (b.chan k) = f (b.chan k)) :
      b.modChan k f = b.modChan k (Channel.targetGone x k) := by
    unfold Bay.modChan
    rw [hf]
  by_cases ht : (b.chan k).targets = []
  · rw [if_neg (not_not.2 ht)]
    by_cases hp : (b.chan k).pull.isSome = true
    · rw [if_pos hp]
      refine hmod ?_
      unfold Channel.targetGone
      rw [if_neg (not_not.2 ht), if_pos hp]
    · obtain ⟨hn, hw⟩ := h ht (Option.not_isSome_iff_eq_none.1 hp)
      rw [if_neg hp, Bay.roundEnd_nil (b := b.modChan k _) (by rw [Bay.chan_modChan_self]; exact hn) hw, Bay.modChan_modChan]
      refine hmod ?_
      unfold Channel.targetGone
      rw [if_neg (not_not.2 ht), if_neg hp]
      rfl
  · rw [if_pos ht]
    refine hmod ?_
    unfold Channel.targetGone
    rw [if_pos ht]

/-- R93: when the load of cell `c` leaves channel `k`, no other round starts by it and no load waits. -/
def Bay.QuietLeave (b : Bay) (c : CellNo) (k : ChanNo) : Prop :=
  (b.chan k).targets ≠ [] → (∀ t ∈ (b.chan k).targets, t.cell = c) → (b.chan k).pull = none →
    (∀ e ∈ (b.chan k).nextRound, e.1 = c) ∧ b.waitQueue = []

theorem Bay.leaveChannel_eq {x : Ctx} {b : Bay} {c : CellNo} {k : ChanNo} (h : b.QuietLeave c k) :
    b.leaveChannel x c k = b.modChan k (Channel.left x c k) := by
  have heq : b.leaveChannel x c k = if (b.chan k).targets.any (·.cell = c) then
      (b.modChan k (Channel.without c)).targetLeft x k else b.modChan k (Channel.without c) := rfl
  have hmod {f : Channel → Channel} (hf : Channel.left x c k (b.chan k) = f (b.chan k)) :
      b.modChan k f = b.modChan k (Channel.left x c k) := by
    unfold Bay.modChan
    rw [hf]
  rw [heq]
  by_cases hany : (b.chan k).targets.any (·.cell = c) = true
  · rw [if_pos hany, Bay.targetLeft_eq, Bay.modChan_modChan]
    · exact hmod (if_pos hany)
    · rw [Bay.chan_modChan_self]
      intro ht hp
      obtain ⟨hn, hw⟩ := h (by rintro he; rw [he] at hany; cases hany) (by simpa [Channel.without] using ht) hp
      exact ⟨by simpa [Channel.without] using hn, hw⟩
  · rw [if_neg hany]
    exact hmod (if_neg hany)

/-- The bay with other channels. -/
def Bay.withChannels (b : Bay) (v : Vector Channel 8) : Bay := { b with channels := v }

/-- A write of one channel after another, each by what it held. -/
theorem Bay.foldl_modChan (f : ChanNo → Channel → Channel) : ∀ (ks : List ChanNo) (b : Bay), ks.Nodup →
    ks.foldl (fun b k => b.modChan k (f k)) b = b.withChannels (Vector.ofFn fun k => if k ∈ ks then f k (b.chan k) else b.chan k)
  | [], b, _ => by simp [Bay.withChannels, Bay.chan]
  | k :: ks, b, h => by
    obtain ⟨hk, hks⟩ := List.nodup_cons.1 h
    rw [List.foldl_cons, Bay.foldl_modChan f ks _ hks]
    unfold Bay.withChannels
    congr 1
    refine Vector.ext fun i hi => ?_
    rw [Vector.getElem_ofFn, Vector.getElem_ofFn]
    by_cases he : k = ⟨i, hi⟩
    · subst he
      simp [hk, Bay.modChan]
    · have he' : ¬(⟨i, hi⟩ : ChanNo) = k := fun h => he h.symm
      simp only [List.mem_cons, he', false_or, Bay.chan_modChan_ne b (f k) he]

/-- R95: the channels of a bay that the load of cell `c` has left. -/
def Bay.leftChannels (x : Ctx) (b : Bay) (c : CellNo) : Vector Channel 8 := Vector.ofFn fun k => (b.chan k).left x c k

/-- R83, R95: the lists that hold a cell's load are left, no round starting by it. -/
theorem Bay.leaveLists_eq {x : Ctx} {b : Bay} {c : CellNo}
    (h : ∀ k, ({ b with waitQueue := b.waitQueue.filter (· ≠ c) } : Bay).QuietLeave c k) :
    b.leaveLists x c = ({ b with waitQueue := b.waitQueue.filter (· ≠ c) } : Bay).withChannels (b.leftChannels x c) := by
  have hfold : ∀ (ks : List ChanNo) (b' : Bay), ks.Nodup → (∀ k ∈ ks, b'.QuietLeave c k) →
      ks.foldl (Bay.leaveChannel x c) b' = ks.foldl (fun b k => b.modChan k (Channel.left x c k)) b' := by
    intro ks
    induction ks with
    | nil => exact fun _ _ _ => rfl
    | cons k ks ih =>
      intro b' hnd hq
      obtain ⟨hk, hks⟩ := List.nodup_cons.1 hnd
      rw [List.foldl_cons, List.foldl_cons, Bay.leaveChannel_eq (hq k List.mem_cons_self)]
      refine ih _ hks fun k' hk' => ?_
      have hne : k ≠ k' := fun he => hk (he ▸ hk')
      unfold Bay.QuietLeave
      rw [Bay.chan_modChan_ne _ _ hne]
      exact hq k' (List.mem_cons_of_mem _ hk')
  unfold Bay.leaveLists allChans
  rw [hfold _ _ (List.nodup_finRange 8) fun k _ => h k, Bay.foldl_modChan _ _ _ (List.nodup_finRange 8)]
  unfold Bay.leftChannels
  simp only [List.mem_finRange, if_true]

theorem State.EndsNoRound.quietLeave {s : State} {c : CellNo} (h : s.EndsNoRound c) {b : Bay} (hc : b.channels = s.bay.channels)
    (hw : b.waitQueue = s.bay.waitQueue.filter (· ≠ c)) (k : ChanNo) : b.QuietLeave c k := by
  have hk : b.chan k = s.bay.chan k := by simp only [Bay.chan, hc]
  unfold Bay.QuietLeave
  rw [hk]
  intro ht hall hp
  obtain ⟨hn, hq⟩ := h k ht hall hp
  refine ⟨hn, ?_⟩
  rw [hw, List.filter_eq_nil_iff]
  simpa using hq

/-- R95: the view of a channel that a load has left. -/
theorem State.view_left (s : State) (c : CellNo) (k : ChanNo) : ((s.bay.chan k).left s.ctx c k).view = s.leftView k c := by
  generalize hch : s.bay.chan k = ch
  have hall : ch.targets.all (·.cell ≠ c) = !ch.targets.any (·.cell = c) := by
    rw [List.all_eq_not_any_not]
    simp
  unfold Channel.left State.leftView
  rw [hch]
  dsimp only
  rw [hall]
  by_cases hany : ch.targets.any (·.cell = c) = true
  · rw [hany, if_pos rfl, if_neg (by decide)]
    unfold Channel.targetGone
    rw [show (ch.without c).targets = ch.targets.filter (·.cell ≠ c) from rfl, show (ch.without c).pull = ch.pull from rfl]
    by_cases ht : ch.targets.filter (·.cell ≠ c) = []
    · rw [if_neg (not_not.2 ht), if_neg (not_not.2 ht)]
      by_cases hp : ch.pull.isSome = true
      · rw [if_pos hp, if_pos hp]
        rfl
      · rw [if_neg hp, if_neg hp, State.idleView, hch]
        rfl
    · rw [if_pos ht, if_pos ht]
      rfl
  · rw [Bool.not_eq_true] at hany
    rw [hany, if_neg Bool.false_ne_true]
    rfl

/-- R83, R95: a bay whose wait queue and channels are those of the state that the load of cell `c` has left. -/
def State.leftBay (s : State) (c : CellNo) (b : Bay) : Bay :=
  { b with waitQueue := s.bay.waitQueue.filter (· ≠ c), channels := s.bay.leftChannels s.ctx c }

theorem State.records_leftBay (s : State) (c : CellNo) (b : Bay) :
    ({ s with bay := s.leftBay c b } : State).records = s.leftBy c ({ s with bay := b } : State).records := by
  have hv : (s.bay.leftChannels s.ctx c).map Channel.view = Vector.ofFn fun k => s.leftView k c := by
    refine Vector.ext fun i hi => ?_
    rw [Vector.getElem_map, Bay.leftChannels, Vector.getElem_ofFn, Vector.getElem_ofFn, State.view_left]
  unfold State.leftBy
  rw [← hv]
  rfl

theorem Bay.leaveLists_of_endsNoRound {s : State} {b : Bay} {c : CellNo} (h : s.EndsNoRound c) (hc : b.channels = s.bay.channels)
    (hw : b.waitQueue = s.bay.waitQueue) : b.leaveLists s.ctx c = s.leftBay c b := by
  rw [Bay.leaveLists_eq fun k => h.quietLeave (b := { b with waitQueue := b.waitQueue.filter (· ≠ c) }) hc (congrArg (·.filter (· ≠ c)) hw) k]
  unfold State.leftBay Bay.withChannels Bay.leftChannels
  simp only [Bay.chan, hc, hw]


/-! ### A load given up (R36, R41, R83) -/

/-- A bay whose lots, queue, channels and wait queue are those of a state. -/
structure Bay.Matches (b : Bay) (s : State) : Prop where
  lots : b.lots = s.bay.lots
  queue : b.queue = s.bay.queue
  channels : b.channels = s.bay.channels
  waitQueue : b.waitQueue = s.bay.waitQueue
  stamped : b.stamped = []

theorem Bay.Matches.newEvent (s : State) : s.newEvent.bay.Matches s := ⟨rfl, rfl, rfl, rfl, rfl⟩

theorem Bay.Matches.modCell {b : Bay} {s : State} (h : b.Matches s) (c : CellNo) (f : CellRec → CellRec) :
    (b.modCell c f).Matches s :=
  ⟨(Bay.lots_modCell ..).trans h.lots, (Bay.queue_modCell ..).trans h.queue, (Bay.channels_modCell ..).trans h.channels,
    (Bay.waitQueue_modCell ..).trans h.waitQueue, (Bay.stamped_modCell ..).trans h.stamped⟩

theorem Bay.Grows.abandonLoad (x : Ctx) (b : Bay) (c : CellNo) : b.Grows (b.abandonLoad x c) := by
  unfold Bay.abandonLoad
  split
  · exact .refl b
  · exact (Bay.Grows.of_reloads (.leaveLists ..)).trans (.modCell ..)

theorem Bay.Grows.leaveLoading (x : Ctx) (b : Bay) (c : CellNo) (after : CellState) : b.Grows (b.leaveLoading x c after) :=
  ((Bay.Grows.modCell ..).trans (.abandonLoad ..)).trans (.returnSublot ..)

theorem Bay.owed_modCell {b : Bay} {c : CellNo} {f : CellRec → CellRec} (h : (f (b.cell c)).noticed ≠ (b.cell c).noticed) :
    .cellState c ∈ (b.modCell c f).notices := Bay.mem_notices_modCell.2 (.inl ⟨rfl, h⟩)

theorem CellRec.noticed_ne_of_state {r r' : CellRec} (h : r'.state ≠ r.state) : r'.noticed ≠ r.noticed :=
  fun he => h (congrArg CellView.state he)

/-- R36, R83: a load is given up. -/
theorem Bay.bare_abandonLoad {s : State} {b : Bay} {c : CellNo} {ld : LoadRec} (hl : (b.cell c).load = some ld) (hb : b.Matches s)
    (he : s.EndsNoRound c) : (b.abandonLoad s.ctx c).bare = (s.leftBay c b.bare).setCell c ((b.cell c).unloaded ld) := by
  unfold Bay.abandonLoad
  rw [hl]
  dsimp only
  rw [Bay.bare_modCell, Bay.leaveLists_of_endsNoRound he hb.channels hb.waitQueue]
  rfl

theorem Bay.stamped_abandonLoad (x : Ctx) (b : Bay) (c : CellNo) : (b.abandonLoad x c).stamped = b.stamped := by
  unfold Bay.abandonLoad
  split
  · rfl
  · rw [Bay.stamped_modCell, (Bay.Reloads.leaveLists x b c).stamped]

/-- A cell that has given up its load and its assignment, and taken its new state. -/
def CellRec.loadGone (r : CellRec) (ld : LoadRec) (after : CellState) : CellRec :=
  { r.unloaded ld with state := after, assignment := none }

/-- The bay of a state that the load of cell `c` has left, with a lot, a queue and a cell written. -/
theorem State.records_leftBay_write (s : State) (c : CellNo) (h : LotNo) (l : LotRec) (q : List LotNo) (r : CellRec) :
    ({ s with bay := (s.leftBay c ((s.bay.bare.withQueue q).setLot h l)).setCell c r } : State).records
      = (s.leftBy c { s.records.setLot h l with queue := q }).setCell c r := by
  refine (congrArg (Records.setCell · c r) (s.records_leftBay c ((s.bay.bare.withQueue q).setLot h l)) :)

/-- The bay of a cell that has given up its load, before the return of its quantity. -/
structure Bay.GivenUp (s : State) (b b' : Bay) (c : CellNo) (r : CellRec) : Prop where
  bare : b'.bare = (s.leftBay c b.bare).setCell c r
  stamped : b'.stamped = []

theorem Bay.givenUp {s : State} {b : Bay} {c : CellNo} {ld : LoadRec} {after : CellState} (hl : (b.cell c).load = some ld)
    (hb : b.Matches s) (he : s.EndsNoRound c) :
    Bay.GivenUp s b ((b.modCell c fun r => { r with state := after }).abandonLoad s.ctx c) c
      ({ b.cell c with state := after }.unloaded ld) := by
  have hm := hb.modCell c fun r => { r with state := after }
  have hcell := Bay.cell_modCell_self b c fun r => { r with state := after }
  refine ⟨?_, (Bay.stamped_abandonLoad ..).trans hm.stamped⟩
  rw [Bay.bare_abandonLoad (by rw [hcell]; exact hl) hm he, hcell, Bay.bare_modCell]
  exact Bay.setCell_setCell (s.leftBay c b.bare) ..

theorem Bay.bare_leaveLoading_none {s : State} {b : Bay} {c : CellNo} {ld : LoadRec} {after : CellState}
    (hl : (b.cell c).load = some ld) (ha : (b.cell c).assignment = none) (hb : b.Matches s) (he : s.EndsNoRound c) :
    (b.leaveLoading s.ctx c after).bare = (s.leftBay c b.bare).setCell c ((b.cell c).loadGone ld after) := by
  obtain ⟨hbare, _⟩ := Bay.givenUp (after := after) hl hb he
  have hnone : (((b.modCell c fun r => { r with state := after }).abandonLoad s.ctx c).cell c).assignment = none := by
    rw [Bay.cell_of_bare hbare, Bay.cell_setCell_self]
    exact ha
  unfold Bay.leaveLoading Bay.returnSublot
  rw [hnone]
  dsimp only
  rw [hbare]
  unfold CellRec.loadGone CellRec.unloaded
  rw [← ha]

theorem Bay.bare_leaveLoading_some {s : State} {b : Bay} {c : CellNo} {ld : LoadRec} {a : Assignment} {after : CellState}
    (hl : (b.cell c).load = some ld) (ha : (b.cell c).assignment = some a) (hb : b.Matches s) (he : s.EndsNoRound c)
    (hk : s.KeepsOpen a.lot a.qty) (hidle : ∀ c', c' ≠ c → (b.cell c').state ≠ .idle) (hafter : after ≠ .idle) :
    (b.leaveLoading s.ctx c after).bare
      = (s.leftBay c (s.returnedBay b a.lot a.qty)).setCell c ((b.cell c).loadGone ld after) := by
  obtain ⟨hbare, hst⟩ := Bay.givenUp (after := after) hl hb he
  unfold Bay.leaveLoading
  generalize (b.modCell c fun r => { r with state := after }).abandonLoad s.ctx c = b' at hbare hst
  have hcell : b'.cell c = { b.cell c with state := after }.unloaded ld := by rw [Bay.cell_of_bare hbare, Bay.cell_setCell_self]
  rw [Bay.bare_returnSublot (s := s) (a := a) (by rw [hcell]; exact ha) ((Bay.lots_of_bare hbare :).trans hb.lots)
    ((Bay.queue_of_bare hbare :).trans hb.queue) (by rw [hst]; exact List.not_mem_nil) hk, hcell]
  · unfold State.returnedBay
    rw [hbare, Bay.withQueue_setCell, Bay.setLot_setCell, Bay.setCell_setCell]
    rfl
  · intro c' hi
    by_cases hcc : c = c'
    · subst hcc
      rw [hcell] at hi
      exact absurd hi hafter
    · rw [Bay.cell_of_bare hbare, Bay.cell_setCell_ne _ _ hcc] at hi
      exact absurd hi (hidle c' (Ne.symm hcc))

/-! ### CELL.CLAIM (R40, R41) -/

/-- The effect and the answer of a claim whose cell ends in state `st`. -/
theorem answers_of_claim {tag : Half} {cell st : Byte} {s : State} {c : CellNo} {b' : Bay} {rec : Records} {reported : List Notice}
    (ht : s.TakesRequests) (hc : cell.toNat < 32) (hd : ⟨cell.toNat, hc⟩ = c) (hb : (s.newEvent.bay.claim s.ctx c).bare = b')
    (hst : (b'.cell c).state.code = st) (hr : ({ s with bay := b' } : State).records = rec)
    (hn : ∀ n ∈ reported, n ∈ (s.newEvent.bay.claim s.ctx c).notices) :
    Answers (.cellClaim tag cell) s rec none 0x30#8 tag { status := .done, data := [st] } reported := by
  subst hd
  refine answers_of_cellRequest
    (f := fun x b c => (b.claim x c, { status := .done, data := [((b.claim x c).cell c).state.code] })) rfl ht rfl hc ?_
    (records_of_bare hb hr) hn
  rw [← hst, ← Bay.cell_of_bare hb]

theorem Bay.claim_idle {x : Ctx} {b : Bay} {c : CellNo}
    (h : (b.cell c).state ∈ [.idle, .notReady, .localMode, .offline, .faulted, .claimed]) :
    b.claim x c = b.modCell c fun r => { r with state := .claimed } := by
  unfold Bay.claim
  simp only [List.mem_cons, List.not_mem_nil, or_false] at h
  rcases h with h | h | h | h | h | h <;> rw [h]

theorem Bay.claim_running {x : Ctx} {b : Bay} {c : CellNo} (h : (b.cell c).state = .running) :
    b.claim x c = if (b.cell c).claimPending then b else (b.modCell c fun r => { r with claimPending := true }).finishDue c := by
  unfold Bay.claim
  rw [h]

theorem Bay.claim_offered {x : Ctx} {b : Bay} {c : CellNo} (h : (b.cell c).state = .offered) :
    b.claim x c = b.withdrawOffer x c .claimed := by
  unfold Bay.claim
  rw [h]

theorem Bay.claim_loading {x : Ctx} {b : Bay} {c : CellNo} (h : (b.cell c).state = .loading) :
    b.claim x c = b.leaveLoading x c .claimed := by
  unfold Bay.claim
  rw [h]

theorem CellRec.state_finished (r : CellRec) : r.finished.state = r.state := by
  unfold CellRec.finished
  split
  · rfl
  · split <;> rfl

/-- R31: a cell that leaves its load or its offer is a cell whose state changes. -/
theorem Bay.owed_leaveLoading {x : Ctx} {b : Bay} {c : CellNo} {after : CellState} (h : (b.cell c).state ≠ after) :
    .cellState c ∈ (b.leaveLoading x c after).notices :=
  ((Bay.Grows.abandonLoad ..).trans (.returnSublot ..)).1 _
    (Bay.owed_modCell (f := fun r => { r with state := after }) (CellRec.noticed_ne_of_state (Ne.symm h)))

theorem Bay.owed_withdrawOffer {x : Ctx} {b : Bay} {c : CellNo} {after : CellState} (h : (b.cell c).state ≠ after) :
    .cellState c ∈ (b.withdrawOffer x c after).notices := by
  have hmod : .cellState c ∈ (b.modCell c fun r => { r with state := after, offerDeadline := none }).notices :=
    Bay.owed_modCell (CellRec.noticed_ne_of_state (Ne.symm h))
  unfold Bay.withdrawOffer
  dsimp only
  split
  · exact hmod
  · exact ((Bay.Grows.withdrawDue ..).trans (.returnSublot ..)).1 _ hmod

/-- R41: a RUNNING cell claimed for the first time. -/
theorem Bay.bare_claim_running {x : Ctx} {b : Bay} {c : CellNo} (h : (b.cell c).state = .running)
    (hp : (b.cell c).claimPending = false) :
    (b.claim x c).bare = b.bare.setCell c { b.cell c with claimPending := true }.finished ∧ .cellState c ∈ (b.claim x c).notices := by
  rw [Bay.claim_running h, if_neg (by rw [hp]; decide), Bay.finishDue_eq]
  refine ⟨?_, Bay.owed_modCell fun he => ?_⟩
  · rw [Bay.bare_setCell, Bay.bare_modCell, Bay.setCell_setCell, Bay.cell_modCell_self]
  · have hmarks := congrArg CellView.marks he
    simp only [CellRec.noticed, List.cons.injEq] at hmarks
    exact nomatch (hp.symm.trans hmarks.2.1.symm : false = true)

theorem Bay.bare_claim_idle {x : Ctx} {b : Bay} {c : CellNo}
    (h : (b.cell c).state ∈ [.idle, .notReady, .localMode, .offline, .faulted, .claimed]) :
    (b.claim x c).bare = b.bare.setCell c { b.cell c with state := .claimed }
      ∧ ((b.cell c).state ≠ .claimed → .cellState c ∈ (b.claim x c).notices) := by
  rw [Bay.claim_idle h]
  exact ⟨Bay.bare_modCell .., fun hne => Bay.owed_modCell (CellRec.noticed_ne_of_state (Ne.symm hne))⟩

/-- The records of a state that the load of cell `c` has left, the cell written. -/
theorem State.records_leftBay_cell (s : State) (c : CellNo) (r : CellRec) :
    ({ s with bay := (s.leftBay c s.bay.bare).setCell c r } : State).records = (s.leftBy c s.records).setCell c r :=
  congrArg (Records.setCell · c r) (s.records_leftBay c s.bay.bare)

theorem claim_running {tag : Half} {cell : Byte} {s : State} (ht : s.TakesRequests) (hc : cell.toNat < 32) {c : CellNo}
    (hd : ⟨cell.toNat, hc⟩ = c) (hst : (s.bay.cell c).state = .running) (hp : (s.bay.cell c).claimPending = false) :
    Answers (.cellClaim tag cell) s (s.records.setCell c { s.bay.cell c with claimPending := true }.finished) none 0x30#8 tag
      { status := .done, data := [5#8] } [.cellState c] := by
  obtain ⟨hb, hn⟩ := Bay.bare_claim_running (x := s.ctx) (b := s.newEvent.bay) hst hp
  refine answers_of_claim ht hc hd hb ?_ rfl (List.forall_mem_singleton.2 hn)
  rw [Bay.cell_setCell_self, CellRec.state_finished]
  exact congrArg CellState.code hst

theorem claim_offered {tag : Half} {cell : Byte} {s : State} (ht : s.TakesRequests) (hc : cell.toNat < 32) {c : CellNo}
    (hd : ⟨cell.toNat, hc⟩ = c) {a : Assignment} (hst : (s.bay.cell c).state = .offered) (ha : (s.bay.cell c).assignment = some a)
    (hni : s.NoIdle) (hk : s.KeepsOpen a.lot a.qty) :
    Answers (.cellClaim tag cell) s ((s.afterReturn a.lot a.qty).setCell c ((s.bay.cell c).offerGone a .claimed)) none 0x30#8 tag
      { status := .done, data := [7#8] } [.cellState c] := by
  have heq := Bay.claim_offered (x := s.ctx) (b := s.newEvent.bay) hst
  have hb := Bay.bare_withdrawOffer (s := s) (b := s.newEvent.bay) (after := .claimed) ha rfl rfl List.not_mem_nil hk
    (fun c' _ hi => absurd hi (hni c')) nofun
  have hne : (s.newEvent.bay.cell c).state ≠ .claimed := fun h => nomatch (hst.symm.trans h : CellState.offered = .claimed)
  refine answers_of_claim ht hc hd (heq ▸ hb) ?_ (records_returnedBay s s.newEvent.bay c _ _ _ (.inl rfl))
    (List.forall_mem_singleton.2 (heq ▸ Bay.owed_withdrawOffer hne))
  rw [Bay.cell_setCell_self]
  rfl

theorem claim_loading {tag : Half} {cell : Byte} {s : State} (ht : s.TakesRequests) (hc : cell.toNat < 32) {c : CellNo}
    (hd : ⟨cell.toNat, hc⟩ = c) {b : Bay} {ld : LoadRec} {rec : Records} (hst : (s.bay.cell c).state = .loading)
    (hb : (s.newEvent.bay.leaveLoading s.ctx c .claimed).bare = b.setCell c ((s.bay.cell c).loadGone ld .claimed))
    (hr : ({ s with bay := b.setCell c ((s.bay.cell c).loadGone ld .claimed) } : State).records = rec) :
    Answers (.cellClaim tag cell) s rec none 0x30#8 tag { status := .done, data := [7#8] } [.cellState c] := by
  have heq := Bay.claim_loading (x := s.ctx) (b := s.newEvent.bay) hst
  have hne : (s.newEvent.bay.cell c).state ≠ .claimed := fun h => nomatch (hst.symm.trans h : CellState.loading = .claimed)
  refine answers_of_claim ht hc hd (heq ▸ hb) ?_ hr (List.forall_mem_singleton.2 (heq ▸ Bay.owed_leaveLoading hne))
  rw [Bay.cell_setCell_self]
  rfl

/-- Settles O24: by the state of the cell; a load given up with and without an assignment. -/
theorem cellClaim : Obligations.CellClaim := by
  intro tag cell s hs hc c r claims
  refine ⟨fun hst => ?_, fun hst => ⟨fun hp => ?_, fun hp => claim_running hs hc rfl hst hp⟩,
    fun hst a ha hni hk => claim_offered hs hc rfl hst ha hni hk, fun hst ld hl he => ?_⟩
  · obtain ⟨hb, hn⟩ := Bay.bare_claim_idle (x := s.ctx) (b := s.newEvent.bay) hst
    refine answers_of_claim hs hc rfl hb (by rw [Bay.cell_setCell_self]; rfl) rfl fun n hm => ?_
    split at hm
    · cases hm
    · next hne =>
      cases List.mem_singleton.1 hm
      exact hn hne
  · have heq : s.newEvent.bay.claim s.ctx c = s.newEvent.bay :=
      (Bay.claim_running (b := s.newEvent.bay) hst).trans (if_pos hp)
    exact answers_of_claim hs hc rfl (congrArg Bay.bare heq) (congrArg CellState.code hst) rfl (by simp)
  · intro gone
    refine ⟨fun ha => ?_, fun a ha hni hk => ?_⟩
    · exact claim_loading hs hc rfl hst (Bay.bare_leaveLoading_none hl ha (.newEvent s) he) (s.records_leftBay_cell c _)
    · exact claim_loading hs hc rfl hst
        (Bay.bare_leaveLoading_some hl ha (.newEvent s) he hk (fun c' _ => hni c') nofun) (s.records_leftBay_write c _ _ _ _)

/-! ### STATE (R34 to R38) -/

/-- R34: a cell with the alarm code of a STATE. -/
def CellRec.alarmed (alarm : Half) (r : CellRec) : CellRec := { r with alarm := alarm }

/-- R34: the bay as a STATE has recorded its alarm code. -/
def Bay.alarmedAt (b : Bay) (c : CellNo) (alarm : Half) : Bay := b.modCell c (CellRec.alarmed alarm)

theorem Bay.stateFrame_local (x : Ctx) (b : Bay) (c : CellNo) (alarm : Half) :
    b.stateFrame x c 0#8 alarm = (b.alarmedAt c alarm).takeover x c := rfl

theorem Bay.stateFrame_remote (x : Ctx) (b : Bay) (c : CellNo) (alarm : Half) :
    b.stateFrame x c 1#8 alarm = (b.alarmedAt c alarm).remote c := rfl

theorem Bay.stateFrame_other {x : Ctx} {b : Bay} {c : CellNo} {mode : Byte} {alarm : Half} (h0 : mode ≠ 0#8) (h1 : mode ≠ 1#8) :
    b.stateFrame x c mode alarm = (b.alarmedAt c alarm).protocolError c := by
  unfold Bay.stateFrame
  dsimp only
  split
  · next h => exact absurd (BitVec.eq_of_toNat_eq h) h0
  · next h => exact absurd (BitVec.eq_of_toNat_eq h) h1
  · rfl

theorem Bay.bare_alarmedAt (b : Bay) (c : CellNo) (alarm : Half) :
    (b.alarmedAt c alarm).bare = b.bare.setCell c ((b.cell c).alarmed alarm) := Bay.bare_modCell ..

theorem Bay.cell_alarmedAt (b : Bay) (c : CellNo) (alarm : Half) :
    (b.alarmedAt c alarm).cell c = (b.cell c).alarmed alarm := Bay.cell_modCell_self ..

theorem Bay.takeover_idle {x : Ctx} {b : Bay} {c : CellNo} (h : (b.cell c).state ∈ [.offline, .notReady, .idle, .localMode]) :
    (b.takeover x c).bare = b.bare.setCell c { b.cell c with state := .localMode } := by
  unfold Bay.takeover
  simp only [List.mem_cons, List.not_mem_nil, or_false] at h
  rcases h with h | h | h | h <;> rw [h]
  case inr.inr.inr =>
    dsimp only
    rw [← h]
    exact (Bay.setCell_self b.bare c).symm
  all_goals exact Bay.bare_modCell ..

theorem Bay.takeover_running {x : Ctx} {b : Bay} {c : CellNo} (h : (b.cell c).state = .running) :
    (b.takeover x c).bare = b.bare.setCell c { b.cell c with localPending := true } := by
  unfold Bay.takeover
  rw [h]
  exact Bay.bare_modCell ..

theorem Bay.takeover_kept {x : Ctx} {b : Bay} {c : CellNo} (h : (b.cell c).state ∈ [.claimed, .faulted]) : b.takeover x c = b := by
  unfold Bay.takeover
  simp only [List.mem_cons, List.not_mem_nil, or_false] at h
  rcases h with h | h <;> rw [h]

theorem Bay.takeover_offered {x : Ctx} {b : Bay} {c : CellNo} (h : (b.cell c).state = .offered) :
    b.takeover x c = b.withdrawOffer x c .localMode := by
  unfold Bay.takeover
  rw [h]

theorem Bay.takeover_loading {x : Ctx} {b : Bay} {c : CellNo} (h : (b.cell c).state = .loading) :
    b.takeover x c = b.leaveLoading x c .localMode := by
  unfold Bay.takeover
  rw [h]

theorem Bay.remote_local {b : Bay} {c : CellNo} (h : (b.cell c).state = .localMode) :
    (b.remote c).bare = b.bare.setCell c { b.cell c with state := .notReady } := by
  unfold Bay.remote
  rw [h]
  exact Bay.bare_modCell ..

theorem Bay.remote_running {b : Bay} {c : CellNo} (h : (b.cell c).state = .running) :
    (b.remote c).bare = b.bare.setCell c { b.cell c with localPending := false } := by
  unfold Bay.remote
  rw [h]
  exact Bay.bare_modCell ..

theorem Bay.remote_kept {b : Bay} {c : CellNo} (hl : (b.cell c).state ≠ .localMode) (hr : (b.cell c).state ≠ .running) :
    b.remote c = b := by
  unfold Bay.remote
  split
  · next h => exact absurd h hl
  · next h => exact absurd h hr
  · rfl

/-- A STATE whose effect, behind the record of its alarm code, writes the cell's record alone. -/
theorem takes_state_cell {c : CellNo} {lot : Half} {mode : Byte} {alarm : Half} {s : State} {b : Bay} {r : CellRec}
    (ht : s.TakesFrame c .state) (he : s.newEvent.bay.stateFrame s.ctx c mode alarm = b)
    (hb : b.bare = (s.newEvent.bay.alarmedAt c alarm).bare.setCell c r) :
    Takes s c .handler lot (.state mode alarm) (s.records.setCell c r) := by
  rw [Bay.bare_alarmedAt, Bay.setCell_setCell] at hb
  exact takes_of_effect (m := .state mode alarm) ht he (records_of_bare hb rfl) (by simp)

/-- The same for one whose effect writes nothing more. -/
theorem takes_state_alarm {c : CellNo} {lot : Half} {mode : Byte} {alarm : Half} {s : State} (ht : s.TakesFrame c .state)
    (he : s.newEvent.bay.stateFrame s.ctx c mode alarm = s.newEvent.bay.alarmedAt c alarm) :
    Takes s c .handler lot (.state mode alarm) (s.records.setCell c ((s.bay.cell c).alarmed alarm)) := by
  refine takes_state_cell ht he ?_
  rw [Bay.bare_alarmedAt, Bay.setCell_setCell]
  rfl

/-- R35: a takeover of a cell whose offer is withdrawn. -/
theorem state_offered {c : CellNo} {lot : Half} {alarm : Half} {s : State} {a : Assignment} (ht : s.TakesFrame c .state)
    (hst : (s.bay.cell c).state = .offered) (ha : (s.bay.cell c).assignment = some a) (hni : s.NoIdle)
    (hk : s.KeepsOpen a.lot a.qty) :
    Takes s c .handler lot (.state 0#8 alarm)
      ((s.afterReturn a.lot a.qty).setCell c (((s.bay.cell c).alarmed alarm).offerGone a .localMode)) [.cellState c] := by
  generalize hbd : s.newEvent.bay.alarmedAt c alarm = b
  have hm : b.Matches s := hbd ▸ (Bay.Matches.newEvent s).modCell c _
  have hcell : b.cell c = (s.bay.cell c).alarmed alarm := hbd ▸ Bay.cell_alarmedAt ..
  have hbare : b.bare = s.bay.bare.setCell c ((s.bay.cell c).alarmed alarm) := hbd ▸ Bay.bare_alarmedAt ..
  have hb := Bay.bare_withdrawOffer (s := s) (b := b) (after := .localMode) (by rw [hcell]; exact ha) hm.lots hm.queue
    (by rw [hm.stamped]; exact List.not_mem_nil) hk (fun c' hne hi => by
      rw [Bay.cell_of_bare hbare, Bay.cell_setCell_ne _ _ hne.symm] at hi
      exact absurd hi (hni c')) nofun
  rw [hcell] at hb
  have hst' : (b.cell c).state = .offered := by rw [hcell]; exact hst
  have heff : s.newEvent.bay.stateFrame s.ctx c 0#8 alarm = b.withdrawOffer s.ctx c .localMode := by
    rw [Bay.stateFrame_local, hbd, Bay.takeover_offered hst']
  exact takes_of_effect (m := .state 0#8 alarm) ht heff
    (records_of_bare hb (records_returnedBay s b c _ _ _ (.inr ⟨_, hbare⟩)))
    (List.forall_mem_singleton.2 (Bay.owed_withdrawOffer (by rw [hst']; decide)))

theorem CellRec.loadGone_of_none {r : CellRec} (ha : r.assignment = none) (ld : LoadRec) (after : CellState) :
    r.loadGone ld after = { r.unloaded ld with state := after } := by
  unfold CellRec.loadGone CellRec.unloaded
  rw [← ha]

/-- R36: a takeover of a cell that gives up its load. -/
theorem state_loading {c : CellNo} {lot : Half} {alarm : Half} {s : State} {ld : LoadRec} {b' : Bay} {rec : Records}
    (ht : s.TakesFrame c .state) (hst : (s.bay.cell c).state = .loading)
    (hb : ((s.newEvent.bay.alarmedAt c alarm).leaveLoading s.ctx c .localMode).bare
      = b'.setCell c (((s.bay.cell c).alarmed alarm).loadGone ld .localMode))
    (hr : ({ s with bay := b'.setCell c (((s.bay.cell c).alarmed alarm).loadGone ld .localMode) } : State).records = rec) :
    Takes s c .handler lot (.state 0#8 alarm) rec [.cellState c] := by
  have hst' : ((s.newEvent.bay.alarmedAt c alarm).cell c).state = .loading := by rw [Bay.cell_alarmedAt]; exact hst
  have heff := (Bay.stateFrame_local s.ctx s.newEvent.bay c alarm).trans (Bay.takeover_loading hst')
  exact takes_of_effect (m := .state 0#8 alarm) ht heff (records_of_bare hb hr)
    (List.forall_mem_singleton.2 (Bay.owed_leaveLoading (by rw [hst']; decide)))

theorem state_loading_some {c : CellNo} {lot : Half} {alarm : Half} {s : State} {ld : LoadRec} {a : Assignment}
    (ht : s.TakesFrame c .state) (hst : (s.bay.cell c).state = .loading) (hl : (s.bay.cell c).load = some ld)
    (ha : (s.bay.cell c).assignment = some a) (he : s.EndsNoRound c) (hni : s.NoIdle) (hk : s.KeepsOpen a.lot a.qty) :
    Takes s c .handler lot (.state 0#8 alarm)
      ((s.leftBy c (s.afterReturn a.lot a.qty)).setCell c (((s.bay.cell c).alarmed alarm).loadGone ld .localMode))
      [.cellState c] := by
  have hm := (Bay.Matches.newEvent s).modCell c (CellRec.alarmed alarm)
  have hcell := Bay.cell_alarmedAt s.newEvent.bay c alarm
  have hbare := Bay.bare_alarmedAt s.newEvent.bay c alarm
  have hb := Bay.bare_leaveLoading_some (s := s) (b := s.newEvent.bay.alarmedAt c alarm) (after := .localMode)
    (by rw [hcell]; exact hl) (by rw [hcell]; exact ha) hm he hk (fun c' hne hi => by
      rw [Bay.cell_of_bare hbare, Bay.cell_setCell_ne _ _ hne.symm] at hi
      exact hni c' hi) nofun
  rw [hcell] at hb
  have hleft : (s.leftBay c (s.returnedBay (s.newEvent.bay.alarmedAt c alarm) a.lot a.qty)).setCell c
        (((s.bay.cell c).alarmed alarm).loadGone ld .localMode)
      = (s.leftBay c ((s.bay.bare.withQueue (s.returned a.lot a.qty).2).setLot a.lot (s.returned a.lot a.qty).1)).setCell c
        (((s.bay.cell c).alarmed alarm).loadGone ld .localMode) := by
    unfold State.returnedBay
    rw [hbare]
    exact Bay.setCell_setCell
      (s.leftBay c ((s.bay.bare.withQueue (s.returned a.lot a.qty).2).setLot a.lot (s.returned a.lot a.qty).1)) c _ _
  exact state_loading ht hst (hb.trans hleft) (s.records_leftBay_write c _ _ _ _)

theorem state_loading_none {c : CellNo} {lot : Half} {alarm : Half} {s : State} {ld : LoadRec} (ht : s.TakesFrame c .state)
    (hst : (s.bay.cell c).state = .loading) (hl : (s.bay.cell c).load = some ld) (ha : (s.bay.cell c).assignment = none)
    (he : s.EndsNoRound c) :
    Takes s c .handler lot (.state 0#8 alarm)
      ((s.leftBy c s.records).setCell c (((s.bay.cell c).alarmed alarm).loadGone ld .localMode)) [.cellState c] := by
  have hm := (Bay.Matches.newEvent s).modCell c (CellRec.alarmed alarm)
  have hcell := Bay.cell_alarmedAt s.newEvent.bay c alarm
  have hb := Bay.bare_leaveLoading_none (s := s) (b := s.newEvent.bay.alarmedAt c alarm) (after := .localMode)
    (by rw [hcell]; exact hl) (by rw [hcell]; exact ha) hm he
  rw [hcell] at hb
  refine state_loading ht hst hb ?_
  rw [Bay.bare_alarmedAt]
  exact (congrArg (fun b => ({ s with bay := b } : State).records) (Bay.setCell_setCell (s.leftBay c s.bay.bare) c _ _)).trans
    (s.records_leftBay_cell c _)

/-- Settles O39: by the mode, and by the state of the cell. -/
theorem stateFrames : Obligations.StateFrames := by
  intro c lot mode alarm s hs r takes
  have hcell := Bay.cell_alarmedAt s.newEvent.bay c alarm
  have hst (st : CellState) (h : r.state = st) : ((s.newEvent.bay.alarmedAt c alarm).cell c).state = st := by rw [hcell]; exact h
  have hmem (l : List CellState) (h : r.state ∈ l) : ((s.newEvent.bay.alarmedAt c alarm).cell c).state ∈ l := by
    rw [hcell]
    exact h
  have hwrite {b : Bay} {f : CellRec → CellRec} (he : s.newEvent.bay.stateFrame s.ctx c mode alarm = b)
      (hb : b.bare = (s.newEvent.bay.alarmedAt c alarm).bare.setCell c (f ((s.newEvent.bay.alarmedAt c alarm).cell c))) :
      takes (f r) := takes_state_cell hs he (by rw [hb, hcell]; rfl)
  refine ⟨fun h0 h1 => ?_, fun hm hk => ?_, ?_, ?_⟩
  · exact hwrite (f := CellRec.erred) (Bay.stateFrame_other h0 h1) (by rw [Bay.protocolError_eq, Bay.bare_setCell])
  · refine takes_state_alarm hs ?_
    rcases hm with rfl | rfl
    · rw [Bay.stateFrame_local, Bay.takeover_kept (hmem _ hk)]
    · rw [Bay.stateFrame_remote, Bay.remote_kept]
      · exact ne_of_mem_of_not_mem (hmem _ hk) (by decide)
      · exact ne_of_mem_of_not_mem (hmem _ hk) (by decide)
  · rintro rfl
    refine ⟨fun h => ?_, fun h => ?_, fun hni a ha hk => ⟨fun h => state_offered hs h ha hni hk,
      fun h ld hl he => state_loading_some hs h hl ha he hni hk⟩, fun h ha ld hl he => ?_⟩
    · exact hwrite (f := fun r => { r with state := .localMode }) (Bay.stateFrame_local ..) (Bay.takeover_idle (hmem _ h))
    · exact hwrite (f := fun r => { r with localPending := true }) (Bay.stateFrame_local ..) (Bay.takeover_running (hst _ h))
    · have hgone := state_loading_none (lot := lot) (alarm := alarm) hs h hl ha he
      rw [CellRec.loadGone_of_none (r := (s.bay.cell c).alarmed alarm) ha] at hgone
      exact hgone
  · rintro rfl
    refine ⟨fun h => ?_, fun h => ?_, fun h => ?_⟩
    · exact hwrite (f := fun r => { r with state := .notReady }) (Bay.stateFrame_remote ..) (Bay.remote_local (hst _ h))
    · exact hwrite (f := fun r => { r with localPending := false }) (Bay.stateFrame_remote ..) (Bay.remote_running (hst _ h))
    · refine takes_state_alarm hs ?_
      rw [Bay.stateFrame_remote, Bay.remote_kept]
      · exact ne_of_mem_of_not_mem (hmem _ h) (by decide)
      · exact ne_of_mem_of_not_mem (hmem _ h) (by decide)

end Sys2Proof.Machine

/-!
PROOF. A matched UNIT that is counted (chapter 5): the step record, the assignment, the finish of the sublot and the stall watch.
-/

namespace Sys2Proof.Machine

/-! ### The steps of a counted unit (R106, R108, R109) -/

/-- R106: a lot with a counted unit in the record `rec` of its step `k`. -/
def LotRec.counted (l : LotRec) (k : Nat) (rec : StepRec) : LotRec := { l with steps := l.steps.set (k - 1) rec }

theorem List.modify_eq_set_of_getElem? {α : Type} {l : List α} {i : Nat} {a : α} (h : l[i]? = some a) (f : α → α) :
    l.modify i f = l.set i (f a) := by
  induction l generalizing i with
  | nil => simp at h
  | cons b l ih =>
    cases i with
    | zero =>
      simp only [List.getElem?_cons_zero, Option.some.injEq] at h
      rw [h]
      rfl
    | succ i => exact congrArg (List.cons b) (ih (by simpa using h))

theorem LotRec.modStep_eq {l : LotRec} {k : Nat} {rec : StepRec} (h : l.steps[k - 1]? = some rec) (f : StepRec → StepRec) :
    l.modStep k f = l.counted k (f rec) := by
  unfold LotRec.modStep LotRec.counted
  rw [List.modify_eq_set_of_getElem? h]

theorem LotRec.stepRec_eq {l : LotRec} {k : Nat} {rec : StepRec} (h : l.steps[k - 1]? = some rec) : l.stepRec k = rec := by
  unfold LotRec.stepRec
  rw [List.getD_eq_getElem?_getD, h]
  rfl

theorem LotRec.stepRec_counted {l : LotRec} {k : Nat} {rec rec' : StepRec} (h : l.steps[k - 1]? = some rec) :
    (l.counted k rec').stepRec k = rec' := by
  refine LotRec.stepRec_eq ?_
  unfold LotRec.counted
  obtain ⟨hlt, _⟩ := List.getElem?_eq_some_iff.1 h
  simp [hlt]

/-- R106: a cell with a counted assignment. -/
def CellRec.holding (r : CellRec) (a : Assignment) : CellRec := { r with assignment := some a }

/-- R108: a cell whose sublot `a` a finish profile sends FINISH for, if it is full. -/
def CellRec.fullSent (r : CellRec) (a : Assignment) (p : GateProfile) : CellRec :=
  if a.units = a.qty ∧ p.finish = .auto then r.finished else r

/-- R44, R109: a cell whose stall watch has seen a counted unit, armed before or not. -/
def State.watched (s : State) (c : CellNo) (r : CellRec) (armed : Bool) : CellRec :=
  { r with stalled := false, stallDeadline := if armed = true then s.stallArmed c { r with stalled := false } else none }

theorem CellRec.finished_kept (r : CellRec) :
    r.finished.state = r.state ∧ r.finished.stallDeadline = r.stallDeadline ∧ r.finished.sites = r.sites
      ∧ r.finished.pause = r.pause ∧ r.finished.suspect = r.suspect := by
  unfold CellRec.finished
  split
  · exact ⟨rfl, rfl, rfl, rfl, rfl⟩
  · split <;> exact ⟨rfl, rfl, rfl, rfl, rfl⟩

/-- R29: what FINISH leaves of an assignment but its mark. -/
theorem CellRec.assignment_finished {r : CellRec} {a : Assignment} (ha : r.assignment = some a) :
    ∃ sent, r.finished.assignment = some { a with finishSent := sent } := by
  unfold CellRec.finished
  rw [ha]
  dsimp only
  split
  · exact ⟨a.finishSent, ha⟩
  · exact ⟨true, rfl⟩

theorem Bay.bare_finishSublot {b : Bay} {c : CellNo} {p : GateProfile} {a : Assignment} (ha : (b.cell c).assignment = some a) :
    (b.finishSublot c p).bare = b.bare.setCell c ((b.cell c).fullSent a p)
      ∧ (a.units = a.qty ∧ p.finish = .notify → .cellState c ∈ (b.finishSublot c p).notices)
      ∧ (b.finishSublot c p).stamped = b.stamped := by
  unfold Bay.finishSublot CellRec.fullSent
  rw [ha]
  dsimp only
  by_cases hf : a.units = a.qty
  · rw [if_pos hf]
    cases hp : p.finish with
    | auto =>
      dsimp only
      rw [if_pos ⟨hf, rfl⟩, Bay.finishDue_eq]
      exact ⟨rfl, (fun ⟨_, hn⟩ => nomatch hn), rfl⟩
    | notify =>
      dsimp only
      rw [if_neg (fun ⟨_, hn⟩ => nomatch hn), Bay.bare_owe]
      exact ⟨(Bay.setCell_self b.bare c).symm, fun _ => Bay.mem_notices_owe.2 (.inl rfl), Bay.stamped_owe ..⟩
  · rw [if_neg hf, if_neg fun h => hf h.1]
    exact ⟨(Bay.setCell_self b.bare c).symm, fun h => absurd h.1 hf, rfl⟩

theorem Bay.bare_stallWatch {s : State} {b : Bay} {c : CellNo} (hr : (b.cell c).state = .running) :
    (b.stallWatch s.ctx c).bare = b.bare.setCell c (s.watched c (b.cell c) (b.cell c).stallDeadline.isSome)
      ∧ (b.stallWatch s.ctx c).stamped = b.stamped := by
  have hcell := Bay.cell_modCell_self b c fun r => { r with stalled := false }
  unfold Bay.stallWatch State.watched
  dsimp only
  by_cases hd : (b.cell c).stallDeadline.isSome = true
  · rw [if_pos hd, if_pos hd, Bay.armStall_eq (by rw [hcell]; exact hr), Bay.bare_setCell, Bay.bare_modCell, Bay.setCell_setCell,
      hcell]
    exact ⟨rfl, Bay.stamped_modCell ..⟩
  · rw [if_neg hd, if_neg hd, Bay.bare_modCell, ← Option.not_isSome_iff_eq_none.1 hd]
    exact ⟨rfl, Bay.stamped_modCell ..⟩

theorem Bay.Grows.stallWatch (x : Ctx) (b : Bay) (c : CellNo) : b.Grows (b.stallWatch x c) := by
  have harm (b : Bay) : b.Grows (b.armStall x c) := by
    unfold Bay.armStall
    dsimp only
    split
    · exact .refl b
    · split
      · exact .modCell ..
      · exact .refl b
  unfold Bay.stallWatch
  dsimp only
  split
  · exact (Bay.Grows.modCell ..).trans (harm _)
  · exact .modCell ..

/-- A counted unit, the gate apart. -/
def Bay.counting (x : Ctx) (b : Bay) (c : CellNo) (a : Assignment) (site : SiteNo) (bin : BinNo) (good : Bool) (p : GateProfile) :
    Bay :=
  (((b.modLot a.lot fun l => l.modStep a.step fun r => r.counted bin good).modAssignment c fun a => a.counted site bin good).finishSublot
    c p).stallWatch x c

theorem Bay.countUnit_eq (x : Ctx) (b : Bay) (c : CellNo) (a : Assignment) (site : SiteNo) (bin : BinNo) :
    b.countUnit x c a site bin
      = (b.counting x c a site bin (inBins (x.profile (b.lot a.lot) a.step).goodBins bin) (x.profile (b.lot a.lot) a.step)).gateUnit x c
        site := rfl

/-- The cell of a counted unit, the gate apart. -/
def State.countedCell (s : State) (c : CellNo) (r : CellRec) (a : Assignment) (p : GateProfile) : CellRec :=
  s.watched c ((r.holding a).fullSent a p) r.stallDeadline.isSome

/-- R106, R108, R109: what a counted unit writes, the gate apart. -/
theorem Bay.bare_counting {s : State} {b : Bay} {c : CellNo} {a : Assignment} {site : SiteNo} {bin : BinNo} {good : Bool}
    {p : GateProfile} {rec : StepRec} (hr : (b.cell c).state = .running) (ha : (b.cell c).assignment = some a)
    (hrec : (b.lot a.lot).steps[a.step - 1]? = some rec) :
    (b.counting s.ctx c a site bin good p).bare
        = (b.bare.setLot a.lot ((b.lot a.lot).counted a.step (rec.counted bin good))).setCell c
          (s.countedCell c (b.cell c) (a.counted site bin good) p)
      ∧ ((a.counted site bin good).units = a.qty ∧ p.finish = .notify →
        .cellState c ∈ (b.counting s.ctx c a site bin good p).notices)
      ∧ (b.counting s.ctx c a site bin good p).stamped = b.stamped := by
  unfold Bay.counting
  rw [Bay.modLot_same rfl, LotRec.modStep_eq hrec]
  generalize hb1 : b.setLot a.lot ((b.lot a.lot).counted a.step (rec.counted bin good)) = b1
  have hcell1 : b1.cell c = b.cell c := by rw [← hb1]; rfl
  have hb2 : b1.modAssignment c (fun a => a.counted site bin good) = b1.setCell c ((b.cell c).holding (a.counted site bin good)) := by
    unfold Bay.modAssignment
    rw [Bay.modCell_quietly]
    · rw [hcell1, ha]
      rfl
    · rw [hcell1]
      simp only [CellRec.noticed, ha]
      rfl
  rw [hb2]
  generalize hb2' : b1.setCell c ((b.cell c).holding (a.counted site bin good)) = b2
  have hcell2 : b2.cell c = (b.cell c).holding (a.counted site bin good) := by rw [← hb2', Bay.cell_setCell_self]
  obtain ⟨hb3, hn3, hs3⟩ := Bay.bare_finishSublot (b := b2) (c := c) (p := p) (a := a.counted site bin good) (by rw [hcell2]; rfl)
  generalize b2.finishSublot c p = b3 at hb3 hn3 hs3
  have hcell3 : b3.cell c = ((b.cell c).holding (a.counted site bin good)).fullSent (a.counted site bin good) p := by
    rw [Bay.cell_of_bare hb3, Bay.cell_setCell_self, hcell2]
  have hkept : (b3.cell c).state = (b.cell c).state ∧ (b3.cell c).stallDeadline = (b.cell c).stallDeadline := by
    rw [hcell3, CellRec.fullSent]
    split
    · exact ⟨(CellRec.finished_kept _).1, (CellRec.finished_kept _).2.1⟩
    · exact ⟨rfl, rfl⟩
  obtain ⟨hb4, hs4⟩ := Bay.bare_stallWatch (s := s) (b := b3) (c := c) (hkept.1.trans hr)
  refine ⟨?_, fun hf => (Bay.Grows.stallWatch ..).1 _ (hn3 hf), ?_⟩
  · rw [hb4, hkept.2, hcell3, hb3, Bay.setCell_setCell, ← hb2', Bay.bare_setCell, Bay.setCell_setCell, ← hb1]
    rfl
  · rw [hs4, hs3, ← hb2', ← hb1]
    rfl

/-! ### The gate (R110) -/

/-- R110: a unit that raises nothing, on the bay that has counted it. -/
theorem Bay.gateUnit_quiet {x : Ctx} {b : Bay} {c : CellNo} {site : SiteNo} {a : Assignment} (ha : (b.cell c).assignment = some a)
    (h : (b.lot a.lot).state.gated = true →
      unitRaises (x.profile (b.lot a.lot) a.step) ((b.lot a.lot).stepRec a.step) c ((b.cell c).sites.getD 0) a site = []) :
    b.gateUnit x c site = b := by
  unfold Bay.gateUnit
  rw [ha]
  dsimp only
  split
  · next hg => rw [h hg]; rfl
  · rfl

theorem LotState.gated_iff {st : LotState} : st.gated = true ↔ st ∈ [.active, .closing, .held] := by cases st <;> decide

/-- R110: every kind that a unit raises is of a check. -/
theorem unitRaises_of_off {p : GateProfile} (hy : p.yieldFloor = 0) (hc : ∀ k : BinNo, p.ceilings[k] = 10000)
    (hs : p.siteDelta = 10000) (hr : p.runLimit = 0) (r : StepRec) (c : CellNo) (n : Nat) (a : Assignment) (site : SiteNo) :
    unitRaises p r c n a site = [] := by
  have hbin : failingBin p r = none := by
    rw [← Option.not_isSome_iff_eq_none, failingBin_isSome]
    rintro ⟨b, _, hlt, _⟩
    rw [hc b] at hlt
    omega
  have hsite : siteFails p n a.sites = none := by
    rw [← Option.not_isSome_iff_eq_none, siteFails_isSome]
    omega
  have hnil : (unitRaises p r c n a site).map (·.1) = [] := by
    rw [kinds_unitRaises, hbin, hsite]
    simp [yieldFails, runFails, hy, hr]
  exact List.map_eq_nil_iff.1 hnil

/-- R110: the checks look at no mark of an assignment. -/
theorem unitRaises_finishSent (p : GateProfile) (r : StepRec) (c : CellNo) (n : Nat) (a : Assignment) (site : SiteNo) (sent : Bool) :
    unitRaises p r c n { a with finishSent := sent } site = unitRaises p r c n a site := rfl

/-! ### The frame (R104, R107) -/

theorem binOf_eq (bin : Byte) : binOf bin = Fin.ofNat 16 (min bin.toNat 15) := by
  unfold binOf
  refine Fin.ext ?_
  split
  · next h => simp only [Fin.ofNat, Nat.min_eq_left (by omega : bin.toNat ≤ 15), Nat.mod_eq_of_lt h]
  · next h => rw [Nat.min_eq_right (by omega)]; rfl

theorem indexOf_site (site : SiteNo) : indexOf 8 (BitVec.ofNat 8 site.val) = some site := by
  have h : (BitVec.ofNat 8 site.val).toNat = site.val := by simp only [BitVec.toNat_ofNat]; omega
  rw [indexOf_toNat (by rw [h]; exact site.isLt)]
  exact congrArg some (Fin.ext h)

theorem CellRec.unitMatch_of {r : CellRec} {a : Assignment} {site : SiteNo} (hr : r.state = .running)
    (ha : r.assignment = some a) (hs : site.val < r.sites.getD 0) :
    r.unitMatch a.id (BitVec.ofNat 8 site.val) = some (a, site) := by
  refine CellRec.unitMatch_eq_some.2 ⟨hr, ha, rfl, ?_, indexOf_site site⟩
  simp only [BitVec.toNat_ofNat]
  omega

/-- A matched UNIT: past a count's bound, or counted. -/
theorem Bay.unitFrame_matched {x : Ctx} {b : Bay} {c : CellNo} {a : Assignment} {site : SiteNo} {rec : StepRec} (bin : Byte)
    (hr : (b.cell c).state = .running) (ha : (b.cell c).assignment = some a) (hs : site.val < (b.cell c).sites.getD 0)
    (hrec : (b.lot a.lot).steps[a.step - 1]? = some rec) :
    b.unitFrame x c a.id (BitVec.ofNat 8 site.val) bin =
      if countsFull rec (binOf bin) (inBins (x.profile (b.lot a.lot) a.step).goodBins (binOf bin)) then
        b.raise x a.lot .count .count (.saturated c)
      else b.countUnit x c a site (binOf bin) := by
  unfold Bay.unitFrame
  rw [CellRec.unitMatch_of hr ha hs]
  dsimp only
  rw [LotRec.stepRec_eq hrec]

theorem countsFull_iff {rec : StepRec} {b : BinNo} {good : Bool} :
    countsFull rec b good = true ↔ 16777215 ≤ rec.tested ∨ 16777215 ≤ rec.bins[b] ∨ (good = true ∧ 16777215 ≤ rec.good) := by
  unfold countsFull
  simp only [Bool.or_eq_true, Bool.and_eq_true, decide_eq_true_eq, or_assoc]
  rfl

/-- R106: below the bounds a count goes up by one. -/
theorem StepRec.counted_eq {rec : StepRec} {b : BinNo} {good : Bool} (ht : rec.tested < 16777215) (hb : rec.bins[b] < 16777215)
    (hg : good = true → rec.good < 16777215) :
    rec.counted b good = { rec with
      tested := rec.tested + 1, bins := rec.bins.set b (rec.bins[b] + 1), good := if good then rec.good + 1 else rec.good } := by
  have hbump {n : Nat} (h : n < 16777215) : bump24 n = n + 1 := Nat.min_eq_left h
  unfold StepRec.counted
  rw [hbump ht, hbump hb]
  cases good with
  | false => rfl
  | true => rw [if_pos rfl, hbump (hg rfl)]; rfl

/-- R29: the assignment of a cell that a unit has been counted for. -/
theorem State.assignment_countedCell (s : State) (c : CellNo) (r : CellRec) (a : Assignment) (p : GateProfile) :
    ∃ sent, (s.countedCell c r a p).assignment = some { a with finishSent := sent } := by
  show ∃ sent, ((r.holding a).fullSent a p).assignment = some { a with finishSent := sent }
  unfold CellRec.fullSent
  split
  · exact CellRec.assignment_finished rfl
  · exact ⟨a.finishSent, rfl⟩

theorem State.sites_countedCell (s : State) (c : CellNo) (r : CellRec) (a : Assignment) (p : GateProfile) :
    (s.countedCell c r a p).sites = r.sites := by
  show ((r.holding a).fullSent a p).sites = r.sites
  unfold CellRec.fullSent
  split
  · exact (CellRec.finished_kept _).2.2.1
  · rfl

/-- A UNIT that is counted and raises nothing. -/
theorem unit_counted {c : CellNo} {lot : Half} {site : SiteNo} {bin : Byte} {sequence : BitVec 32} {a : Assignment} {s : State}
    {rec : StepRec} {p : GateProfile} {good : Bool} (ht : s.TakesFrame c .unit) (hr : (s.bay.cell c).state = .running)
    (ha : (s.bay.cell c).assignment = some a) (hs : site.val < (s.bay.cell c).sites.getD 0)
    (hrec : (s.bay.lot a.lot).steps[a.step - 1]? = some rec) (hp : s.tables.profiles[((s.bay.lot a.lot).routeStep a.step).profile] = p)
    (hg : p.goodBins.getLsbD (binOf bin).val = good) (hfull : countsFull rec (binOf bin) good = false)
    (hquiet : (s.bay.lot a.lot).state.gated = true →
      unitRaises p (rec.counted (binOf bin) good) c ((s.bay.cell c).sites.getD 0) (a.counted site (binOf bin) good) site = []) :
    Takes s c .handler lot (.unit a.id (BitVec.ofNat 8 site.val) bin sequence)
      ((s.records.setLot a.lot ((s.bay.lot a.lot).counted a.step (rec.counted (binOf bin) good))).setCell c
        (s.countedCell c (s.bay.cell c) (a.counted site (binOf bin) good) p))
      (if (a.counted site (binOf bin) good).units = a.qty ∧ p.finish = .notify then [.cellState c] else []) := by
  have hgood : inBins (s.ctx.profile (s.newEvent.bay.lot a.lot) a.step).goodBins (binOf bin) = good := by
    rw [← hg, ← hp]
    rfl
  have hprof : s.ctx.profile (s.newEvent.bay.lot a.lot) a.step = p := hp
  have hframe := Bay.unitFrame_matched (x := s.ctx) (b := s.newEvent.bay) bin hr ha hs hrec
  rw [hgood, hfull, if_neg Bool.false_ne_true, Bay.countUnit_eq, hgood, hprof] at hframe
  obtain ⟨hbare, hn, _⟩ := Bay.bare_counting (s := s) (b := s.newEvent.bay) (site := site) (bin := binOf bin) (good := good) (p := p)
    hr ha hrec
  generalize s.newEvent.bay.counting s.ctx c a site (binOf bin) good p = b at hbare hn hframe
  have hlot : b.lot a.lot = (s.bay.lot a.lot).counted a.step (rec.counted (binOf bin) good) := by
    rw [Bay.lot_of_bare hbare]
    exact Bay.lot_setLot_self ..
  have hcell : b.cell c = s.countedCell c (s.bay.cell c) (a.counted site (binOf bin) good) p := by
    rw [Bay.cell_of_bare hbare, Bay.cell_setCell_self]
    rfl
  obtain ⟨sent, hsent⟩ := s.assignment_countedCell c (s.bay.cell c) (a.counted site (binOf bin) good) p
  have hgate : b.gateUnit s.ctx c site = b := by
    refine Bay.gateUnit_quiet (hcell ▸ hsent) fun hgated => ?_
    have hlot' : b.lot ({ a.counted site (binOf bin) good with finishSent := sent } : Assignment).lot = b.lot a.lot := rfl
    rw [hlot', hlot] at hgated ⊢
    rw [hcell, State.sites_countedCell, unitRaises_finishSent]
    have hrec' := LotRec.stepRec_counted (rec' := rec.counted (binOf bin) good) hrec
    have hstep : ({ a.counted site (binOf bin) good with finishSent := sent } : Assignment).step = a.step := rfl
    rw [hstep, hrec']
    have hprof' : s.ctx.profile ((s.bay.lot a.lot).counted a.step (rec.counted (binOf bin) good)) a.step = p := hp
    rw [hprof']
    exact hquiet hgated
  refine takes_of_effect (m := .unit a.id (BitVec.ofNat 8 site.val) bin sequence) ht (hframe.trans hgate) (records_of_bare hbare rfl)
    fun n hm => ?_
  split at hm
  · next hf =>
    cases List.mem_singleton.1 hm
    exact hn hf
  · cases hm

/-- Settles O34: a matched UNIT of a lot that is not gated, whose checks are off, or none of whose checks fails. -/
theorem unitCounted : Obligations.UnitCounted := by
  intro c lot site bin sequence a s hs r l p b good rec hr ha hsite _ hrec ht hb hg up rec' t a' hquiet full counted sent watched r'
  have hbin : binOf bin = b := binOf_eq bin
  have hcount : rec.counted (binOf bin) good = rec' := by rw [hbin]; exact StepRec.counted_eq ht hb hg
  have hfull : countsFull rec (binOf bin) good = false := by
    rw [hbin, ← Bool.not_eq_true, countsFull_iff]
    rintro (h | h | ⟨h, h'⟩)
    · omega
    · omega
    · have := hg h
      omega
  have hunit := unit_counted (lot := lot) (sequence := sequence) (p := p) (good := good) hs hr ha hsite hrec rfl
    (by rw [hbin]) hfull fun hgated => by
      rw [hcount, hbin]
      rcases hquiet with h | ⟨hy, hc, hd, hrun⟩ | h
      · exact absurd (LotState.gated_iff.1 hgated) h
      · exact unitRaises_of_off hy hc hd hrun ..
      · exact h
  rw [hcount, hbin] at hunit
  exact hunit

end Sys2Proof.Machine

/-!
SUPPORT. A raise on a lot (R125 to R129), whole: the entry and the lot's own part of it, and what it does to cells that are all
RUNNING, or to one cell that is OFFERED or LOADING.
-/

namespace Sys2Proof.Machine

/-! ### Folds over the cells -/

/-- A bay with other cells. -/
def Bay.withCells (b : Bay) (v : Vector CellRec 32) : Bay := { b with cells := v }

theorem Bay.withCells_setCell (b : Bay) (c : CellNo) (r : CellRec) (v : Vector CellRec 32) :
    (b.setCell c r).withCells v = b.withCells v := rfl

theorem Bay.withCells_self {b : Bay} {v : Vector CellRec 32} (h : ∀ c : CellNo, v[c] = b.cell c) : b.bare.withCells v = b.bare := by
  have hv : v = b.cells := Vector.ext fun i hi => h ⟨i, hi⟩
  rw [hv]
  rfl

/-- A write of one cell after another, each by what it held, where it held what `P` asks. -/
theorem Bay.bare_foldl_cells {f : Bay → CellNo → Bay} {g : CellNo → CellRec → CellRec} {P : CellRec → Prop}
    (hf : ∀ b c, P (b.cell c) → (f b c).bare = b.bare.setCell c (g c (b.cell c)) ∧ (f b c).stamped = b.stamped) :
    ∀ (cs : List CellNo) (b : Bay), cs.Nodup → (∀ c ∈ cs, P (b.cell c)) →
      (cs.foldl f b).bare = b.bare.withCells (Vector.ofFn fun c => if c ∈ cs then g c (b.cell c) else b.cell c)
        ∧ (cs.foldl f b).stamped = b.stamped
  | [], b, _, _ => by
    refine ⟨(Bay.withCells_self fun c => ?_).symm, rfl⟩
    rw [Fin.getElem_fin, Vector.getElem_ofFn]
    exact if_neg List.not_mem_nil
  | c :: cs, b, h, hp => by
    obtain ⟨hc, hcs⟩ := List.nodup_cons.1 h
    obtain ⟨hbare, hst⟩ := hf b c (hp c List.mem_cons_self)
    have hcell (c' : CellNo) (hne : c ≠ c') : (f b c).cell c' = b.cell c' := by
      rw [Bay.cell_of_bare hbare, Bay.cell_setCell_ne _ _ hne]
      rfl
    obtain ⟨hb', hs'⟩ := Bay.bare_foldl_cells hf cs (f b c) hcs fun c' hm => by
      rw [hcell c' fun he => hc (he ▸ hm)]
      exact hp c' (List.mem_cons_of_mem _ hm)
    refine ⟨?_, hs'.trans hst⟩
    rw [List.foldl_cons, hb', hbare, Bay.withCells_setCell]
    refine congrArg _ (Vector.ext fun i hi => ?_)
    rw [Vector.getElem_ofFn, Vector.getElem_ofFn]
    by_cases he : c = ⟨i, hi⟩
    · subst he
      have hself := Bay.cell_of_bare hbare ⟨i, hi⟩
      rw [Bay.cell_setCell_self] at hself
      rw [if_neg hc, if_pos List.mem_cons_self, hself]
    · have he' : ¬(⟨i, hi⟩ : CellNo) = c := fun h => he h.symm
      simp only [List.mem_cons, he', false_or, hcell _ he]

theorem Bay.bare_foldl_allCells {f : Bay → CellNo → Bay} {g : CellNo → CellRec → CellRec} {P : CellRec → Prop}
    (hf : ∀ b c, P (b.cell c) → (f b c).bare = b.bare.setCell c (g c (b.cell c)) ∧ (f b c).stamped = b.stamped) {b : Bay}
    (hp : ∀ c, P (b.cell c)) :
    (allCells.foldl f b).bare = b.bare.withCells (Vector.ofFn fun c => g c (b.cell c)) ∧ (allCells.foldl f b).stamped = b.stamped := by
  have h := Bay.bare_foldl_cells hf allCells b (List.nodup_finRange 32) fun c _ => hp c
  simpa only [allCells, List.mem_finRange, if_true] using h

/-- A fold that gathers nothing is a fold over the bay. -/
theorem foldl_gathers_none {F : Bay × List CellNo → CellNo → Bay × List CellNo} {f : Bay → CellNo → Bay} {P : CellRec → Prop}
    (hF : ∀ b fr c, P (b.cell c) → F (b, fr) c = (f b c, fr))
    (hne : ∀ b c c', c ≠ c' → P (b.cell c) → (f b c).cell c' = b.cell c') :
    ∀ (cs : List CellNo) (b : Bay) (fr : List CellNo), cs.Nodup → (∀ c ∈ cs, P (b.cell c)) →
      cs.foldl F (b, fr) = (cs.foldl f b, fr)
  | [], _, _, _, _ => rfl
  | c :: cs, b, fr, h, hp => by
    obtain ⟨hc, hcs⟩ := List.nodup_cons.1 h
    rw [List.foldl_cons, List.foldl_cons, hF b fr c (hp c List.mem_cons_self)]
    refine foldl_gathers_none hF hne cs _ fr hcs fun c' hm => ?_
    rw [hne b c c' (fun he => hc (he ▸ hm)) (hp c List.mem_cons_self)]
    exact hp c' (List.mem_cons_of_mem _ hm)

/-- A fold that acts at one cell alone. -/
theorem foldl_at_one {F : Bay × List CellNo → CellNo → Bay × List CellNo} {P : CellRec → Prop} {c : CellNo}
    {acc : Bay × List CellNo} (hF : ∀ acc c', ¬P (acc.1.cell c') → F acc c' = acc) (ho : ∀ c', c' ≠ c → ¬P (acc.1.cell c'))
    (ha : ∀ c', c' ≠ c → ¬P ((F acc c).1.cell c')) : allCells.foldl F acc = F acc c := by
  have hskip : ∀ (cs : List CellNo) (acc : Bay × List CellNo), (∀ c' ∈ cs, ¬P (acc.1.cell c')) → cs.foldl F acc = acc := by
    intro cs
    induction cs with
    | nil => exact fun _ _ => rfl
    | cons c' cs ih =>
      intro acc h
      rw [List.foldl_cons, hF acc c' (h c' List.mem_cons_self)]
      exact ih acc fun c'' hm => h c'' (List.mem_cons_of_mem _ hm)
  obtain ⟨l1, l2, hl⟩ := List.append_of_mem (List.mem_finRange c)
  have hnd : (l1 ++ c :: l2).Nodup := hl ▸ List.nodup_finRange 32
  have hnd' := List.nodup_append.1 hnd
  rw [allCells, hl, List.foldl_append, List.foldl_cons, hskip l1 acc, hskip l2]
  · exact fun c' hm => ha c' fun he => (List.nodup_cons.1 hnd'.2.1).1 (he ▸ hm)
  · exact fun c' hm => ho c' fun he => hnd'.2.2 c' hm c List.mem_cons_self he

/-! ### The entry of a raise (R7, R125) -/

/-- Two changes of a lot in an event, the second of which the stamp follows. -/
theorem Bay.bare_modLot_modLot {b : Bay} {h : LotNo} {f g : LotRec → LotRec} (hs : h ∉ b.stamped)
    (hg : ∀ l, (f (b.lot h)).followed = l.followed → (g l).followed ≠ l.followed) (hgs : ∀ l, g l.restamped = (g l).restamped) :
    ((b.modLot h f).modLot h g).bare = b.bare.setLot h (g (f (b.lot h))).restamped
      ∧ h ∈ ((b.modLot h f).modLot h g).stamped ∧ .lotState h ∈ ((b.modLot h f).modLot h g).notices := by
  by_cases hf : (f (b.lot h)).followed = (b.lot h).followed
  · have hb : b.modLot h f = b.setLot h (f (b.lot h)) := Bay.modLot_same hf
    have hl : (b.setLot h (f (b.lot h))).lot h = f (b.lot h) := Bay.lot_setLot_self ..
    have hne : (g ((b.setLot h (f (b.lot h))).lot h)).followed ≠ ((b.setLot h (f (b.lot h))).lot h).followed := by
      rw [hl]
      exact hg _ rfl
    rw [hb]
    refine ⟨?_, Bay.stamped_modLot_first hne, Bay.owed_modLot_first hne hs⟩
    rw [Bay.bare_modLot_first hne hs, hl, Bay.bare_setLot, Bay.setLot_setLot]
  · have hb := Bay.bare_modLot_first (f := f) hf hs
    have hst := Bay.stamped_modLot_first (f := f) hf
    have hn := Bay.owed_modLot_first (f := f) hf hs
    have hl : (b.modLot h f).lot h = (f (b.lot h)).restamped := by rw [Bay.lot_of_bare hb, Bay.lot_setLot_self]
    refine ⟨?_, (Bay.Grows.modLot ..).2 _ hst, (Bay.Grows.modLot ..).1 _ hn⟩
    rw [Bay.modLot_again hst, Bay.bare_setLot, hb, Bay.setLot_setLot, hl, hgs]

theorem Bay.bare_leaveQueue (b : Bay) (h : LotNo) :
    (b.leaveQueue h).bare = (b.bare.withQueue (b.queue.filter (· ≠ h))).setLot h { b.lot h with ageDeadline := none } := by
  unfold Bay.leaveQueue
  rw [Bay.modLot_same rfl]
  rfl

theorem Bay.stamped_leaveQueue (b : Bay) (h : LotNo) : (b.leaveQueue h).stamped = b.stamped := by
  unfold Bay.leaveQueue
  rw [Bay.modLot_same rfl]
  rfl

/-- R7: the states of a lot that a raise makes HELD. -/
theorem LotState.holdable_iff {st : LotState} : st.holdable = true ↔ st ∈ [.active, .closing, .complete, .held] := by
  cases st <;> decide

/-- R7, R125: the record of a lot that a raise makes HELD. -/
theorem LotRec.heldWith_eq {l : LotRec} {e : HoldEntry} (hl : l.state ∈ [.active, .closing, .complete]) :
    { (LotRec.toHeld (l.raised e)).restamped with ageDeadline := none } = l.heldWith (raiseIn l.holds e) := by
  simp only [List.mem_cons, List.not_mem_nil, or_false] at hl
  unfold LotRec.toHeld LotRec.raised LotRec.restamped LotRec.heldWith
  rcases hl with h | h | h <;> simp [h, LotState.toSaved]

/-- R7, R125: the first raise on a lot that is not HELD. -/
theorem Bay.bare_raiseEntry_first {x : Ctx} {b : Bay} {h : LotNo} (hl : (b.lot h).state ∈ [.active, .closing, .complete])
    (hs : h ∉ b.stamped) (kind : HoldKind) (origin : HoldOrigin) (detail : HoldDetail) :
    (b.raiseEntry x h kind origin detail).bare = (b.bare.withQueue (b.queue.filter (· ≠ h))).setLot h
        ((b.lot h).heldWith (raiseIn (b.lot h).holds (raisedEntry x (b.lot h) kind origin detail)))
      ∧ h ∈ (b.raiseEntry x h kind origin detail).stamped ∧ .lotState h ∈ (b.raiseEntry x h kind origin detail).notices := by
  have hold : (b.lot h).state.holdable = true := LotState.holdable_iff.2 (by
    simp only [List.mem_cons, List.not_mem_nil, or_false] at hl ⊢
    tauto)
  have hne : (b.lot h).state ≠ .held := fun he => by rw [he] at hl; simp at hl
  rw [Bay.raiseEntry_eq, if_pos hold]
  dsimp only
  rw [if_neg hne]
  obtain ⟨hb, hst, hn⟩ := Bay.bare_modLot_modLot (f := (·.raised (raisedEntry x (b.lot h) kind origin detail))) (g := LotRec.toHeld)
    hs (fun l hl he => hne ((congrArg Prod.fst hl).trans (congrArg Prod.fst he).symm)) fun _ => rfl
  refine ⟨?_, by rw [Bay.stamped_leaveQueue]; exact hst, (Bay.Grows.leaveQueue ..).1 _ hn⟩
  rw [Bay.bare_leaveQueue, Bay.queue_modLot, Bay.queue_modLot, hb, Bay.lot_of_bare hb, Bay.lot_setLot_self, Bay.withQueue_setLot,
    Bay.setLot_setLot]
  exact congrArg (Bay.setLot _ h) (LotRec.heldWith_eq hl)

/-- R123: a raise on a HELD lot. -/
theorem Bay.raiseEntry_held {x : Ctx} {b : Bay} {h : LotNo} (hl : (b.lot h).state = .held) (kind : HoldKind) (origin : HoldOrigin)
    (detail : HoldDetail) :
    b.raiseEntry x h kind origin detail = b.modLot h (·.raised (raisedEntry x (b.lot h) kind origin detail)) := by
  rw [Bay.raiseEntry_eq, if_pos (by rw [hl]; rfl)]
  dsimp only
  rw [if_pos hl]

/-! ### A raise on a lot whose cells are all RUNNING (R128, R129) -/

/-- Whether a cell holds a sublot of a lot (R29). -/
def CellRec.Named (r : CellRec) (h : LotNo) : Prop := r.assignment.any (·.lot = h) = true

theorem CellRec.named_iff {r : CellRec} {h : LotNo} : r.Named h ↔ ∃ a, r.assignment = some a ∧ a.lot = h := by
  unfold CellRec.Named
  cases r.assignment <;> simp

theorem CellRec.pausedFor_of_not_named {r : CellRec} {h : LotNo} (hn : ¬r.Named h) : r.pausedFor h = r := by
  unfold CellRec.pausedFor
  split
  · rfl
  · next a ha => rw [if_neg fun hc => hn (CellRec.named_iff.2 ⟨a, ha, hc.1⟩)]

/-- R129: a cell for whose sublot PAUSE has become due. -/
def CellRec.pausing (a : Assignment) (r : CellRec) : CellRec :=
  { r with commands := placePause r.commands a.id a.lot, pause := .sent, stallDeadline := none }

theorem Bay.pauseDue_eq {b : Bay} {c : CellNo} {a : Assignment} (ha : (b.cell c).assignment = some a) :
    b.pauseDue c = b.modCell c (CellRec.pausing a) := by
  unfold Bay.pauseDue
  rw [ha]
  rfl

theorem CellRec.pausedFor_of_unpaused {r : CellRec} {a : Assignment} (ha : r.assignment = some a) (hp : r.pause = .none) :
    r.pausedFor a.lot = r.pausing a := by
  unfold CellRec.pausedFor
  split
  · next hn => cases hn.symm.trans ha
  · next a' ha' =>
    cases ha.symm.trans ha'
    rw [if_pos ⟨rfl, hp⟩]
    rfl

theorem CellRec.pausedFor_of_paused {r : CellRec} (h : LotNo) (hp : r.pause ≠ .none) : r.pausedFor h = r := by
  unfold CellRec.pausedFor
  split
  · rfl
  · rw [if_neg fun hc => hp hc.2]

/-- What a raise does to a RUNNING cell. -/
def Bay.pauseCell (h : LotNo) (b : Bay) (c : CellNo) : Bay :=
  if (b.cell c).assignment.any (·.lot = h) = true then (if (b.cell c).pause = .none then b.pauseDue c else b) else b

theorem Bay.holdCell_running {x : Ctx} {h : LotNo} {b : Bay} {fr : List CellNo} {c : CellNo}
    (hr : (b.cell c).Named h → (b.cell c).state = .running) : Bay.holdCell x h (b, fr) c = (b.pauseCell h c, fr) := by
  unfold Bay.holdCell Bay.pauseCell
  dsimp only
  split
  · next hn =>
    rw [hr hn]
    dsimp only
    split <;> rfl
  · rfl

theorem Bay.bare_pauseCell (h : LotNo) (b : Bay) (c : CellNo) :
    (b.pauseCell h c).bare = b.bare.setCell c ((b.cell c).pausedFor h) ∧ (b.pauseCell h c).stamped = b.stamped := by
  have hself : b.bare = b.bare.setCell c (b.cell c) := (Bay.setCell_self b.bare c).symm
  unfold Bay.pauseCell
  split
  · next hn =>
    obtain ⟨a, ha, rfl⟩ := CellRec.named_iff.1 hn
    split
    · next hp =>
      rw [CellRec.pausedFor_of_unpaused ha hp, Bay.pauseDue_eq ha]
      exact ⟨Bay.bare_modCell .., Bay.stamped_modCell ..⟩
    · next hp =>
      rw [CellRec.pausedFor_of_paused _ hp]
      exact ⟨hself, rfl⟩
  · next hn =>
    rw [CellRec.pausedFor_of_not_named hn]
    exact ⟨hself, rfl⟩

theorem Bay.cell_pauseCell_ne {h : LotNo} {b : Bay} {c c' : CellNo} (hne : c ≠ c') : (b.pauseCell h c).cell c' = b.cell c' := by
  rw [Bay.cell_of_bare (b.bare_pauseCell h c).1, Bay.cell_setCell_ne _ _ hne]
  rfl

theorem Bay.matchCells_nil (x : Ctx) (b : Bay) : b.matchCells x [] = b := rfl

/-- R128, R129: a raise on a lot whose cells are all RUNNING. -/
theorem Bay.raise_running {x : Ctx} {b : Bay} {h : LotNo} (hold : (b.lot h).state.holdable = true)
    (hrun : ∀ c, (b.cell c).Named h → (b.cell c).state = .running) (kind : HoldKind) (origin : HoldOrigin) (detail : HoldDetail)
    (hcells : (b.raiseEntry x h kind origin detail).cells = b.cells) :
    b.raise x h kind origin detail = allCells.foldl (Bay.pauseCell h) (b.raiseEntry x h kind origin detail) := by
  have hrun' (c : CellNo) : ((b.raiseEntry x h kind origin detail).cell c).Named h →
      ((b.raiseEntry x h kind origin detail).cell c).state = .running := by
    simp only [Bay.cell, hcells]
    exact hrun c
  rw [Bay.raise_eq, if_pos hold]
  unfold Bay.heldCells
  rw [foldl_gathers_none (f := Bay.pauseCell h) (P := fun r => r.Named h → r.state = .running) (fun _ _ _ hp => Bay.holdCell_running hp)
    (fun _ _ _ hne _ => Bay.cell_pauseCell_ne hne) allCells (b.raiseEntry x h kind origin detail) [] (List.nodup_finRange 32)
    fun c _ => hrun' c]
  dsimp only
  rw [List.reverse_nil, Bay.matchCells_nil]

theorem Bay.bare_raise_running {x : Ctx} {b : Bay} {h : LotNo} (hold : (b.lot h).state.holdable = true)
    (hrun : ∀ c, (b.cell c).Named h → (b.cell c).state = .running) (kind : HoldKind) (origin : HoldOrigin) (detail : HoldDetail)
    (hcells : (b.raiseEntry x h kind origin detail).cells = b.cells) :
    (b.raise x h kind origin detail).bare
        = (b.raiseEntry x h kind origin detail).bare.withCells (b.cells.map (·.pausedFor h))
      ∧ (b.raise x h kind origin detail).stamped = (b.raiseEntry x h kind origin detail).stamped := by
  rw [Bay.raise_running hold hrun kind origin detail hcells]
  generalize b.raiseEntry x h kind origin detail = b' at hcells
  obtain ⟨hbare, hst⟩ := Bay.bare_foldl_allCells (f := Bay.pauseCell h) (g := fun _ r => r.pausedFor h) (P := fun _ => True) (b := b')
    (fun b c _ => b.bare_pauseCell h c) fun _ => trivial
  refine ⟨?_, hst⟩
  rw [hbare]
  refine congrArg _ (Vector.ext fun i hi => ?_)
  rw [Vector.getElem_ofFn, Vector.getElem_map]
  exact congrArg (fun v : Vector CellRec 32 => v[i].pausedFor h) hcells

end Sys2Proof.Machine

/-!
PROOF. A matched UNIT that raises holds (sections 5.3 to 5.6, 6.2, 6.3), on a lot whose one cell is the unit's.
-/

namespace Sys2Proof.Machine

theorem forall_mem_pair {α : Type} {p : α → Prop} {a b : α} (ha : p a) (hb : p b) : ∀ n ∈ [a, b], p n := by
  simp only [List.mem_cons, List.not_mem_nil, or_false]
  rintro n (rfl | rfl)
  · exact ha
  · exact hb

/-! ### The one cell of a lot is paused (R129) -/

/-- R29: cell `c` is the only cell that a lot names. -/
def Bay.Only (b : Bay) (h : LotNo) (c : CellNo) : Prop := ∀ c', (b.cell c').Named h → c' = c

theorem State.only_of {s : State} {h : LotNo} {c : CellNo} (hn : ∀ c', s.NamedBy h c' → c' = c) {b : Bay}
    (hb : b.cells = s.bay.cells) : b.Only h c := fun c' hc =>
  hn c' (CellRec.named_iff.1 (by simpa only [Bay.cell, hb] using hc))

theorem Bay.Only.map_pausedFor {b : Bay} {h : LotNo} {c : CellNo} (ho : b.Only h c) :
    b.cells.map (·.pausedFor h) = b.cells.set c ((b.cell c).pausedFor h) := by
  refine Vector.ext fun i hi => ?_
  rw [Vector.getElem_map, Vector.getElem_set]
  split
  · next he => subst he; rfl
  · next he => exact CellRec.pausedFor_of_not_named fun hn => he (congrArg Fin.val (ho ⟨i, hi⟩ hn)).symm

theorem Bay.withCells_set (b : Bay) (c : CellNo) (r : CellRec) : b.withCells (b.cells.set c r) = b.setCell c r := rfl

theorem Bay.Grows.pauseCell (h : LotNo) (b : Bay) (c : CellNo) : b.Grows (b.pauseCell h c) := by
  unfold Bay.pauseCell
  split
  · split
    · exact .pauseDue ..
    · exact .refl b
  · exact .refl b

/-- R31: a cell that is paused owes its notice. -/
theorem Bay.owed_foldl_pauseCell {h : LotNo} {c : CellNo} : ∀ (cs : List CellNo) (b : Bay), c ∈ cs → (b.cell c).Named h →
    (b.cell c).pause = .none → .cellState c ∈ (cs.foldl (Bay.pauseCell h) b).notices
  | [], _, hc, _, _ => nomatch hc
  | c' :: cs, b, hc, hn, hp => by
    rw [List.foldl_cons]
    by_cases he : c' = c
    · subst he
      refine (Bay.Grows.foldl (fun b c => .pauseCell h b c) cs _).1 _ ?_
      obtain ⟨a, ha, rfl⟩ := CellRec.named_iff.1 hn
      have hpause : b.pauseCell a.lot c' = b.modCell c' (CellRec.pausing a) := by
        unfold Bay.pauseCell
        rw [if_pos (show Option.any _ _ = true from hn), if_pos hp, Bay.pauseDue_eq ha]
      rw [hpause]
      refine Bay.owed_modCell fun he => ?_
      exact nomatch (hp.symm.trans (congrArg CellView.pause he).symm : PauseState.none = .sent)
    · have hcell := Bay.cell_pauseCell_ne (h := h) (b := b) he
      exact Bay.owed_foldl_pauseCell cs _ ((List.mem_cons.1 hc).resolve_left (Ne.symm he)) (by rw [hcell]; exact hn)
        (by rw [hcell]; exact hp)

theorem Bay.owed_raise_running {x : Ctx} {b : Bay} {h : LotNo} {c : CellNo} (hold : (b.lot h).state.holdable = true)
    (hrun : ∀ c, (b.cell c).Named h → (b.cell c).state = .running) (kind : HoldKind) (origin : HoldOrigin) (detail : HoldDetail)
    (hcells : (b.raiseEntry x h kind origin detail).cells = b.cells) (hn : (b.cell c).Named h) (hp : (b.cell c).pause = .none) :
    .cellState c ∈ (b.raise x h kind origin detail).notices := by
  rw [Bay.raise_running hold hrun kind origin detail hcells]
  generalize b.raiseEntry x h kind origin detail = b' at hcells
  have hsame (c : CellNo) : b'.cell c = b.cell c := by simp only [Bay.cell, hcells]
  exact Bay.owed_foldl_pauseCell allCells b' (List.mem_finRange c) (by rw [hsame]; exact hn) (by rw [hsame]; exact hp)

/-! ### Several raises (R110, R115) -/

/-- R123: the entry of a raise by a gate check. -/
def gateEntry (clock step : Nat) (x : HoldKind × HoldDetail) : HoldEntry :=
  { kind := x.1, origin := .gate, raisedAt := clock, stepIndex := step, occurrences := 1, detail := x.2 }

/-- A lot with another hold set. -/
def LotRec.holding (l : LotRec) (holds : List HoldEntry) : LotRec := { l with holds := holds }

theorem Bay.cells_raiseEntry_held {x : Ctx} {b : Bay} {h : LotNo} (hl : (b.lot h).state = .held) (kind : HoldKind)
    (origin : HoldOrigin) (detail : HoldDetail) : (b.raiseEntry x h kind origin detail).cells = b.cells := by
  rw [Bay.raiseEntry_held hl, Bay.cells_modLot]

theorem Bay.cells_raiseEntry_first {x : Ctx} {b : Bay} {h : LotNo} (hl : (b.lot h).state ∈ [.active, .closing, .complete])
    (hs : h ∉ b.stamped) (kind : HoldKind) (origin : HoldOrigin) (detail : HoldDetail) :
    (b.raiseEntry x h kind origin detail).cells = b.cells :=
  (Bay.cells_of_bare (Bay.bare_raiseEntry_first hl hs kind origin detail).1 :)

/-- R123: raises behind the first of an event, the cells of the lot paused already. -/
theorem Bay.bare_raises_held {x : Ctx} {h : LotNo} : ∀ (rs : List (HoldKind × HoldDetail)) (b : Bay), (b.lot h).state = .held →
    h ∈ b.stamped → (∀ c, (b.cell c).Named h → (b.cell c).state = .running ∧ (b.cell c).pause ≠ .none) →
    (rs.foldl (fun b r => b.raise x h r.1 .gate r.2) b).bare
      = b.bare.setLot h ((b.lot h).holding (rs.foldl (fun q r => raiseIn q (gateEntry x.clock (b.lot h).openIndex r)) (b.lot h).holds))
  | [], b, _, _, _ => (Bay.setLot_self b.bare h).symm
  | r :: rs, b, hl, hs, hc => by
    have hold : (b.lot h).state.holdable = true := by rw [hl]; rfl
    obtain ⟨hbare, hst⟩ := Bay.bare_raise_running (x := x) hold (fun c hn => (hc c hn).1) r.1 .gate r.2
      (Bay.cells_raiseEntry_held hl ..)
    have hentry : b.raiseEntry x h r.1 .gate r.2
        = b.setLot h ((b.lot h).raised (gateEntry x.clock (b.lot h).openIndex r)) := by
      rw [Bay.raiseEntry_held hl, Bay.modLot_again hs]
      rfl
    rw [hentry] at hbare hst
    have hsame : b.cells.map (·.pausedFor h) = b.cells := by
      refine Vector.ext fun i hi => ?_
      rw [Vector.getElem_map]
      by_cases hn : (b.cell ⟨i, hi⟩).Named h
      · exact CellRec.pausedFor_of_paused h (hc _ hn).2
      · exact CellRec.pausedFor_of_not_named hn
    rw [hsame] at hbare
    replace hbare : (b.raise x h r.1 .gate r.2).bare
        = b.bare.setLot h ((b.lot h).raised (gateEntry x.clock (b.lot h).openIndex r)) := hbare
    rw [List.foldl_cons, List.foldl_cons]
    generalize b.raise x h r.1 .gate r.2 = b' at hbare hst
    have hlot : b'.lot h = (b.lot h).raised (gateEntry x.clock (b.lot h).openIndex r) := by
      rw [Bay.lot_of_bare hbare, Bay.lot_setLot_self]
    have hcell (c : CellNo) : b'.cell c = b.cell c := by rw [Bay.cell_of_bare hbare]; rfl
    rw [Bay.bare_raises_held rs b' (by rw [hlot]; exact hl) (by rw [hst]; exact hs) fun c hn => by rw [hcell] at hn ⊢; exact hc c hn,
      hbare, Bay.setLot_setLot, hlot]
    rfl

/-! ### The UNIT that raises (R107, R110, R115) -/

/-- A raise on an ACTIVE lot without holds whose one cell runs unpaused, as the event begins. -/
theorem Bay.bare_raise_one {x : Ctx} {b : Bay} {c : CellNo} {a : Assignment} (hl : (b.lot a.lot).state = .active)
    (hh : (b.lot a.lot).holds = []) (hs : b.stamped = []) (hr : (b.cell c).state = .running) (ha : (b.cell c).assignment = some a)
    (hp : (b.cell c).pause = .none) (ho : b.Only a.lot c) (kind : HoldKind) (origin : HoldOrigin) (detail : HoldDetail) :
    (b.raise x a.lot kind origin detail).bare
        = ((b.bare.withQueue (b.queue.filter (· ≠ a.lot))).setLot a.lot
            ((b.lot a.lot).heldWith [raisedEntry x (b.lot a.lot) kind origin detail])).setCell c ((b.cell c).pausing a)
      ∧ a.lot ∈ (b.raise x a.lot kind origin detail).stamped
      ∧ .lotState a.lot ∈ (b.raise x a.lot kind origin detail).notices
      ∧ .cellState c ∈ (b.raise x a.lot kind origin detail).notices := by
  have hmem : (b.lot a.lot).state ∈ [.active, .closing, .complete] := by rw [hl]; decide
  have hns : a.lot ∉ b.stamped := by rw [hs]; exact List.not_mem_nil
  have hold : (b.lot a.lot).state.holdable = true := by rw [hl]; rfl
  have hrun (c' : CellNo) (hn : (b.cell c').Named a.lot) : (b.cell c').state = .running := by rw [ho c' hn]; exact hr
  have hcells := Bay.cells_raiseEntry_first (x := x) hmem hns kind origin detail
  obtain ⟨hentry, hst, hn⟩ := Bay.bare_raiseEntry_first (x := x) hmem hns kind origin detail
  obtain ⟨hbare, hst'⟩ := Bay.bare_raise_running (x := x) hold hrun kind origin detail hcells
  have hgrow : (b.raiseEntry x a.lot kind origin detail).Grows (b.raise x a.lot kind origin detail) := by
    rw [Bay.raise_running hold hrun kind origin detail hcells]
    exact .foldl (fun b c => .pauseCell a.lot b c) allCells _
  refine ⟨?_, by rw [hst']; exact hst, hgrow.1 _ hn,
    Bay.owed_raise_running hold hrun kind origin detail hcells (CellRec.named_iff.2 ⟨a, ha, rfl⟩) hp⟩
  rw [hbare, hentry, ho.map_pausedFor, CellRec.pausedFor_of_unpaused ha hp, hh]
  rfl

/-- R115: the suspect mark of a cell, ahead of the raises of its unit. -/
def Bay.suspecting (b : Bay) (c : CellNo) (raises : List (HoldKind × HoldDetail)) : Bay :=
  if raises.any (·.1 = .run) then b.modCell c fun r => { r with suspect := true } else b

theorem Bay.gateUnit_gated {x : Ctx} {b : Bay} {c : CellNo} {site : SiteNo} {a : Assignment} {raises : List (HoldKind × HoldDetail)}
    (ha : (b.cell c).assignment = some a) (hg : (b.lot a.lot).state.gated = true)
    (hr : unitRaises (x.profile (b.lot a.lot) a.step) ((b.lot a.lot).stepRec a.step) c ((b.cell c).sites.getD 0) a site = raises) :
    b.gateUnit x c site = raises.foldl (fun b r => b.raise x a.lot r.1 .gate r.2) (b.suspecting c raises) := by
  unfold Bay.gateUnit Bay.suspecting
  rw [ha]
  dsimp only
  rw [if_pos hg, hr]

/-- A cell with its suspect mark as a unit leaves it. -/
def CellRec.suspected (r : CellRec) (raises : List (HoldKind × HoldDetail)) : CellRec :=
  { r with suspect := r.suspect || raises.any (·.1 = .run) }

theorem Bay.bare_suspecting (b : Bay) (c : CellNo) (raises : List (HoldKind × HoldDetail)) :
    (b.suspecting c raises).bare = b.bare.setCell c ((b.cell c).suspected raises)
      ∧ (b.suspecting c raises).stamped = b.stamped := by
  unfold Bay.suspecting CellRec.suspected
  cases hr : raises.any (·.1 = .run) with
  | true =>
    rw [if_pos rfl, Bay.bare_modCell, Bool.or_true]
    exact ⟨rfl, Bay.stamped_modCell ..⟩
  | false =>
    rw [if_neg Bool.false_ne_true, Bool.or_false]
    exact ⟨(Bay.setCell_self b.bare c).symm, rfl⟩

/-- R110, R115: the raises of a unit on an ACTIVE lot without holds whose one cell runs unpaused. -/
theorem Bay.bare_gate_raises {x : Ctx} {b : Bay} {c : CellNo} {a : Assignment} {rs : List (HoldKind × HoldDetail)} (hne : rs ≠ [])
    (hl : (b.lot a.lot).state = .active) (hh : (b.lot a.lot).holds = []) (hs : b.stamped = [])
    (hr : (b.cell c).state = .running) (ha : (b.cell c).assignment = some a) (hp : (b.cell c).pause = .none)
    (ho : b.Only a.lot c) :
    (rs.foldl (fun b r => b.raise x a.lot r.1 .gate r.2) b).bare
        = ((b.bare.withQueue (b.queue.filter (· ≠ a.lot))).setLot a.lot
            ((b.lot a.lot).heldWith (rs.foldl (fun q r => raiseIn q (gateEntry x.clock (b.lot a.lot).openIndex r)) []))).setCell c
            ((b.cell c).pausing a)
      ∧ .lotState a.lot ∈ (rs.foldl (fun b r => b.raise x a.lot r.1 .gate r.2) b).notices
      ∧ .cellState c ∈ (rs.foldl (fun b r => b.raise x a.lot r.1 .gate r.2) b).notices := by
  cases rs with
  | nil => exact absurd rfl hne
  | cons r rs =>
    obtain ⟨hb1, hst, hn1, hn2⟩ := Bay.bare_raise_one (x := x) hl hh hs hr ha hp ho r.1 .gate r.2
    rw [List.foldl_cons, List.foldl_cons]
    have hgrow : ∀ b : Bay, b.Grows (rs.foldl (fun b r => b.raise x a.lot r.1 .gate r.2) b) := .foldl (fun b r => .raise ..) rs
    refine ⟨?_, (hgrow _).1 _ hn1, (hgrow _).1 _ hn2⟩
    generalize b.raise x a.lot r.1 .gate r.2 = b1 at hb1 hst
    have hlot : b1.lot a.lot = (b.lot a.lot).heldWith [gateEntry x.clock (b.lot a.lot).openIndex r] := by
      rw [Bay.lot_of_bare hb1, Bay.lot_setCell, Bay.lot_setLot_self]
      rfl
    have hcells (c' : CellNo) (hn : (b1.cell c').Named a.lot) : (b1.cell c').state = .running ∧ (b1.cell c').pause ≠ .none := by
      by_cases hc : c = c'
      · subst hc
        rw [Bay.cell_of_bare hb1, Bay.cell_setCell_self]
        exact ⟨hr, nofun⟩
      · have hcell : b1.cell c' = b.cell c' := by
          rw [Bay.cell_of_bare hb1, Bay.cell_setCell_ne _ _ hc]
          rfl
        rw [hcell] at hn
        exact absurd (ho c' hn).symm hc
    rw [Bay.bare_raises_held rs b1 (by rw [hlot]; rfl) hst hcells, hb1, hlot, Bay.setLot_setCell, Bay.setLot_setLot]
    rfl

/-- A UNIT past a count's bound. -/
theorem unit_saturates {c : CellNo} {lot : Half} {site : SiteNo} {bin : Byte} {sequence : BitVec 32} {a : Assignment} {s : State}
    {rec : StepRec} {p : GateProfile} (ht : s.TakesFrame c .unit) (hr : (s.bay.cell c).state = .running)
    (ha : (s.bay.cell c).assignment = some a) (hs : site.val < (s.bay.cell c).sites.getD 0) (hp : (s.bay.cell c).pause = .none)
    (hrec : (s.bay.lot a.lot).steps[a.step - 1]? = some rec) (hpr : s.tables.profiles[((s.bay.lot a.lot).routeStep a.step).profile] = p)
    (hl : (s.bay.lot a.lot).state = .active) (hh : (s.bay.lot a.lot).holds = []) (ho : ∀ c', s.NamedBy a.lot c' → c' = c)
    (hfull : countsFull rec (binOf bin) (p.goodBins.getLsbD (binOf bin).val) = true) :
    Takes s c .handler lot (.unit a.id (BitVec.ofNat 8 site.val) bin sequence)
      { (s.records.setLot a.lot ((s.bay.lot a.lot).heldWith [raisedEntry s.ctx (s.bay.lot a.lot) .count .count (.saturated c)])).setCell c
          ((s.bay.cell c).pausing a) with queue := s.bay.queue.filter (· ≠ a.lot) }
      [.lotState a.lot, .cellState c] := by
  have hgood : inBins (s.ctx.profile (s.newEvent.bay.lot a.lot) a.step).goodBins (binOf bin) = p.goodBins.getLsbD (binOf bin).val := by
    rw [← hpr]
    rfl
  have hframe := Bay.unitFrame_matched (x := s.ctx) (b := s.newEvent.bay) bin hr ha hs hrec
  rw [hgood, hfull, if_pos rfl] at hframe
  obtain ⟨hb, _, hn1, hn2⟩ := Bay.bare_raise_one (x := s.ctx) (b := s.newEvent.bay) hl hh rfl hr ha hp (State.only_of ho rfl) .count .count
    (.saturated c)
  exact takes_of_effect (m := .unit a.id (BitVec.ofNat 8 site.val) bin sequence) ht hframe (records_of_bare hb rfl)
    (forall_mem_pair hn1 hn2)

/-- The cell of a counted unit that does not fill its sublot. -/
theorem CellRec.fullSent_of_ne {r : CellRec} {a : Assignment} {p : GateProfile} (h : a.units ≠ a.qty) : r.fullSent a p = r :=
  if_neg fun hc => h hc.1

/-- The cell of a counted unit that raises holds. -/
def State.raisedCell (s : State) (c : CellNo) (r : CellRec) (a : Assignment) (p : GateProfile)
    (raises : List (HoldKind × HoldDetail)) : CellRec :=
  ((s.countedCell c r a p).suspected raises).pausing a

/-- A UNIT that is counted and raises holds. -/
theorem unit_raises {c : CellNo} {lot : Half} {site : SiteNo} {bin : Byte} {sequence : BitVec 32} {a : Assignment} {s : State}
    {rec : StepRec} {p : GateProfile} {good : Bool} {raises : List (HoldKind × HoldDetail)} (ht : s.TakesFrame c .unit)
    (hr : (s.bay.cell c).state = .running) (ha : (s.bay.cell c).assignment = some a)
    (hs : site.val < (s.bay.cell c).sites.getD 0) (hp : (s.bay.cell c).pause = .none)
    (hrec : (s.bay.lot a.lot).steps[a.step - 1]? = some rec) (hpr : s.tables.profiles[((s.bay.lot a.lot).routeStep a.step).profile] = p)
    (hl : (s.bay.lot a.lot).state = .active) (hh : (s.bay.lot a.lot).holds = []) (ho : ∀ c', s.NamedBy a.lot c' → c' = c)
    (hg : p.goodBins.getLsbD (binOf bin).val = good) (hfull : countsFull rec (binOf bin) good = false)
    (hnf : (a.counted site (binOf bin) good).units ≠ a.qty)
    (hraise : unitRaises p (rec.counted (binOf bin) good) c ((s.bay.cell c).sites.getD 0) (a.counted site (binOf bin) good) site = raises)
    (hne : raises ≠ []) :
    Takes s c .handler lot (.unit a.id (BitVec.ofNat 8 site.val) bin sequence)
      { (s.records.setLot a.lot (((s.bay.lot a.lot).counted a.step (rec.counted (binOf bin) good)).heldWith
            (raises.foldl (fun q r => raiseIn q (gateEntry s.part.clock (s.bay.lot a.lot).openIndex r)) []))).setCell c
          (s.raisedCell c (s.bay.cell c) (a.counted site (binOf bin) good) p raises) with
        queue := s.bay.queue.filter (· ≠ a.lot) }
      [.lotState a.lot, .cellState c] := by
  have hprof : s.ctx.profile (s.newEvent.bay.lot a.lot) a.step = p := hpr
  have hgood : inBins p.goodBins (binOf bin) = good := hg
  have hframe := Bay.unitFrame_matched (x := s.ctx) (b := s.newEvent.bay) bin hr ha hs hrec
  rw [hprof, hgood, hfull, if_neg Bool.false_ne_true, Bay.countUnit_eq, hprof, hgood] at hframe
  obtain ⟨hbare, _, hst⟩ := Bay.bare_counting (s := s) (b := s.newEvent.bay) (site := site) (bin := binOf bin) (good := good) (p := p)
    hr ha hrec
  generalize s.newEvent.bay.counting s.ctx c a site (binOf bin) good p = b at hbare hst hframe
  have hlot : b.lot a.lot = (s.bay.lot a.lot).counted a.step (rec.counted (binOf bin) good) := by
    rw [Bay.lot_of_bare hbare]
    exact Bay.lot_setLot_self ..
  have hcell : b.cell c = s.countedCell c (s.bay.cell c) (a.counted site (binOf bin) good) p := by
    rw [Bay.cell_of_bare hbare, Bay.cell_setCell_self]
    rfl
  have hsent := CellRec.fullSent_of_ne (r := (s.bay.cell c).holding (a.counted site (binOf bin) good)) (p := p) hnf
  have hcell' : b.cell c = s.watched c ((s.bay.cell c).holding (a.counted site (binOf bin) good)) (s.bay.cell c).stallDeadline.isSome := by
    rw [hcell, State.countedCell, hsent]
  have hasg : (b.cell c).assignment = some (a.counted site (binOf bin) good) := by rw [hcell']; rfl
  have hrec' : ((s.bay.lot a.lot).counted a.step (rec.counted (binOf bin) good)).stepRec a.step = rec.counted (binOf bin) good :=
    LotRec.stepRec_counted hrec
  have hprof' : s.ctx.profile ((s.bay.lot a.lot).counted a.step (rec.counted (binOf bin) good)) a.step = p := hpr
  have hgate := Bay.gateUnit_gated (x := s.ctx) (site := site) (raises := raises) hasg
    (by show (b.lot a.lot).state.gated = true
        rw [hlot]
        show (s.bay.lot a.lot).state.gated = true
        rw [hl]
        rfl)
    (by show unitRaises (s.ctx.profile (b.lot a.lot) a.step) ((b.lot a.lot).stepRec a.step) _ _ _ _ = _
        rw [hlot, hrec', hprof', hcell, State.sites_countedCell]
        exact hraise)
  obtain ⟨hsus, hsst⟩ := b.bare_suspecting c raises
  generalize b.suspecting c raises = b' at hsus hsst hgate
  have hlot' : b'.lot a.lot = (s.bay.lot a.lot).counted a.step (rec.counted (binOf bin) good) := by
    rw [Bay.lot_of_bare hsus, Bay.lot_setCell, Bay.lot_bare, hlot]
  have hcellb : b'.cell c = (b.cell c).suspected raises := by rw [Bay.cell_of_bare hsus, Bay.cell_setCell_self]
  have hpause : (b'.cell c).pause = .none := by rw [hcellb, hcell']; exact hp
  have honly : b'.Only a.lot c := by
    intro c' hn
    by_contra hcc
    have hc' : b'.cell c' = s.bay.cell c' := by
      rw [Bay.cell_of_bare hsus, Bay.cell_setCell_ne _ _ (Ne.symm hcc), Bay.cell_bare, Bay.cell_of_bare hbare,
        Bay.cell_setCell_ne _ _ (Ne.symm hcc)]
      rfl
    rw [hc'] at hn
    exact hcc (ho c' (CellRec.named_iff.1 hn))
  obtain ⟨hb, hn1, hn2⟩ := Bay.bare_gate_raises (x := s.ctx) (b := b') (a := a.counted site (binOf bin) good) hne
    (by show (b'.lot a.lot).state = _; rw [hlot']; exact hl) (by show (b'.lot a.lot).holds = _; rw [hlot']; exact hh)
    (by rw [hsst, hst]; rfl) (by rw [hcellb, hcell']; exact hr) (by rw [hcellb]; exact hasg) hpause honly
  have hal : (a.counted site (binOf bin) good).lot = a.lot := rfl
  rw [hal, hlot', hcellb, hcell, hsus, hbare, Bay.queue_of_bare hsus] at hb
  refine takes_of_effect (m := .unit a.id (BitVec.ofNat 8 site.val) bin sequence) ht (hframe.trans hgate)
    (records_of_bare hb ?_) (forall_mem_pair hn1 hn2)
  rw [Bay.setCell_setCell, Bay.withQueue_setCell, Bay.setLot_setCell, Bay.setCell_setCell, Bay.withQueue_setLot, Bay.setLot_setLot,
    Bay.queue_setCell]
  have hq : b.bare.queue = s.bay.queue := (Bay.queue_of_bare hbare :)
  rw [hq]
  rfl

/-- Settles O36: a UNIT past a count's bound, and one that is counted and raises holds. -/
theorem unitRaisesHolds : Obligations.UnitRaisesHolds := by
  intro c lot site bin sequence a s hs r l p b good rec hr ha hsite hp _ hk hrec hl hh ho entry frame queue
  have hbin : binOf bin = b := binOf_eq bin
  have hopen : l.openIndex = a.step := by unfold LotRec.openIndex; rw [hk]; rfl
  have hpaused : r.pausedFor a.lot = r.pausing a := CellRec.pausedFor_of_unpaused ha hp
  refine ⟨fun hfull => ?_, ?_⟩
  · have hsat := unit_saturates (lot := lot) (bin := bin) (sequence := sequence) (p := p) hs hr ha hsite hp hrec rfl hl hh ho
      (by rw [hbin]; exact countsFull_iff.2 hfull)
    unfold raisedEntry at hsat
    rw [show (s.bay.lot a.lot).openIndex = a.step from hopen] at hsat
    rw [hpaused]
    exact hsat
  · intro ht hb hg hnf hu rec' a' raises hne holds r'
    have hfull : countsFull rec b good = false := by
      rw [← Bool.not_eq_true, countsFull_iff]
      rintro (h | h | ⟨h, h'⟩)
      · omega
      · omega
      · have := hg h
        omega
    have hunits : (a.counted site b good).units ≠ a.qty := by
      show bump24 a.units ≠ a.qty
      have hbump : bump24 a.units = a.units + 1 := Nat.min_eq_left hu
      rw [hbump]
      exact hnf
    have hraise := unit_raises (lot := lot) (bin := bin) (sequence := sequence) (p := p) (good := good) (raises := raises) hs hr ha
      hsite hp hrec rfl hl hh ho (by rw [hbin]) (by rw [hbin]; exact hfull) (by rw [hbin]; exact hunits) (by rw [hbin]) hne
    rw [hbin, show (s.bay.lot a.lot).openIndex = a.step from hopen] at hraise
    have hcell : s.raisedCell c (s.bay.cell c) (a.counted site b good) p raises = r' := by
      unfold State.raisedCell State.countedCell
      rw [CellRec.fullSent_of_ne hunits]
      rfl
    rw [hcell] at hraise
    exact hraise

end Sys2Proof.Machine

/-!
PROOF. HOLD.SET (section 6.5): a raise of QUALITY on a lot whose cells are all RUNNING, and on one whose one cell is OFFERED or
LOADING.
-/

namespace Sys2Proof.Machine

/-! ### The hold set of a raise of QUALITY (R123) -/

/-- R123: one more occurrence of QUALITY, or its entry ahead of all others. -/
theorem raiseIn_quality (holds : List HoldEntry) {e : HoldEntry} (he : e.kind = .quality) :
    raiseIn holds e = if holds.any (·.kind = .quality) = true then
      holds.map fun o => if o.kind = .quality then { o with occurrences := min (o.occurrences + 1) 255 } else o
      else e :: holds := by
  unfold raiseIn
  rw [he]
  split
  · rfl
  · have htake : holds.takeWhile (fun o => decide (o.kind.priority < HoldKind.quality.priority)) = [] := by
      cases holds with
      | nil => rfl
      | cons o holds =>
        have hp := o.kind.priority_range.1
        rw [List.takeWhile_cons, if_neg]
        rw [decide_eq_true_eq]
        show ¬o.kind.priority < 1
        omega
    have hdrop := List.takeWhile_append_dropWhile (p := fun o : HoldEntry => decide (o.kind.priority < HoldKind.quality.priority))
      (l := holds)
    rw [htake, List.nil_append] at hdrop
    rw [htake, hdrop]
    rfl

/-! ### All cells RUNNING -/

/-- R7, R123: the record and the queue that a raise leaves of a lot. -/
def Bay.raisedLot (x : Ctx) (b : Bay) (h : LotNo) (kind : HoldKind) (origin : HoldOrigin) (detail : HoldDetail) :
    LotRec × List LotNo :=
  let l := b.lot h
  let holds := raiseIn l.holds (raisedEntry x l kind origin detail)
  if l.state = .held then ({ l with holds := holds, stamp := if holds = l.holds then l.stamp else l.stamp + 1 }, b.queue)
  else (l.heldWith holds, b.queue.filter (· ≠ h))

theorem Bay.bare_raiseEntry {x : Ctx} {b : Bay} {h : LotNo} (hl : (b.lot h).state.holdable = true) (hs : h ∉ b.stamped)
    (kind : HoldKind) (origin : HoldOrigin) (detail : HoldDetail) :
    (b.raiseEntry x h kind origin detail).bare
        = (b.bare.withQueue (b.raisedLot x h kind origin detail).2).setLot h (b.raisedLot x h kind origin detail).1
      ∧ ((b.raisedLot x h kind origin detail).1.stamp ≠ (b.lot h).stamp →
        .lotState h ∈ (b.raiseEntry x h kind origin detail).notices) := by
  unfold Bay.raisedLot
  dsimp only
  by_cases hh : (b.lot h).state = .held
  · rw [if_pos hh, Bay.raiseEntry_held hh]
    by_cases hsame : raiseIn (b.lot h).holds (raisedEntry x (b.lot h) kind origin detail) = (b.lot h).holds
    · rw [Bay.modLot_same, if_pos hsame]
      · exact ⟨rfl, fun h => absurd rfl h⟩
      · simp only [LotRec.followed, LotRec.raised, hsame]
    · have hne : ((b.lot h).raised (raisedEntry x (b.lot h) kind origin detail)).followed ≠ (b.lot h).followed :=
        fun he => hsame (congrArg (fun t => t.2.2.2.2) he)
      rw [if_neg hsame]
      exact ⟨Bay.bare_modLot_first hne hs, fun _ => Bay.owed_modLot_first hne hs⟩
  · rw [if_neg hh]
    have hmem : (b.lot h).state ∈ [.active, .closing, .complete] := by
      have := LotState.holdable_iff.1 hl
      simp only [List.mem_cons, List.not_mem_nil, or_false] at this ⊢
      tauto
    obtain ⟨hb, _, hn⟩ := Bay.bare_raiseEntry_first (x := x) hmem hs kind origin detail
    exact ⟨hb, fun _ => hn⟩

theorem Bay.holdSet_taken {detail : BitVec 32} {x : Ctx} {b : Bay} {h : LotNo} (hl : (b.lot h).state.holdable = true) :
    b.holdSet detail x h = (b.raise x h .quality .floor (.word detail),
      { status := .done, data := ((b.raise x h .quality .floor (.word detail)).lot h).held }) := by
  unfold Bay.holdSet
  rw [if_pos hl]

theorem Bay.holdSet_refused {detail : BitVec 32} {x : Ctx} {b : Bay} {h : LotNo} (hl : (b.lot h).state.holdable = false) :
    b.holdSet detail x h = (b, { status := .state, data := (b.lot h).held }) := by
  unfold Bay.holdSet
  rw [if_neg (by rw [hl]; decide)]

theorem holdSet_running {tag handle : Half} {detail : BitVec 32} {s : State} {h : LotNo} (ht : s.TakesRequests)
    (hh : handle.toNat < 256) (hd : ⟨handle.toNat, hh⟩ = h) (hl : (s.bay.lot h).state.holdable = true) (hrun : s.AllRunning h) :
    Answers (.holdSet tag handle detail) s
      { s.records.setLot h (s.bay.raisedLot s.ctx h .quality .floor (.word detail)).1 with
        queue := (s.bay.raisedLot s.ctx h .quality .floor (.word detail)).2
        cells := s.bay.cells.map fun r => r.pausedFor h }
      (some h) 0x20#8 tag
      { status := .done, data := (s.bay.raisedLot s.ctx h .quality .floor (.word detail)).1.held }
      (if (s.bay.raisedLot s.ctx h .quality .floor (.word detail)).1.stamp = (s.bay.lot h).stamp then [] else [.lotState h]) := by
  obtain ⟨hentry, hn⟩ := Bay.bare_raiseEntry (x := s.ctx) (b := s.newEvent.bay) hl List.not_mem_nil .quality .floor (.word detail)
  have hcells : (s.newEvent.bay.raiseEntry s.ctx h .quality .floor (.word detail)).cells = s.newEvent.bay.cells :=
    (Bay.cells_of_bare hentry :)
  have hrun' (c : CellNo) (hc : (s.newEvent.bay.cell c).Named h) : (s.newEvent.bay.cell c).state = .running :=
    hrun c (CellRec.named_iff.1 hc)
  have hbare := (Bay.bare_raise_running (x := s.ctx) (b := s.newEvent.bay) hl hrun' .quality .floor (.word detail) hcells).1
  rw [hentry] at hbare
  have hlot := Bay.lot_of_bare hbare h
  refine answers_of_lotEffect (f := Bay.holdSet detail) rfl ht rfl hh hd ((Bay.holdSet_taken (b := s.newEvent.bay) hl).trans ?_) hbare rfl
    fun n hm => ?_
  · rw [hlot]
    exact congrArg (fun l : LotRec => ((_, { status := .done, data := l.held }) : Bay × Reply)) (Bay.lot_setLot_self ..)
  · split at hm
    · cases hm
    · next hne =>
      cases List.mem_singleton.1 hm
      rw [Bay.raise_running (x := s.ctx) (b := s.newEvent.bay) hl hrun' .quality .floor (.word detail) hcells]
      exact (Bay.Grows.foldl (fun b c => .pauseCell h b c) allCells _).1 _ (hn hne)

/-! ### The return of a quantity to a lot that the event has held (R73, R127) -/

/-- Table 3-3: a HELD lot to which an amount has been returned. -/
def LotRec.heldGiven (l : LotRec) (amount : Nat) : LotRec :=
  { l with remaining := l.remaining + amount, saved := if l.saved = some .closing then some .active else l.saved }

theorem Bay.bare_giveBack_held {x : Ctx} {b : Bay} {h : LotNo} {amount : Nat} (hl : (b.lot h).state = .held) (hs : h ∈ b.stamped)
    (hpos : (b.lot h).saved = some .closing → 0 < (b.lot h).remaining + amount) :
    (b.giveBack x h amount).bare = b.bare.setLot h ((b.lot h).heldGiven amount)
      ∧ (b.giveBack x h amount).stamped = b.stamped := by
  rw [Bay.giveBack_eq, Bay.modLot_same rfl]
  have hself : (b.setLot h ((b.lot h).given amount)).lot h = (b.lot h).given amount := Bay.lot_setLot_self ..
  have hst : ((b.lot h).given amount).state = .held := hl
  unfold Bay.afterGiven
  rw [hself, hst]
  dsimp only
  by_cases hsv : (b.lot h).saved = some .closing
  · rw [if_pos (show ((b.lot h).given amount).saved = some .closing from hsv),
      if_pos (show 0 < ((b.lot h).given amount).remaining from hpos hsv)]
    have hs' : h ∈ (b.setLot h ((b.lot h).given amount)).stamped := hs
    rw [Bay.modLot_again hs', hself, Bay.setLot_setLot]
    refine ⟨?_, rfl⟩
    unfold LotRec.heldGiven LotRec.given
    rw [if_pos hsv]
    rfl
  · rw [if_neg (show ¬((b.lot h).given amount).saved = some .closing from hsv)]
    refine ⟨?_, rfl⟩
    unfold LotRec.heldGiven LotRec.given
    rw [if_neg hsv]
    rfl

/-- R29: an assignment as it is removed. -/
def Bay.dropped (b : Bay) (c : CellNo) (a : Assignment) : Bay :=
  (b.modCell c fun r => { r with assignment := none }).setLot a.lot (b.lot a.lot).oneClosed

theorem Bay.dropAssignment_eq {b : Bay} {c : CellNo} {a : Assignment} (ha : (b.cell c).assignment = some a) :
    b.dropAssignment c = b.dropped c a := by
  unfold Bay.dropAssignment
  rw [ha]
  dsimp only
  rw [Bay.modLot_same rfl]
  simp only [Bay.lot, Bay.lots_modCell]
  rfl

theorem Bay.returnSublot_eq {x : Ctx} {b : Bay} {c : CellNo} {a : Assignment} (ha : (b.cell c).assignment = some a) :
    b.returnSublot x c = (b.dropped c a).giveBack x a.lot a.qty := by
  unfold Bay.returnSublot
  rw [ha, Bay.dropAssignment_eq ha]

theorem Bay.bare_dropped (b : Bay) (c : CellNo) (a : Assignment) :
    (b.dropped c a).bare = (b.bare.setLot a.lot (b.lot a.lot).oneClosed).setCell c { b.cell c with assignment := none } := by
  unfold Bay.dropped
  rw [Bay.bare_setLot, Bay.bare_modCell]
  rfl

theorem Bay.stamped_dropped (b : Bay) (c : CellNo) (a : Assignment) : (b.dropped c a).stamped = b.stamped := Bay.stamped_modCell ..

/-- The return of an assignment's quantity leaves its lot the record `l` and nothing else changed. -/
def Bay.GivesBack (x : Ctx) (b : Bay) (a : Assignment) (l : LotRec) : Prop :=
  ∀ b' : Bay, b'.lot a.lot = (b.lot a.lot).oneClosed → b'.stamped = b.stamped →
    (b'.giveBack x a.lot a.qty).bare = b'.bare.setLot a.lot l

/-- R73: the removal of an assignment, from what the return of its quantity leaves. -/
theorem Bay.bare_returnSublot_of {x : Ctx} {b : Bay} {c : CellNo} {a : Assignment} {l : LotRec}
    (ha : (b.cell c).assignment = some a) (hg : b.GivesBack x a l) :
    (b.returnSublot x c).bare = (b.bare.setLot a.lot l).setCell c { b.cell c with assignment := none } := by
  have hbare := b.bare_dropped c a
  have hlot : (b.dropped c a).lot a.lot = (b.lot a.lot).oneClosed := by
    rw [Bay.lot_of_bare hbare, Bay.lot_setCell, Bay.lot_setLot_self]
  rw [Bay.returnSublot_eq ha, hg _ hlot (Bay.stamped_dropped ..), hbare, Bay.setLot_setCell, Bay.setLot_setLot]

theorem Bay.bare_withdrawOffer_of {x : Ctx} {b : Bay} {c : CellNo} {a : Assignment} {l : LotRec} {after : CellState}
    (ha : (b.cell c).assignment = some a) (hg : b.GivesBack x a l) :
    (b.withdrawOffer x c after).bare = (b.bare.setLot a.lot l).setCell c ((b.cell c).offerGone a after) := by
  have hbare := b.bare_withdrawing c a after
  have hlot : (b.withdrawing c a after).lot a.lot = b.lot a.lot := by rw [Bay.lot_of_bare hbare]; rfl
  have hcell := b.cell_withdrawing c a after
  have hg' : (b.withdrawing c a after).GivesBack x a l := fun b' hl hs => hg b' (by rw [hl, hlot])
    (by rw [hs, Bay.stamped_withdrawing])
  rw [Bay.withdrawOffer_eq ha, Bay.bare_returnSublot_of (a := a) (by rw [hcell, CellRec.assignment_withdrawing, ha]) hg', hcell, hbare,
    Bay.setLot_setCell, Bay.setCell_setCell, CellRec.withdrawing_dropped]

theorem Bay.givesBack_held {x : Ctx} {b : Bay} {a : Assignment} (hl : (b.lot a.lot).state = .held) (hs : a.lot ∈ b.stamped)
    (hpos : (b.lot a.lot).saved = some .closing → 0 < (b.lot a.lot).remaining + a.qty) :
    b.GivesBack x a ((b.lot a.lot).oneClosed.heldGiven a.qty) := fun b' hl' hs' => by
  rw [(Bay.bare_giveBack_held (by rw [hl']; exact hl) (by rw [hs']; exact hs) (by rw [hl']; exact hpos)).1, hl']

/-! ### One cell, OFFERED or LOADING (R126, R127) -/

/-- R126: a raise on a lot whose one cell is `c`, from what it does to that cell. -/
theorem Bay.raise_at_one {x : Ctx} {b b1 : Bay} {h : LotNo} {c : CellNo} {fr : List CellNo} {kind : HoldKind} {origin : HoldOrigin}
    {detail : HoldDetail} (hold : (b.lot h).state.holdable = true) (ho : (b.raiseEntry x h kind origin detail).Only h c)
    (hcell : Bay.holdCell x h (b.raiseEntry x h kind origin detail, []) c = (b1, fr)) (ho' : b1.Only h c) :
    b.raise x h kind origin detail = b1.matchCells x fr.reverse := by
  rw [Bay.raise_eq, if_pos hold]
  unfold Bay.heldCells
  rw [foldl_at_one (P := fun r => r.Named h) (c := c) (fun acc c' hn => ?_) (fun c' hne hn => hne (ho c' hn)) (fun c' hne hn => ?_), hcell]
  · unfold Bay.holdCell
    dsimp only
    exact if_neg hn
  · rw [hcell] at hn
    exact hne (ho' c' hn)

/-- What a raise leaves of a lot whose one cell has given its quantity back. -/
def Bay.raisedReturn (x : Ctx) (b : Bay) (a : Assignment) (kind : HoldKind) (origin : HoldOrigin) (detail : HoldDetail) : LotRec :=
  ((b.lot a.lot).heldWith (raiseIn (b.lot a.lot).holds (raisedEntry x (b.lot a.lot) kind origin detail))).oneClosed.heldGiven a.qty

theorem LotRec.saved_heldWith_closing {l : LotRec} {holds : List HoldEntry} (h : (l.heldWith holds).saved = some .closing) :
    l.state = .closing := by
  by_contra hne
  unfold LotRec.heldWith at h
  dsimp only at h
  rw [if_neg hne] at h
  split at h <;> cases h

/-- R127: a lot held while ACTIVE, or CLOSING, has the saved state ACTIVE once a quantity has returned to it. -/
theorem LotRec.heldWith_returned {l : LotRec} (hl : l.state = .active ∨ l.state = .closing) (holds : List HoldEntry) (amount : Nat) :
    (l.heldWith holds).oneClosed.heldGiven amount
      = { l.heldWith holds with
          saved := some .active, remaining := l.remaining + amount, openSublots := l.openSublots - 1 } := by
  rcases hl with hl | hl <;> simp [LotRec.heldGiven, LotRec.oneClosed, LotRec.heldWith, hl]

/-- R126, R127: a raise on a lot whose one cell is OFFERED, or LOADING, with no other lot queued. -/
theorem Bay.bare_raise_one_unstarted {x : Ctx} {b : Bay} {c : CellNo} {a : Assignment}
    (hl : (b.lot a.lot).state ∈ [.active, .closing, .complete]) (hs : b.stamped = []) (ha : (b.cell c).assignment = some a)
    (ho : b.Only a.lot c) (hq : ∀ h ∈ b.queue, h = a.lot)
    (hpos : (b.lot a.lot).state = .closing → 0 < (b.lot a.lot).remaining + a.qty) (kind : HoldKind) (origin : HoldOrigin)
    (detail : HoldDetail) (r' : CellRec)
    (hst : ((b.cell c).state = .offered ∧ r' = (b.cell c).offerGone a .idle)
      ∨ ((b.cell c).state = .loading ∧ r' = { b.cell c with assignment := none })) :
    (b.raise x a.lot kind origin detail).bare
        = ((b.bare.withQueue []).setLot a.lot (b.raisedReturn x a kind origin detail)).setCell c r'
      ∧ .lotState a.lot ∈ (b.raise x a.lot kind origin detail).notices
      ∧ .cellState c ∈ (b.raise x a.lot kind origin detail).notices := by
  have hns : a.lot ∉ b.stamped := by rw [hs]; exact List.not_mem_nil
  have hold : (b.lot a.lot).state.holdable = true := LotState.holdable_iff.2 (by
    simp only [List.mem_cons, List.not_mem_nil, or_false] at hl ⊢
    tauto)
  obtain ⟨hentry, hstamp, hnlot⟩ := Bay.bare_raiseEntry_first (x := x) hl hns kind origin detail
  have hqueue : b.queue.filter (· ≠ a.lot) = [] := by
    rw [List.filter_eq_nil_iff]
    simpa using hq
  rw [hqueue] at hentry
  have hraise (b1 : Bay) (fr : List CellNo) :=
    Bay.raise_at_one (x := x) (b := b) (b1 := b1) (fr := fr) (h := a.lot) (c := c) (kind := kind) (origin := origin) (detail := detail)
      hold
  generalize b.raiseEntry x a.lot kind origin detail = b' at hentry hstamp hnlot hraise
  have hlot : b'.lot a.lot = (b.lot a.lot).heldWith (raiseIn (b.lot a.lot).holds (raisedEntry x (b.lot a.lot) kind origin detail)) := by
    rw [Bay.lot_of_bare hentry, Bay.lot_setLot_self]
  have hcell (c' : CellNo) : b'.cell c' = b.cell c' := by rw [Bay.cell_of_bare hentry]; rfl
  have hasg : (b'.cell c).assignment = some a := by rw [hcell]; exact ha
  have hnamed : Option.any (fun x : Assignment => decide (x.lot = a.lot)) (b'.cell c).assignment = true := by rw [hasg]; simp
  have hheld : (b'.lot a.lot).state = .held := by rw [hlot]; rfl
  have hpos' : (b'.lot a.lot).saved = some .closing → 0 < (b'.lot a.lot).remaining + a.qty := by
    rw [hlot]
    exact fun h => hpos (LotRec.saved_heldWith_closing h)
  have honly : b'.Only a.lot c := fun c' hn => ho c' (by rw [← hcell]; exact hn)
  have hwrite : ∀ b1 : Bay, b1.bare = (b'.bare.setLot a.lot ((b'.lot a.lot).oneClosed.heldGiven a.qty)).setCell c r' →
      b1.Only a.lot c ∧ b1.queue = [] ∧ b1.bare = ((b.bare.withQueue []).setLot a.lot (b.raisedReturn x a kind origin detail)).setCell c r' := by
    intro b1 hb1
    rw [hentry, hlot, Bay.setLot_setLot] at hb1
    refine ⟨fun c' hn => ?_, (Bay.queue_of_bare hb1 :), hb1⟩
    by_contra hcc
    rw [Bay.cell_of_bare hb1, Bay.cell_setCell_ne _ _ (Ne.symm hcc)] at hn
    exact hcc (ho c' hn)
  rcases hst with ⟨hst, hr'⟩ | ⟨hst, hr'⟩
  · have hstep : Bay.holdCell x a.lot (b', []) c = (b'.withdrawOffer x c .idle, [c]) := by
      unfold Bay.holdCell
      dsimp only
      rw [if_pos hnamed, hcell, hst]
    have hwith := Bay.bare_withdrawOffer_of (x := x) (after := .idle) hasg (Bay.givesBack_held hheld hstamp hpos')
    rw [hcell, ← hr'] at hwith
    obtain ⟨ho1, hq1, hb1⟩ := hwrite _ hwith
    rw [hraise _ _ honly hstep ho1, Bay.matchCells_empty hq1]
    exact ⟨hb1, (Bay.Grows.withdrawOffer ..).1 _ hnlot, Bay.owed_withdrawOffer (by rw [hcell, hst]; decide)⟩
  · have hstep : Bay.holdCell x a.lot (b', []) c = (b'.returnSublot x c, []) := by
      unfold Bay.holdCell
      dsimp only
      rw [if_pos hnamed, hcell, hst]
    have hret := Bay.bare_returnSublot_of (x := x) hasg (Bay.givesBack_held hheld hstamp hpos')
    rw [hcell, ← hr'] at hret
    obtain ⟨ho1, hq1, hb1⟩ := hwrite _ hret
    rw [hraise _ _ honly hstep ho1, Bay.matchCells_empty hq1]
    exact ⟨hb1, (Bay.Grows.returnSublot ..).1 _ hnlot, Bay.owed_returnSublot hasg⟩

/-- HOLD.SET on a lot whose one cell is OFFERED or LOADING. -/
theorem holdSet_unstarted {tag handle : Half} {detail : BitVec 32} {c : CellNo} {a : Assignment} {s : State} (ht : s.TakesRequests)
    (hh : handle.toNat < 256) (hd : ⟨handle.toNat, hh⟩ = a.lot) (hl : (s.bay.lot a.lot).state ∈ [.active, .closing, .complete])
    (ha : (s.bay.cell c).assignment = some a) (ho : ∀ c', s.NamedBy a.lot c' → c' = c) (hq : ∀ h ∈ s.bay.queue, h = a.lot)
    (hpos : (s.bay.lot a.lot).state = .closing → 0 < (s.bay.lot a.lot).remaining + a.qty) (r' : CellRec)
    (hst : ((s.bay.cell c).state = .offered ∧ r' = (s.bay.cell c).offerGone a .idle)
      ∨ ((s.bay.cell c).state = .loading ∧ r' = { s.bay.cell c with assignment := none })) :
    Answers (.holdSet tag handle detail) s
      { (s.records.setLot a.lot (s.bay.raisedReturn s.ctx a .quality .floor (.word detail))).setCell c r' with queue := [] }
      (some a.lot) 0x20#8 tag { status := .done, data := (s.bay.raisedReturn s.ctx a .quality .floor (.word detail)).held }
      [.lotState a.lot, .cellState c] := by
  have hold : (s.newEvent.bay.lot a.lot).state.holdable = true := LotState.holdable_iff.2 (by
    simp only [List.mem_cons, List.not_mem_nil, or_false] at hl ⊢
    rcases hl with h | h | h
    exacts [.inl h, .inr (.inl h), .inr (.inr (.inl h))])
  obtain ⟨hb, hn1, hn2⟩ := Bay.bare_raise_one_unstarted (x := s.ctx) (b := s.newEvent.bay) hl rfl ha (State.only_of ho rfl) hq hpos
    .quality .floor (.word detail) r' hst
  refine answers_of_lotEffect (f := Bay.holdSet detail) rfl ht rfl hh hd ((Bay.holdSet_taken hold).trans ?_) hb rfl
    (forall_mem_pair hn1 hn2)
  rw [Bay.lot_of_bare hb, Bay.lot_setCell, Bay.lot_setLot_self]
  rfl

/-- Settles O19: refused by state; all cells RUNNING; one cell OFFERED or LOADING. -/
theorem holdSet : Obligations.HoldSet := by
  refine ⟨?_, ?_⟩
  · intro tag handle detail s hs hh h l i shows
    refine ⟨fun hst => ?_, ?_⟩
    · have hno : (s.newEvent.bay.lot h).state.holdable = false := by
        rw [← Bool.not_eq_true, LotState.holdable_iff]
        intro hm
        replace hst : (s.newEvent.bay.lot h).state ∈ _ := hst
        simp only [List.mem_cons, List.not_mem_nil, or_false] at hm hst
        rcases hm with hm | hm | hm | hm <;> rw [hm] at hst <;> simp at hst
      exact answers_of_lotEffect (f := Bay.holdSet detail) rfl hs rfl hh rfl (Bay.holdSet_refused hno) rfl rfl (by simp)
    · intro hst hrun e again holds l'
      have hold : (s.bay.lot h).state.holdable = true := LotState.holdable_iff.2 hst
      have hkinds : raiseIn l.holds (raisedEntry s.ctx l .quality .floor (.word detail)) = holds := raiseIn_quality _ rfl
      have hraised : s.bay.raisedLot s.ctx h .quality .floor (.word detail)
          = (l', if l.state = .held then s.bay.queue else s.bay.queue.filter (· ≠ h)) := by
        unfold Bay.raisedLot
        dsimp only
        rw [show raiseIn (s.bay.lot h).holds (raisedEntry s.ctx (s.bay.lot h) .quality .floor (.word detail)) = holds from hkinds]
        by_cases hheld : l.state = .held
        · have hl' : l' = { l with holds := holds, stamp := if holds = l.holds then l.stamp else l.stamp + 1 } := if_pos hheld
          rw [hl', if_pos hheld, if_pos (show (s.bay.lot h).state = .held from hheld)]
        · have hl' : l' = l.heldWith holds := if_neg hheld
          rw [hl', if_neg hheld, if_neg (show ¬(s.bay.lot h).state = .held from hheld)]
      have hanswer := holdSet_running (tag := tag) (detail := detail) hs hh rfl hold hrun
      rw [hraised] at hanswer
      exact hanswer
  · intro tag handle detail c a s hs hh h l r hst hh0 ha hal ho hq e l' ends
    obtain ⟨lot, step, sid, qty, units, bins, sites, finish, slot⟩ := a
    subst hal
    have hstate : l.state ∈ [.active, .closing, .complete] := by
      rcases hst with hst | ⟨hst, _⟩ <;> rw [hst] <;> decide
    have hpos (hc : l.state = .closing) : 0 < l.remaining + qty := by
      rcases hst with hst | ⟨_, hpos⟩
      · rw [hst] at hc
        cases hc
      · exact hpos
    have hl' : s.bay.raisedReturn s.ctx ⟨h, step, sid, qty, units, bins, sites, finish, slot⟩ .quality .floor (.word detail) = l' := by
      have hkinds : raiseIn (s.bay.lot h).holds (raisedEntry s.ctx (s.bay.lot h) .quality .floor (.word detail)) = [e] := by
        rw [show (s.bay.lot h).holds = [] from hh0]
        rfl
      unfold Bay.raisedReturn
      rw [LotRec.heldWith_returned (hst.imp_right And.left)]
      exact congrArg (fun holds => { l.heldWith holds with
        saved := some .active, remaining := l.remaining + qty, openSublots := l.openSublots - 1 }) hkinds
    have hanswer := holdSet_unstarted (tag := tag) (detail := detail) hs hh rfl hstate ha ho hq hpos
    rw [hl'] at hanswer
    exact ⟨fun hst => hanswer _ (.inl ⟨hst, rfl⟩), fun hst => hanswer _ (.inr ⟨hst, rfl⟩)⟩

end Sys2Proof.Machine

/-!
PROOF. LOT.ABORT (section 1.7): on a lot whose cells are all RUNNING, and on one whose one cell is OFFERED or LOADING.
-/

namespace Sys2Proof.Machine

/-- R21: the record of a lot whose abort has begun. -/
def LotRec.abortBegun (l : LotRec) : LotRec :=
  { l with
    state := .aborting, saved := none, holds := [], completedAt := none, quarantine := none, quarantineSpent := false
    ageDeadline := none, stamp := l.stamp + 1 }

/-- R21: the bay of a lot whose abort has begun. -/
def Bay.abortBegun (b : Bay) (h : LotNo) : Bay := (b.modLot h LotRec.toAborting).leaveQueue h

theorem Bay.abortLot_begun (x : Ctx) (b : Bay) (h : LotNo) :
    b.abortLot x h = ((allCells.foldl (Bay.abortCell x h) (b.abortBegun h, [])).1.abortDone h).matchCells x
      (allCells.foldl (Bay.abortCell x h) (b.abortBegun h, [])).2.reverse := Bay.abortLot_eq x b h

/-- R21: a lot of which every sublot has ended, or else one, has been ABORTED. -/
def LotRec.abortEnded (l : LotRec) : LotRec := { l with state := if l.openSublots = 0 then .aborted else l.state }

theorem LotState.abortable_iff {st : LotState} : st.abortable = true ↔ st ∈ [.active, .held, .closing, .complete] := by
  cases st <;> decide

theorem Bay.bare_abortBegun {b : Bay} {h : LotNo} (hl : (b.lot h).state.abortable = true) (hs : h ∉ b.stamped) :
    (b.abortBegun h).bare = (b.bare.withQueue (b.queue.filter (· ≠ h))).setLot h (b.lot h).abortBegun
      ∧ h ∈ (b.abortBegun h).stamped ∧ .lotState h ∈ (b.abortBegun h).notices := by
  have hne : (b.lot h).toAborting.followed ≠ (b.lot h).followed := by
    intro he
    have hst : LotState.aborting = (b.lot h).state := congrArg Prod.fst he
    rw [← hst] at hl
    cases hl
  have hb := Bay.bare_modLot_first (f := LotRec.toAborting) hne hs
  unfold Bay.abortBegun
  rw [Bay.stamped_leaveQueue]
  refine ⟨?_, Bay.stamped_modLot_first hne, (Bay.Grows.leaveQueue ..).1 _ (Bay.owed_modLot_first hne hs)⟩
  rw [Bay.bare_leaveQueue, Bay.queue_modLot, hb, Bay.lot_of_bare hb, Bay.lot_setLot_self, Bay.withQueue_setLot, Bay.setLot_setLot]
  rfl

/-- R21: the end of an abort in the event that began it. -/
theorem Bay.bare_abortDone {b : Bay} {h : LotNo} (hs : h ∈ b.stamped) :
    (b.abortDone h).bare
      = b.bare.setLot h (b.lot h).abortEnded := by
  unfold Bay.abortDone LotRec.abortEnded
  split
  · rw [Bay.modLot_again hs]
    rfl
  · exact (Bay.setLot_self b.bare h).symm

theorem Bay.Grows.abortDone (b : Bay) (h : LotNo) : b.Grows (b.abortDone h) := by
  unfold Bay.abortDone
  split
  · exact .modLot ..
  · exact .refl _

/-! ### All cells RUNNING -/

theorem Bay.withCells_setLot (b : Bay) (v : Vector CellRec 32) (h : LotNo) (l : LotRec) :
    (b.withCells v).setLot h l = (b.setLot h l).withCells v := rfl

theorem Bay.lot_withCells (b : Bay) (v : Vector CellRec 32) (h : LotNo) : (b.withCells v).lot h = b.lot h := rfl

/-- R21: the record of a RUNNING cell of a lot that is aborted. -/
def CellRec.finishedFor (h : LotNo) (r : CellRec) : CellRec := if r.assignment.any (·.lot = h) = true then r.finished else r

/-- What an abort does to a RUNNING cell. -/
def Bay.finishCell (h : LotNo) (b : Bay) (c : CellNo) : Bay := b.setCell c ((b.cell c).finishedFor h)

theorem Bay.abortCell_running {x : Ctx} {h : LotNo} {b : Bay} {fr : List CellNo} {c : CellNo}
    (hr : (b.cell c).Named h → (b.cell c).state = .running) : Bay.abortCell x h (b, fr) c = (b.finishCell h c, fr) := by
  unfold Bay.abortCell Bay.finishCell CellRec.finishedFor
  dsimp only
  split
  · next hn =>
    rw [hr hn, Bay.finishDue_eq]
  · rw [Bay.setCell_self]

/-- R21: an abort of a lot whose cells are all RUNNING. -/
theorem Bay.bare_abortLot_running {x : Ctx} {b : Bay} {h : LotNo} (hl : (b.lot h).state.abortable = true) (hs : h ∉ b.stamped)
    (hrun : ∀ c, (b.cell c).Named h → (b.cell c).state = .running) :
    (b.abortLot x h).bare
        = ((b.bare.withQueue (b.queue.filter (· ≠ h))).setLot h (b.lot h).abortBegun.abortEnded).withCells
          (b.cells.map (·.finishedFor h))
      ∧ .lotState h ∈ (b.abortLot x h).notices := by
  obtain ⟨hbegun, hstamp, hn⟩ := Bay.bare_abortBegun hl hs
  rw [Bay.abortLot_begun]
  generalize b.abortBegun h = b' at hbegun hstamp hn
  have hcells : b'.cells = b.cells := (Bay.cells_of_bare hbegun :)
  have hrun' (c : CellNo) : (b'.cell c).Named h → (b'.cell c).state = .running := by
    simp only [Bay.cell, hcells]
    exact hrun c
  rw [foldl_gathers_none (f := Bay.finishCell h) (P := fun r => r.Named h → r.state = .running)
    (fun _ _ _ hp => Bay.abortCell_running hp) (fun _ _ _ hne _ => Bay.cell_setCell_ne _ _ hne) allCells b' []
    (List.nodup_finRange 32) fun c _ => hrun' c]
  obtain ⟨hbare, hst⟩ := Bay.bare_foldl_allCells (f := Bay.finishCell h) (g := fun _ r => r.finishedFor h) (P := fun _ => True)
    (b := b') (fun b c _ => ⟨rfl, rfl⟩) fun _ => trivial
  have hgrows := Bay.Grows.foldl (f := Bay.finishCell h) (fun b c => .setCell b c _) allCells b'
  generalize allCells.foldl (Bay.finishCell h) b' = d at hbare hst hgrows
  dsimp only
  rw [List.reverse_nil, Bay.matchCells_nil]
  have hlot : d.lot h = (b.lot h).abortBegun := by
    rw [Bay.lot_of_bare hbare, Bay.lot_withCells, Bay.lot_bare, Bay.lot_of_bare hbegun, Bay.lot_setLot_self]
  have hmap : (Vector.ofFn fun c : CellNo => (b'.cell c).finishedFor h) = b.cells.map (·.finishedFor h) := by
    refine Vector.ext fun i hi => ?_
    rw [Vector.getElem_ofFn, Vector.getElem_map]
    exact congrArg (fun v : Vector CellRec 32 => v[i].finishedFor h) hcells
  refine ⟨?_, (Bay.Grows.abortDone ..).1 _ (hgrows.1 _ hn)⟩
  rw [Bay.bare_abortDone (by rw [hst]; exact hstamp), hlot, hbare, hmap, hbegun, Bay.withCells_setLot, Bay.setLot_setLot]

/-! ### One cell, OFFERED or LOADING -/

theorem Bay.givesBack_aborting {x : Ctx} {b : Bay} {a : Assignment} (hl : (b.lot a.lot).state = .aborting) (hs : a.lot ∈ b.stamped)
    (ho : (b.lot a.lot).openSublots = 1) : b.GivesBack x a ((b.lot a.lot).oneClosed.given a.qty).toAborted := fun b' hl' hs' => by
  have hself : (b'.setLot a.lot ((b'.lot a.lot).given a.qty)).lot a.lot = (b'.lot a.lot).given a.qty := Bay.lot_setLot_self ..
  have hst : ((b'.lot a.lot).given a.qty).state = .aborting := by rw [hl']; exact hl
  have hop : ((b'.lot a.lot).given a.qty).openSublots = 0 := by
    rw [hl']
    show (b.lot a.lot).openSublots - 1 = 0
    omega
  have hs'' : a.lot ∈ (b'.setLot a.lot ((b'.lot a.lot).given a.qty)).stamped := by
    show a.lot ∈ b'.stamped
    rw [hs']
    exact hs
  rw [Bay.giveBack_eq, Bay.modLot_same rfl]
  unfold Bay.afterGiven
  rw [hself, hst]
  dsimp only
  rw [if_pos hop, Bay.modLot_again hs'', hself, Bay.setLot_setLot, hl']
  rfl

theorem LotRec.abortEnded_aborted {l : LotRec} (hl : l.state = .aborted) : l.abortEnded = l := by
  unfold LotRec.abortEnded
  rw [hl, ite_self, ← hl]

/-- R21: an abort of a lot, at its one cell. -/
theorem Bay.abortLot_at_one {x : Ctx} {b b1 : Bay} {h : LotNo} {c : CellNo} {fr : List CellNo} (ho : (b.abortBegun h).Only h c)
    (hcell : Bay.abortCell x h (b.abortBegun h, []) c = (b1, fr)) (ho' : b1.Only h c) :
    b.abortLot x h = (b1.abortDone h).matchCells x fr.reverse := by
  rw [Bay.abortLot_begun]
  generalize b.abortBegun h = b' at ho hcell
  rw [foldl_at_one (P := fun r => r.Named h) (c := c) (fun acc c' hn => ?_) (fun c' hne hn => hne (ho c' hn))
    (fun c' hne hn => ?_), hcell]
  · unfold Bay.abortCell
    dsimp only
    exact if_neg hn
  · rw [hcell] at hn
    exact hne (ho' c' hn)

/-- R21: the record of a lot aborted at once, a quantity having returned to it. -/
def LotRec.abortedWith (l : LotRec) (amount : Nat) : LotRec := (l.abortBegun.oneClosed.given amount).toAborted

theorem Bay.bare_abort_one_unstarted {x : Ctx} {b : Bay} {c : CellNo} {a : Assignment} (hl : (b.lot a.lot).state.abortable = true)
    (hop : (b.lot a.lot).openSublots = 1) (hs : b.stamped = []) (ha : (b.cell c).assignment = some a) (ho : b.Only a.lot c)
    (hq : ∀ h ∈ b.queue, h = a.lot) (r' : CellRec)
    (hst : ((b.cell c).state = .offered ∧ r' = (b.cell c).offerGone a .idle)
      ∨ ((b.cell c).state = .loading ∧ r' = { b.cell c with assignment := none })) :
    (b.abortLot x a.lot).bare = ((b.bare.withQueue []).setLot a.lot ((b.lot a.lot).abortedWith a.qty)).setCell c r'
      ∧ .lotState a.lot ∈ (b.abortLot x a.lot).notices ∧ .cellState c ∈ (b.abortLot x a.lot).notices := by
  obtain ⟨hbegun, hstamp, hnlot⟩ := Bay.bare_abortBegun (h := a.lot) hl (by rw [hs]; exact List.not_mem_nil)
  have hqueue : b.queue.filter (· ≠ a.lot) = [] := by
    rw [List.filter_eq_nil_iff]
    simpa using hq
  rw [hqueue] at hbegun
  have habort (b1 : Bay) (fr : List CellNo) := Bay.abortLot_at_one (x := x) (b := b) (b1 := b1) (fr := fr) (h := a.lot) (c := c)
  generalize b.abortBegun a.lot = b' at hbegun hstamp hnlot habort
  have hlot : b'.lot a.lot = (b.lot a.lot).abortBegun := by rw [Bay.lot_of_bare hbegun, Bay.lot_setLot_self]
  have hcell (c' : CellNo) : b'.cell c' = b.cell c' := by rw [Bay.cell_of_bare hbegun]; rfl
  have hasg : (b'.cell c).assignment = some a := by rw [hcell]; exact ha
  have hnamed : Option.any (fun x : Assignment => decide (x.lot = a.lot)) (b'.cell c).assignment = true := by rw [hasg]; simp
  have hgives : b'.GivesBack x a ((b'.lot a.lot).oneClosed.given a.qty).toAborted :=
    Bay.givesBack_aborting (by rw [hlot]; rfl) hstamp (by rw [hlot]; exact hop)
  have honly : b'.Only a.lot c := fun c' hn => ho c' (by rw [← hcell]; exact hn)
  have hdone : ∀ b1 : Bay, b1.bare = (b'.bare.setLot a.lot ((b'.lot a.lot).oneClosed.given a.qty).toAborted).setCell c r' →
      b'.Grows b1 → b1.Only a.lot c ∧ (b1.abortDone a.lot).queue = []
        ∧ (b1.abortDone a.lot).bare = ((b.bare.withQueue []).setLot a.lot ((b.lot a.lot).abortedWith a.qty)).setCell c r'
        ∧ ∀ n ∈ b1.notices, n ∈ (b1.abortDone a.lot).notices := by
    intro b1 hb1 hg
    rw [hbegun, hlot, Bay.setLot_setLot] at hb1
    have hdone := Bay.bare_abortDone (b := b1) (h := a.lot) (hg.2 _ hstamp)
    have hl1 : b1.lot a.lot = (b.lot a.lot).abortedWith a.qty := by
      rw [Bay.lot_of_bare hb1, Bay.lot_setCell, Bay.lot_setLot_self]
      rfl
    have haborted : (b1.lot a.lot).abortEnded = b1.lot a.lot := by
      rw [hl1]
      exact LotRec.abortEnded_aborted rfl
    rw [haborted, show b1.bare.setLot a.lot (b1.lot a.lot) = b1.bare from Bay.setLot_self b1.bare a.lot] at hdone
    refine ⟨fun c' hn => ?_, (Bay.queue_of_bare (hdone.trans hb1) :), hdone.trans hb1, (Bay.Grows.abortDone ..).1⟩
    by_contra hcc
    rw [Bay.cell_of_bare hb1, Bay.cell_setCell_ne _ _ (Ne.symm hcc)] at hn
    exact hcc (ho c' hn)
  rcases hst with ⟨hst, hr'⟩ | ⟨hst, hr'⟩
  · have hstep : Bay.abortCell x a.lot (b', []) c = (b'.withdrawOffer x c .idle, [c]) := by
      unfold Bay.abortCell
      dsimp only
      rw [if_pos hnamed, hcell, hst]
    have hwith := Bay.bare_withdrawOffer_of (x := x) (after := .idle) hasg hgives
    rw [hcell, ← hr'] at hwith
    obtain ⟨ho1, hq1, hb1, hn1⟩ := hdone _ hwith (.withdrawOffer ..)
    rw [habort _ _ honly hstep ho1, Bay.matchCells_empty hq1]
    exact ⟨hb1, hn1 _ ((Bay.Grows.withdrawOffer ..).1 _ hnlot), hn1 _ (Bay.owed_withdrawOffer (by rw [hcell, hst]; decide))⟩
  · have hstep : Bay.abortCell x a.lot (b', []) c = (b'.returnSublot x c, []) := by
      unfold Bay.abortCell
      dsimp only
      rw [if_pos hnamed, hcell, hst]
    have hret := Bay.bare_returnSublot_of (x := x) hasg hgives
    rw [hcell, ← hr'] at hret
    obtain ⟨ho1, hq1, hb1, hn1⟩ := hdone _ hret (.returnSublot ..)
    rw [habort _ _ honly hstep ho1, Bay.matchCells_empty hq1]
    exact ⟨hb1, hn1 _ ((Bay.Grows.returnSublot ..).1 _ hnlot), hn1 _ (Bay.owed_returnSublot hasg)⟩

/-! ### LOT.ABORT -/

theorem Bay.abort_refused {x : Ctx} {b : Bay} {h : LotNo} (hd : (b.lot h).state ≠ .defined)
    (hl : ¬(b.lot h).state.abortable = true) : b.abort x h = (b, b.briefReply h .state) := by
  unfold Bay.abort
  dsimp only
  rw [if_neg hd, if_neg hl]

theorem Bay.abort_defined {x : Ctx} {b : Bay} {h : LotNo} (hd : (b.lot h).state = .defined) :
    b.abort x h = (b.modLot h LotRec.toAborted, (b.modLot h LotRec.toAborted).briefReply h .done) := by
  unfold Bay.abort
  dsimp only
  rw [if_pos hd]
  rfl

theorem Bay.abort_taken {x : Ctx} {b : Bay} {h : LotNo} (hl : (b.lot h).state.abortable = true) :
    b.abort x h = (b.abortLot x h, (b.abortLot x h).briefReply h .done) := by
  unfold Bay.abort
  dsimp only
  rw [if_neg (fun hd => by rw [hd] at hl; cases hl), if_pos hl]

/-- Settles O17: refused by state; DEFINED; all cells RUNNING; one cell OFFERED or LOADING. -/
theorem lotAbort : Obligations.LotAbort := by
  refine ⟨?_, ?_⟩
  · intro tag handle s hs hh h l i
    refine ⟨fun hst => ?_, fun hst => ?_, fun hst hrun => ?_⟩
    · have hno : (s.newEvent.bay.lot h).state ≠ .defined ∧ ¬(s.newEvent.bay.lot h).state.abortable = true := by
        rw [LotState.abortable_iff]
        replace hst : (s.newEvent.bay.lot h).state ∈ _ := hst
        simp only [List.mem_cons, List.not_mem_nil, or_false] at hst ⊢
        rcases hst with hst | hst | hst | hst <;> rw [hst] <;> decide
      exact answers_of_lotEffect (f := Bay.abort) rfl hs rfl hh rfl (Bay.abort_refused hno.1 hno.2) rfl rfl (by simp)
    · intro l'
      have hne : (s.newEvent.bay.lot h).toAborted.followed ≠ (s.newEvent.bay.lot h).followed := by
        intro he
        have hab : LotState.aborted = (s.newEvent.bay.lot h).state := congrArg Prod.fst he
        rw [show (s.newEvent.bay.lot h).state = .defined from hst] at hab
        cases hab
      have hb : (s.newEvent.bay.modLot h LotRec.toAborted).bare = s.newEvent.bay.bare.setLot h l' :=
        Bay.bare_modLot_first hne List.not_mem_nil
      refine answers_of_lotEffect (f := Bay.abort) rfl hs rfl hh rfl ((Bay.abort_defined (b := s.newEvent.bay) hst).trans ?_) hb rfl
        (List.forall_mem_singleton.2 (Bay.owed_modLot_first hne List.not_mem_nil))
      rw [Bay.briefReply_of_bare hb, Bay.lot_setLot_self]
    · intro l'
      have hl : (s.newEvent.bay.lot h).state.abortable = true := LotState.abortable_iff.2 hst
      obtain ⟨hb, hn⟩ := Bay.bare_abortLot_running (x := s.ctx) (b := s.newEvent.bay) hl List.not_mem_nil
        fun c hc => hrun c (CellRec.named_iff.1 hc)
      refine answers_of_lotEffect (f := Bay.abort) rfl hs rfl hh rfl ((Bay.abort_taken (b := s.newEvent.bay) hl).trans ?_) hb rfl
        (List.forall_mem_singleton.2 hn)
      rw [Bay.briefReply_of_bare hb, Bay.lot_withCells, Bay.lot_setLot_self]
      rfl
  · intro tag handle c a s hs hh h l r hst hop ha hal ho hq l' ends
    obtain ⟨lot, step, sid, qty, units, bins, sites, finish, slot⟩ := a
    subst hal
    have hl : (s.newEvent.bay.lot h).state.abortable = true := LotState.abortable_iff.2 (by
      rw [show (s.newEvent.bay.lot h).state = .active from hst]
      decide)
    have hl' : (s.bay.lot h).abortedWith qty = l' := by
      simp only [LotRec.abortedWith, LotRec.abortBegun, LotRec.oneClosed, LotRec.given, LotRec.toAborted,
        show (s.bay.lot h).openSublots = 1 from hop]
      rfl
    have hone := Bay.bare_abort_one_unstarted (x := s.ctx) (b := s.newEvent.bay)
      (a := ⟨h, step, sid, qty, units, bins, sites, finish, slot⟩) hl hop rfl ha (State.only_of ho rfl) hq
    have hend {r' : CellRec} (hst : (r.state = .offered ∧ r' = r.offerGone ⟨h, step, sid, qty, units, bins, sites, finish, slot⟩ .idle)
        ∨ (r.state = .loading ∧ r' = { r with assignment := none })) : ends r' := by
      obtain ⟨hb, hn1, hn2⟩ := hone r' hst
      refine answers_of_lotEffect (f := Bay.abort) rfl hs rfl hh rfl ((Bay.abort_taken (b := s.newEvent.bay) hl).trans ?_) hb
        (congrArg (fun m : LotRec => { (s.records.setLot h m).setCell c r' with queue := [] }) hl') (forall_mem_pair hn1 hn2)
      rw [Bay.briefReply_of_bare hb, Bay.lot_setCell, Bay.lot_setLot_self]
      exact congrArg (fun m : LotRec => (_, ({ status := .done, data := m.answer } : Reply))) hl'
    exact ⟨fun hst => hend (.inl ⟨hst, rfl⟩), fun hst => hend (.inr ⟨hst, rfl⟩)⟩

end Sys2Proof.Machine

/-!
PROOF. The expiries that no load takes part in: of an offer and of a stall watch (R46, R70), of a lot's age (R55) and of its
quarantine (R153).
-/

namespace Sys2Proof.Machine

/-- R195: among the cells the earliest deadline, the lowest cell number among equals. -/
theorem firstDue_cells {s : State} {f : CellRec → Option Nat} {c : CellNo} {d : Nat} (hc : f (s.bay.cell c) = some d)
    (hd : d ≤ s.part.clock) (hfirst : ∀ c' d', f (s.bay.cell c') = some d' → d < d' ∨ (d = d' ∧ c ≤ c')) :
    firstDue s.part.clock (s.newEvent.bay.cellDeadlines f) = some c := firstDue_filterMap hc hd hfirst

/-! ### The offer expiry (R70) -/

/-- R70: the record of a cell at its offer's expiry, before the withdrawal. -/
def CellRec.timedOut (r : CellRec) : CellRec :=
  { r with counters := { r.counters with offerTimeouts := bump16 r.counters.offerTimeouts } }

theorem Bay.offerExpiry_eq (x : Ctx) (b : Bay) (c : CellNo) :
    b.offerExpiry x c = (b.modCell c CellRec.timedOut).withdrawOffer x c .notReady := rfl

theorem offerExpiry_leaves {s : State} {c : CellNo} {d : Nat} {a : Assignment} (hq : s.Quiet) (hd : d ≤ s.part.clock)
    (ho : (s.bay.cell c).offerDeadline = some d)
    (hfirst : ∀ c' d', (s.bay.cell c').offerDeadline = some d' → d < d' ∨ (d = d' ∧ c ≤ c'))
    (ha : (s.bay.cell c).assignment = some a) (hi : s.NoIdle) (hopen : s.KeepsOpen a.lot a.qty) :
    Leaves .offerDeadlineExpiry s ((s.afterReturn a.lot a.qty).setCell c ((s.bay.cell c).timedOut.offerGone a .notReady)) := by
  have hbare : (s.newEvent.bay.modCell c CellRec.timedOut).bare = s.bay.bare.setCell c (s.bay.cell c).timedOut :=
    Bay.bare_modCell ..
  have hcell : (s.newEvent.bay.modCell c CellRec.timedOut).cell c = (s.bay.cell c).timedOut := Bay.cell_modCell_self ..
  have hgone := Bay.bare_withdrawOffer (s := s) (b := s.newEvent.bay.modCell c CellRec.timedOut) (c := c) (a := a)
    (after := .notReady) (by rw [hcell]; exact ha) (Bay.lots_modCell ..) (Bay.queue_modCell ..)
    (by rw [Bay.stamped_modCell]; exact List.not_mem_nil) hopen
    (fun c' hne hidle => by
      rw [Bay.cell_modCell_ne _ _ (Ne.symm hne)] at hidle
      exact absurd hidle (hi c'))
    nofun
  rw [hcell] at hgone
  exact leaves_of_expiry rfl hq (firstDue_cells (f := (·.offerDeadline)) ho hd hfirst) (Bay.offerExpiry_eq ..)
    (records_of_bare hgone (records_returnedBay s _ c _ _ _ (.inr ⟨_, hbare⟩))) (by simp)

/-! ### The stall expiries (R45, R46) -/

/-- R45: the record of a cell at a first stall expiry, the watch not yet armed again. -/
def CellRec.stalledOnce (r : CellRec) : CellRec :=
  { r with stalled := true, stallDeadline := none, counters := { r.counters with stalls := bump16 r.counters.stalls } }

theorem Bay.stallExpiry_first {s : State} {b : Bay} {c : CellNo} (hst : (b.cell c).state = .running) (hs : (b.cell c).stalled = false) :
    (b.stallExpiry s.ctx c).bare = b.bare.setCell c (s.armed c (b.cell c).stalledOnce)
      ∧ .cellState c ∈ (b.stallExpiry s.ctx c).notices := by
  have hcell : ((b.modCell c CellRec.stalledOnce).owe (.cellState c)).cell c = (b.cell c).stalledOnce := by
    rw [Bay.cell, Bay.cells_owe]
    exact Bay.cell_modCell_self ..
  have heq : b.stallExpiry s.ctx c = ((b.modCell c CellRec.stalledOnce).owe (.cellState c)).armStall s.ctx c := by
    unfold Bay.stallExpiry
    rw [if_neg (by rw [hs]; decide)]
    rfl
  rw [heq, Bay.armStall_eq (by rw [hcell]; exact hst), hcell]
  refine ⟨?_, Bay.mem_notices_owe.2 (.inl rfl)⟩
  rw [Bay.bare_setCell, Bay.bare_owe, Bay.bare_modCell, Bay.setCell_setCell]

theorem Bay.stallExpiry_second {x : Ctx} {b : Bay} {c : CellNo} (hs : (b.cell c).stalled = true) :
    (b.stallExpiry x c).bare = b.bare.setCell c { b.cell c with stallFinish := true, stallDeadline := none }.finished := by
  unfold Bay.stallExpiry
  rw [if_pos hs, Bay.finishDue_eq, Bay.cell_modCell_self, Bay.bare_setCell, Bay.bare_modCell, Bay.setCell_setCell]

/-- Settles O47: the offer expiry, and the first and the second stall expiry. -/
theorem offerAndStallExpiries : Obligations.OfferAndStallExpiries := by
  intro c d s hq hd r
  refine ⟨?_, ?_⟩
  · intro ho hfirst a ha hi hopen late
    exact offerExpiry_leaves hq hd ho hfirst ha hi hopen
  · intro hdue hst hfirst
    have hnext := firstDue_cells (f := (·.stallDeadline)) hdue hd hfirst
    refine ⟨?_, ?_⟩
    · intro hs r'
      obtain ⟨hb, hn⟩ := Bay.stallExpiry_first (s := s) (b := s.newEvent.bay) hst hs
      exact leaves_of_expiry rfl hq hnext rfl (records_of_bare hb rfl) (List.forall_mem_singleton.2 hn)
    · intro hs
      exact leaves_of_expiry rfl hq hnext rfl (records_of_bare (Bay.stallExpiry_second (b := s.newEvent.bay) hs) rfl) (by simp)

/-! ### The age and the quarantine expiry (R55, R153) -/

/-- Settles O48: the age expiry promotes; the quarantine expiry releases, or reports a lot that carries nothing. -/
theorem ageAndQuarantineExpiries : Obligations.AgeAndQuarantineExpiries := by
  intro h d s hq hd l
  refine ⟨?_, ?_⟩
  · intro hdue hfirst hcls hmem hi l'
    obtain ⟨hb, hn⟩ := Bay.bare_promote (s := s) (b := s.newEvent.bay) rfl rfl hcls fun _ => hi
    rw [if_pos hmem] at hb
    exact leaves_of_expiry rfl hq (firstDue_filterMap (f := fun h => (s.bay.lot h).ageDeadline) hdue hd hfirst) rfl
      (records_of_bare hb rfl) (List.forall_mem_singleton.2 hn)
  · intro hdue hst hspent hfirst
    have hnext : firstDue s.part.clock s.newEvent.bay.quarantineDeadlines = some h := by
      rw [Bay.quarantineDeadlines_eq]
      refine firstDue_filterMap (LotRec.quarantineDue_eq_some.2 ⟨hst, hspent, hdue⟩) hd fun h' d' hd' => ?_
      obtain ⟨hstate, hunspent, hquarantine⟩ := LotRec.quarantineDue_eq_some.1 hd'
      exact hfirst h' d' hstate hunspent hquarantine
    refine ⟨fun hc => ?_, fun hc => ?_⟩
    · have htake : s.newEvent.bay.quarantineExpiry s.ctx h = (s.newEvent.bay.releaseLot s.ctx h).owe (.release h) := if_pos hc
      refine leaves_of_expiry rfl hq hnext htake ((records_of_bare (Bay.bare_owe ..) rfl :).trans (records_releaseLot hst))
        (forall_mem_pair ?_ (Bay.mem_notices_owe.2 (.inl rfl)))
      exact Bay.mem_notices_owe.2 (.inr ((Bay.mem_notices_releaseLot (b := s.newEvent.bay) hst rfl).2 (.inl rfl)))
    · have htake : s.newEvent.bay.quarantineExpiry s.ctx h
          = (s.newEvent.bay.modLot h fun l => { l with quarantineSpent := true }).owe (.lotState h) := if_neg (by
        show ¬0 < l.carried
        omega)
      rw [Bay.modLot_same rfl] at htake
      exact leaves_of_expiry rfl hq hnext htake (records_of_bare (Bay.bare_owe ..) rfl)
        (List.forall_mem_singleton.2 (Bay.mem_notices_owe.2 (.inl rfl)))

end Sys2Proof.Machine

/-!
PROOF. HOLD.RELEASE of the last entry (section 6.5): the saved state is restored.
-/

namespace Sys2Proof.Machine

/-! ### RESUME (R137) -/

/-- R137, item 1: a cell of a restored lot. -/
def State.resumedCell (s : State) (h : LotNo) (c : CellNo) (r : CellRec) : CellRec :=
  match r.assignment with
  | none => r
  | some a =>
    if a.lot = h ∧ r.state = .running ∧ r.pause ≠ .none then
      s.armed c { r with commands := placeResume r.commands a.id h, pause := .none }
    else r

theorem State.bare_resumeCell (s : State) (h : LotNo) (b : Bay) (c : CellNo) :
    (b.resumeCell s.ctx h c).bare = b.bare.setCell c (s.resumedCell h c (b.cell c))
      ∧ (b.resumeCell s.ctx h c).stamped = b.stamped := by
  have hself : b.bare = b.bare.setCell c (b.cell c) := (Bay.setCell_self b.bare c).symm
  unfold Bay.resumeCell State.resumedCell
  dsimp only
  cases ha : (b.cell c).assignment with
  | none => exact ⟨hself, rfl⟩
  | some a =>
    dsimp only
    by_cases hr : a.lot = h ∧ (b.cell c).state = .running ∧ (b.cell c).pause ≠ .none
    · rw [if_pos hr, if_pos hr, Bay.armStall_eq (by rw [Bay.cell_modCell_self]; exact hr.2.1), Bay.cell_modCell_self, Bay.bare_setCell,
        Bay.bare_modCell, Bay.setCell_setCell, hr.1]
      exact ⟨by rw [ha], Bay.stamped_modCell ..⟩
    · rw [if_neg hr, if_neg hr]
      exact ⟨hself, rfl⟩

/-- The cells of a state, a lot of it being restored. -/
def State.resumedCells (s : State) (h : LotNo) : Vector CellRec 32 := Vector.ofFn fun c => s.resumedCell h c (s.bay.cell c)

theorem State.bare_resumed {s : State} {b : Bay} (h : LotNo) (hc : b.cells = s.bay.cells) :
    (b.resumed s.ctx h).bare = b.bare.withCells (s.resumedCells h) ∧ (b.resumed s.ctx h).stamped = b.stamped := by
  have hfold := Bay.bare_foldl_allCells (f := Bay.resumeCell s.ctx h) (g := s.resumedCell h) (P := fun _ => True) (b := b)
    (fun b c _ => s.bare_resumeCell h b c) fun _ => trivial
  unfold State.resumedCells
  simp only [Bay.cell, hc] at hfold
  exact hfold

theorem State.state_resumedCell (s : State) (h : LotNo) (c : CellNo) (r : CellRec) : (s.resumedCell h c r).state = r.state := by
  unfold State.resumedCell State.armed
  split
  · rfl
  · split <;> rfl

theorem State.NoIdle.noFit_resumed {s : State} (hs : s.NoIdle) {b : Bay} {h : LotNo} (hc : b.cells = s.resumedCells h) (h' : LotNo) :
    b.NoFit s.ctx h' := by
  intro c hi
  rw [Bay.cell, hc, State.resumedCells, Fin.getElem_fin, Vector.getElem_ofFn, State.state_resumedCell] at hi
  exact absurd hi (hs c)

/-! ### The lot (R8) -/

theorem State.toComplete_eq (s : State) (l : LotRec) : LotRec.toComplete s.ctx l = s.completed l := by
  unfold LotRec.toComplete State.completed
  split <;> rfl

/-- R135, R136: the record of a HELD lot whose last entry has been removed, its saved state as it was. -/
def LotRec.emptied (l : LotRec) (mode : Byte) (k : HoldKind) : LotRec :=
  { l with
    holds := l.holds.filter (·.kind ≠ k), stamp := l.stamp + 1, steps := (l.without k (modeOf mode)).steps }

theorem LotRec.restamped_without (l : LotRec) (mode : Byte) (k : HoldKind) :
    (l.without k (modeOf mode)).restamped = l.emptied mode k := by
  unfold LotRec.emptied LotRec.without
  split <;> rfl

theorem LotRec.holds_emptied {l : LotRec} {e : HoldEntry} (hl : l.holds = [e]) (mode : Byte) : (l.emptied mode e.kind).holds = [] := by
  simp [LotRec.emptied, hl]

theorem Bay.Grows.armStall (x : Ctx) (b : Bay) (c : CellNo) : b.Grows (b.armStall x c) := by
  unfold Bay.armStall
  dsimp only
  split
  · exact .refl b
  · split
    · exact .modCell ..
    · exact .refl b

theorem Bay.Grows.resumed (x : Ctx) (b : Bay) (h : LotNo) : b.Grows (b.resumed x h) := by
  refine .foldl (fun b c => ?_) allCells b
  unfold Bay.resumeCell
  dsimp only
  split
  · exact .refl b
  · split
    · exact (Bay.Grows.modCell ..).trans (.armStall ..)
    · exact .refl b

theorem Bay.Grows.restoreLot (x : Ctx) (b : Bay) (h : LotNo) : b.Grows (b.restoreLot x h) := by
  cases hs : (b.lot h).saved with
  | none =>
    unfold Bay.restoreLot
    dsimp only
    rw [hs]
    exact .refl b
  | some v =>
    cases v with
    | active =>
      rw [Bay.restoreLot_active hs]
      split
      · exact ((Bay.Grows.modLot ..).trans (.resumed ..)).trans (.joinQueue ..)
      · exact (Bay.Grows.modLot ..).trans (.resumed ..)
    | closing =>
      rw [Bay.restoreLot_closing hs]
      split
      · exact (Bay.Grows.modLot ..).trans (.resumed ..)
      · exact (Bay.Grows.modLot ..).trans (.advance ..)
    | complete =>
      rw [Bay.restoreLot_complete hs]
      exact (Bay.Grows.modLot ..).trans (.modLot ..)

/-- R8: the release of the last entry of a lot: its record, the restore to come. -/
theorem Bay.releaseHold_last {b : Bay} {h : LotNo} {e : HoldEntry} (x : Ctx) (hs : h ∉ b.stamped) (hl : (b.lot h).holds = [e])
    (mode : Byte) :
    ∃ b' : Bay, b.releaseHold x h e.kind (modeOf mode) = b'.restoreLot x h ∧ b'.bare = b.bare.setLot h ((b.lot h).emptied mode e.kind)
      ∧ h ∈ b'.stamped ∧ .lotState h ∈ b'.notices := by
  have hk : e.kind ∈ (b.lot h).holds.map (·.kind) := by rw [hl]; exact List.mem_singleton_self _
  have hne := LotRec.followed_without_ne hk (modeOf mode)
  have hbare := Bay.bare_modLot_first (f := LotRec.without e.kind (modeOf mode)) hne hs
  rw [LotRec.restamped_without] at hbare
  refine ⟨_, ?_, hbare, Bay.stamped_modLot_first hne, Bay.owed_modLot_first hne hs⟩
  rw [Bay.releaseHold_eq, if_pos]
  rw [Bay.lot_of_bare hbare, Bay.lot_setLot_self]
  exact LotRec.holds_emptied hl mode

/-- The codes of a release of a lot's only entry, by its kind. -/
theorem KnownRelease.of_kind (k : HoldKind) {mode : Byte} (hm : mode.toNat ≤ 1) :
    KnownRelease (BitVec.ofNat 8 k.priority) mode := by
  have hr := k.priority_range
  refine ⟨?_, ?_, hm⟩ <;> rw [BitVec.toNat_ofNat, Nat.mod_eq_of_lt (by omega)] <;> omega

theorem LotRec.names_only {l : LotRec} {e : HoldEntry} (hl : l.holds = [e]) : l.Names (BitVec.ofNat 8 e.kind.priority) e.kind := by
  have hr := e.kind.priority_range
  have hnat : (BitVec.ofNat 8 e.kind.priority).toNat = e.kind.priority := by
    rw [BitVec.toNat_ofNat, Nat.mod_eq_of_lt (by omega)]
  unfold LotRec.Names
  rw [if_neg, hnat, hl]
  · exact ⟨rfl, List.mem_singleton_self _⟩
  · intro h9
    rw [h9] at hnat
    have : (9#8 : Byte).toNat = 9 := rfl
    omega

/-- HOLD.RELEASE of a lot's only entry, from what the restore of its saved state leaves. -/
theorem holdRelease_last {tag handle : Half} {mode : Byte} {s : State} {h : LotNo} {e : HoldEntry} {b' : Bay} {r : Records}
    {l' : LotRec} (ht : s.TakesRequests) (hm : mode.toNat ≤ 1) (hh : handle.toNat < 256) (hd : ⟨handle.toNat, hh⟩ = h)
    (hl : (s.bay.lot h).holds = [e])
    (hrestore : ∀ b : Bay, b.bare = s.bay.bare.setLot h ((s.bay.lot h).emptied mode e.kind) → h ∈ b.stamped →
      .lotState h ∈ b.notices → (b.restoreLot s.ctx h).bare = b')
    (hl' : b'.lot h = l') (hr : ({ s with bay := b' } : State).records = r) :
    Answers (.holdRelease tag handle (BitVec.ofNat 8 e.kind.priority) mode (s.bay.lot h).stamp) s r (some h) 0x21#8 tag
      { status := .done, data := l'.held ++ [e.kind.code, ((s.bay.lot h).modeTaken e.kind (modeOf mode)).code] } [.lotState h] := by
  obtain ⟨b, hb, hbare, hst, hn⟩ := Bay.releaseHold_last (b := s.newEvent.bay) s.ctx List.not_mem_nil hl mode
  have hdone : (s.newEvent.bay.releaseHold s.ctx h e.kind (modeOf mode)).bare = b' := by rw [hb]; exact hrestore b hbare hst hn
  refine answers_of_lotEffect (f := releaseEffect (BitVec.ofNat 8 e.kind.priority) mode (s.bay.lot h).stamp) rfl ht rfl hh hd
    ((releaseEffect_taken (b := s.newEvent.bay) (KnownRelease.of_kind e.kind hm) (LotRec.names_only hl)).trans ?_) hdone hr
    (List.forall_mem_singleton.2 ?_)
  · rw [Bay.lot_of_bare hdone, hl']
    rfl
  · rw [hb]
    exact (Bay.Grows.restoreLot ..).1 _ hn

/-! ### The saved states (R137) -/

theorem Bay.withCells_withQueue (b : Bay) (v : Vector CellRec 32) (q : List LotNo) :
    (b.withCells v).withQueue q = (b.withQueue q).withCells v := rfl

theorem State.bare_restoreLot_complete {s : State} {b : Bay} {h : LotNo} (hst : h ∈ b.stamped) (hs : (b.lot h).saved = some .complete) :
    (b.restoreLot s.ctx h).bare = b.bare.setLot h (s.completed { b.lot h with saved := none }) := by
  rw [Bay.restoreLot_complete hs, Bay.completeLot_eq, Bay.modLot_again hst, Bay.modLot_again (b := b.setLot h _) hst, Bay.lot_setLot_self,
    State.toComplete_eq, Bay.setLot_setLot]
  rfl

theorem State.bare_restoreLot_closing {s : State} {b : Bay} {h : LotNo} (hst : h ∈ b.stamped) (hs : (b.lot h).saved = some .closing)
    (hu : (b.lot h).unevaluated = true) (hc : b.cells = s.bay.cells) :
    (b.restoreLot s.ctx h).bare = (b.bare.setLot h ((b.lot h).restoredTo .closing)).withCells (s.resumedCells h) := by
  rw [Bay.restoreLot_closing hs, if_pos hu, Bay.modLot_again hst, (s.bare_resumed h (by exact hc)).1]
  rfl

theorem State.bare_restoreLot_active {s : State} {b : Bay} {h : LotNo} (hst : h ∈ b.stamped) (hs : (b.lot h).saved = some .active)
    (hr : (b.lot h).remaining = 0) (hc : b.cells = s.bay.cells) :
    (b.restoreLot s.ctx h).bare = (b.bare.setLot h ((b.lot h).restoredTo .active)).withCells (s.resumedCells h) := by
  rw [Bay.restoreLot_active hs, if_neg (by omega), Bay.modLot_again hst, (s.bare_resumed h (by exact hc)).1]
  rfl

theorem State.bare_restoreLot_queued {s : State} {b : Bay} {h : LotNo} (hst : h ∈ b.stamped) (hs : (b.lot h).saved = some .active)
    (hr : 0 < (b.lot h).remaining) (hc : b.cells = s.bay.cells) (hlots : ∀ h', h' ≠ h → b.lot h' = s.bay.lot h') (hi : s.NoIdle) :
    (b.restoreLot s.ctx h).bare
      = ((b.bare.withQueue (s.placed b.queue h ((b.lot h).restoredTo .active))).setLot h
          (s.withAge ((b.lot h).restoredTo .active))).withCells (s.resumedCells h) := by
  rw [Bay.restoreLot_active hs, if_pos hr, Bay.modLot_again hst]
  have hres := (s.bare_resumed (b := b.setLot h ((b.lot h).restoredTo .active)) h hc).1
  generalize (b.setLot h ((b.lot h).restoredTo .active)).resumed s.ctx h = d at hres
  have hlot (h' : LotNo) : d.lot h' = (b.setLot h ((b.lot h).restoredTo .active)).lot h' := by
    rw [Bay.lot_of_bare hres, Bay.lot_withCells, Bay.lot_bare]
  have hself : d.lot h = (b.lot h).restoredTo .active := by rw [hlot, Bay.lot_setLot_self]
  have hdc : d.cells = s.resumedCells h := (Bay.cells_of_bare hres :)
  have hdq : d.queue = b.queue := (Bay.queue_of_bare hres :)
  rw [Bay.bare_joinQueue (fun h' hne => by rw [hlot, Bay.lot_setLot_ne _ _ hne.symm, hlots h' hne]) (hi.noFit_resumed hdc h), hself, hdq,
    hres, Bay.withCells_withQueue, Bay.withCells_setLot, Bay.bare_setLot, Bay.withQueue_setLot, Bay.setLot_setLot]

/-- R136: the waiver set that a release leaves of the open step, by whether its mode is taken as WAIVE. -/
theorem LotRec.steps_without (l : LotRec) (mode : Byte) (k : HoldKind) {w : Bool} (hw : w = true ↔ l.Waives mode k) :
    (l.without k (modeOf mode)).steps
        = (if w = true then l.steps.modify (l.stepIndex.getD 0 - 1) fun r => { r with waivers := r.waivers.with k } else l.steps)
      ∧ (l.modeTaken k (modeOf mode)).code = if w = true then 1#8 else 0#8 := by
  by_cases h : l.Waives mode k
  · rw [LotRec.without_waives h, LotRec.modeTaken_waives h, if_pos (hw.2 h), if_pos (hw.2 h)]
    exact ⟨rfl, rfl⟩
  · rw [LotRec.without_not_waives h, LotRec.modeTaken_not_waives h, if_neg (mt hw.1 h), if_neg (mt hw.1 h)]
    exact ⟨rfl, rfl⟩

/-- R147: a waiver leaves the open step as evaluated as it was. -/
theorem LotRec.unevaluated_emptied (l : LotRec) (mode : Byte) (k : HoldKind) : (l.emptied mode k).unevaluated = l.unevaluated := by
  have hsteps : ∀ m : ReleaseMode, ((l.without k m).steps.getD (l.openIndex - 1) default).closeEvaluated
      = (l.steps.getD (l.openIndex - 1) default).closeEvaluated := by
    intro m
    unfold LotRec.without
    split
    · show ((l.steps.modify (l.openIndex - 1) _).getD (l.openIndex - 1) default).closeEvaluated = _
      simp only [List.getD_eq_getElem?_getD, List.getElem?_modify_eq]
      cases l.steps[l.openIndex - 1]? <;> rfl
    · rfl
  exact congrArg (! ·) (hsteps (modeOf mode))

/-- Settles O21: the three saved states, the mode taken as a waiver only of a waivable kind of a lot not COMPLETE. -/
theorem holdReleaseLastRestores : Obligations.HoldReleaseLastRestores := by
  intro tag handle mode s ht hm hh h l resumed cells e hheld hl waived free restores
  have hcells : s.resumedCells h = cells := rfl
  have hb {b : Bay} (hbare : b.bare = s.bay.bare.setLot h (l.emptied mode e.kind)) : b.lot h = l.emptied mode e.kind
      ∧ b.cells = s.bay.cells ∧ b.queue = s.bay.queue ∧ ∀ h', h' ≠ h → b.lot h' = s.bay.lot h' := by
    refine ⟨by rw [Bay.lot_of_bare hbare, Bay.lot_setLot_self], (Bay.cells_of_bare hbare :), (Bay.queue_of_bare hbare :), fun h' hne => ?_⟩
    rw [Bay.lot_of_bare hbare, Bay.lot_setLot_ne _ _ hne.symm]
    rfl
  have hwaived {v : SavedState} (hv : l.saved = some v) : waived = true ↔ l.Waives mode e.kind := by
    simp only [waived, decide_eq_true_eq, LotRec.Waives, hv, Option.some.injEq, ne_eq]
    cases v <;> simp
  have hfree {v : SavedState} (hv : l.saved = some v) : { l.emptied mode e.kind with saved := none } = free := by
    unfold LotRec.emptied
    rw [(l.steps_without mode e.kind (hwaived hv)).1, hl]
    rw [show [e].filter (fun o => decide (o.kind ≠ e.kind)) = [] by simp]
    rfl
  have hrestores {v : SavedState} (hv : l.saved = some v) {l' : LotRec} {queue : List LotNo} {cells : Vector CellRec 32}
      (h1 : ∀ b : Bay, b.bare = s.bay.bare.setLot h (l.emptied mode e.kind) → h ∈ b.stamped →
        (b.restoreLot s.ctx h).bare = ((s.bay.bare.withQueue queue).setLot h l').withCells cells) : restores l' queue cells := by
    have := holdRelease_last (tag := tag) ht hm hh rfl hl (fun b hbare hst _ => h1 b hbare hst) (l' := l') (by rw [Bay.lot_withCells, Bay.lot_setLot_self]) rfl
    rw [(l.steps_without mode e.kind (hwaived hv)).2] at this
    exact this
  have hopen (hu : (l.stepRec (l.stepIndex.getD 0)).closeEvaluated = false) : l.unevaluated = true := congrArg (! ·) hu
  refine ⟨fun hs => ?_, fun hs hu => ?_, fun hs hr => ?_, ?_⟩
  · refine hrestores hs fun b hbare hst => ?_
    obtain ⟨hlot, hc, hq, _⟩ := hb hbare
    rw [State.bare_restoreLot_complete hst (by rw [hlot]; exact hs), hlot, hbare, Bay.setLot_setLot, hfree hs]
    rfl
  · refine hrestores hs fun b hbare hst => ?_
    obtain ⟨hlot, hc, hq, _⟩ := hb hbare
    rw [State.bare_restoreLot_closing hst (by rw [hlot]; exact hs) (by rw [hlot, LotRec.unevaluated_emptied]; exact hopen hu) hc, hlot, hbare, Bay.setLot_setLot, hcells,
      ← hfree hs]
    rfl
  · refine hrestores hs fun b hbare hst => ?_
    obtain ⟨hlot, hc, hq, _⟩ := hb hbare
    rw [State.bare_restoreLot_active hst (by rw [hlot]; exact hs) (by rw [hlot]; exact hr) hc, hlot, hbare,
      Bay.setLot_setLot, hcells, ← hfree hs]
    rfl
  · intro hs hr hi l'
    refine hrestores hs fun b hbare hst => ?_
    obtain ⟨hlot, hc, hq, ho⟩ := hb hbare
    rw [State.bare_restoreLot_queued hst (by rw [hlot]; exact hs) (by rw [hlot]; exact hr) hc ho hi, hlot, hbare,
      hq, hcells, Bay.withQueue_setLot, Bay.setLot_setLot]
    have hl' : s.withAge ((l.emptied mode e.kind).restoredTo .active) = l' :=
      congrArg (fun m : LotRec => { m with state := .active, ageDeadline := s.ageOf l }) (hfree hs)
    rw [hl', s.placed_congr _ _ (l := (l.emptied mode e.kind).restoredTo .active) (l' := l') rfl rfl]

end Sys2Proof.Machine

/-!
SUPPORT. The changes of one lot in an event (R9), whether or not they advance its stamp, and the flow of its steps in those terms
(R11 to R15, R152).
-/

namespace Sys2Proof.Machine

/-! ### A lot in an event (R9) -/

/-- R9: a lot record with a stamp. -/
def LotRec.withStamp (l : LotRec) (n : Stamp) : LotRec := { l with stamp := n }

/-- R9: within an event that found lot `h` as `l0`, the bay `b` is `base` with `l` for the lot, its stamp advanced once if a followed
field has changed. -/
structure Bay.Follows (b base : Bay) (h : LotNo) (l0 l : LotRec) : Prop where
  bare : b.bare = base.setLot h (l.withStamp (if h ∈ b.stamped then l0.stamp + 1 else l0.stamp))
  kept : h ∉ b.stamped → l.followed = l0.followed
  owed : h ∈ b.stamped → .lotState h ∈ b.notices

namespace Bay.Follows

variable {b base : Bay} {h : LotNo} {l0 l : LotRec}

theorem start {b : Bay} {h : LotNo} (hs : h ∉ b.stamped) : b.Follows b.bare h (b.lot h) (b.lot h) := by
  refine ⟨?_, fun _ => rfl, fun hm => absurd hm hs⟩
  rw [if_neg hs]
  exact (Bay.setLot_self b.bare h).symm

theorem lot (hb : b.Follows base h l0 l) : b.lot h = l.withStamp (if h ∈ b.stamped then l0.stamp + 1 else l0.stamp) := by
  rw [Bay.lot_of_bare hb.bare, Bay.lot_setLot_self]

theorem lot_ne (hb : b.Follows base h l0 l) {h' : LotNo} (hne : h' ≠ h) : b.lot h' = base.lot h' := by
  rw [Bay.lot_of_bare hb.bare, Bay.lot_setLot_ne _ _ hne.symm]

theorem queue (hb : b.Follows base h l0 l) : b.queue = base.queue := (Bay.queue_of_bare hb.bare :)

theorem cells (hb : b.Follows base h l0 l) : b.cells = base.cells := (Bay.cells_of_bare hb.bare :)

theorem modLot (hb : b.Follows base h l0 l) {f : LotRec → LotRec} (hf : ∀ n, f (l.withStamp n) = (f l).withStamp n) :
    (b.modLot h f).Follows base h l0 (f l) := by
  have hfl : f (b.lot h) = (f l).withStamp (if h ∈ b.stamped then l0.stamp + 1 else l0.stamp) := by rw [hb.lot, hf]
  by_cases hs : h ∈ b.stamped
  · have heq : b.modLot h f = b.setLot h (f (b.lot h)) := Bay.modLot_again hs
    rw [heq]
    refine ⟨?_, fun hn => absurd hs hn, fun _ => hb.owed hs⟩
    rw [Bay.bare_setLot, hb.bare, Bay.setLot_setLot, hfl]
    rfl
  · rw [if_neg hs] at hfl
    by_cases hsame : (f (b.lot h)).followed = (b.lot h).followed
    · have heq : b.modLot h f = b.setLot h (f (b.lot h)) := Bay.modLot_same hsame
      rw [heq]
      refine ⟨?_, fun _ => ?_, fun hm => absurd hm hs⟩
      · rw [Bay.bare_setLot, hb.bare, Bay.setLot_setLot, hfl]
        exact congrArg (fun n => base.setLot h ((f l).withStamp n)) (if_neg hs).symm
      · rw [hfl, hb.lot] at hsame
        exact hsame.trans (hb.kept hs)
    · have hst := Bay.stamped_modLot_first (f := f) hsame
      refine ⟨?_, fun hn => absurd hst hn, fun _ => Bay.owed_modLot_first hsame hs⟩
      rw [Bay.bare_modLot_first hsame hs, hb.bare, Bay.setLot_setLot, hfl, if_pos hst]
      rfl

theorem bare_stamped (hb : b.Follows base h l0 l) (hs : h ∈ b.stamped) : b.bare = base.setLot h (l.withStamp (l0.stamp + 1)) := by
  rw [hb.bare, if_pos hs]

/-- A followed field has changed since the event began. -/
theorem stamped_of_ne (hb : b.Follows base h l0 l) (hne : l.followed ≠ l0.followed) : h ∈ b.stamped := by
  by_contra hn
  exact hne (hb.kept hn)

end Bay.Follows

/-! ### The flow of steps -/

/-- R12, items 1 to 4. -/
theorem LotRec.closeStep_eq (l : LotRec) (k : Nat) :
    l.closeStep k = { l with
      carried := if (l.routeStep k).kind = .test then min (l.stepRec k).good (l.stepRec k).input
        else l.carried + min (l.stepRec k).good (l.stepRec k).input
      steps := l.steps.modify (k - 1) fun r =>
        { r with state := .closed, loss := (r.input : Int) - r.tested, waivers := {} } } := by
  unfold LotRec.closeStep
  dsimp only
  split
  · next hk => rw [if_pos (show (l.routeStep k).kind = .test from hk)]; rfl
  · next hk =>
    rw [if_neg fun ht => by rw [show (l.routeStep k).kind = .retest from hk] at ht; cases ht]
    rfl

theorem LotRec.closeStep_withStamp (l : LotRec) (k : Nat) (n : Stamp) : (l.withStamp n).closeStep k = (l.closeStep k).withStamp n := by
  rw [LotRec.closeStep_eq, LotRec.closeStep_eq]
  rfl

theorem State.completed_withStamp (s : State) (l : LotRec) (n : Stamp) :
    s.completed (l.withStamp n) = (s.completed l).withStamp n := rfl

namespace Bay.Follows

variable {s : State} {b base : Bay} {h : LotNo} {l0 l : LotRec}

theorem closeStep (hb : b.Follows base h l0 l) (k : Nat) : (b.modLot h fun l => l.closeStep k).Follows base h l0 (l.closeStep k) :=
  hb.modLot (f := fun l => l.closeStep k) fun n => l.closeStep_withStamp k n

theorem completeLot (hb : b.Follows base h l0 l) : (b.completeLot s.ctx h).Follows base h l0 (s.completed l) := by
  rw [Bay.completeLot_eq, show LotRec.toComplete s.ctx = s.completed from funext s.toComplete_eq]
  exact hb.modLot (s.completed_withStamp l)

theorem opened (hb : b.Follows base h l0 l) (k : Nat) :
    (b.opened s.ctx h k).Follows base h l0 (l.openStep k (s.ctx.stepInput l k) s.part.clock) := by
  have hin : s.ctx.stepInput (b.lot h) k = s.ctx.stepInput l k := by rw [hb.lot]; rfl
  unfold Bay.opened
  rw [hin]
  exact hb.modLot fun n => rfl

theorem closedEmpty (hb : b.Follows base h l0 l) (k : Nat) : (b.modLot h (LotRec.closedEmpty k)).Follows base h l0 (l.closedEmpty k) :=
  hb.modLot fun n => (LotRec.closeStep_withStamp (l.modStep k fun r => { r with closeEvaluated := true }) k n :)

/-- R12: the last step leaves the lot COMPLETE. -/
theorem advance_last (hb : b.Follows base h l0 l) (hlen : l.route.length ≤ l.openIndex) :
    (b.advance s.ctx h).Follows base h l0 (s.completed (l.closeStep l.openIndex)) := by
  have hk : (b.lot h).openIndex = l.openIndex := by rw [hb.lot]; rfl
  have hclosed := hb.closeStep l.openIndex
  unfold Bay.advance
  dsimp only
  rw [hk, if_neg]
  · exact hclosed.completeLot
  · rw [hclosed.lot]
    show ¬l.openIndex < (l.closeStep l.openIndex).route.length
    rw [LotRec.closeStep_eq]
    exact Nat.not_lt.2 hlen

/-- R12: another step follows. -/
theorem advance_next (hb : b.Follows base h l0 l) (hlen : l.openIndex < l.route.length) :
    b.advance s.ctx h = Bay.openStep s.ctx 5 (b.modLot h fun l' => l'.closeStep l.openIndex) h (l.openIndex + 1) := by
  have hk : (b.lot h).openIndex = l.openIndex := by rw [hb.lot]; rfl
  have hclosed := hb.closeStep l.openIndex
  unfold Bay.advance
  dsimp only
  rw [hk, if_pos]
  rw [hclosed.lot]
  show l.openIndex < (l.closeStep l.openIndex).route.length
  rw [LotRec.closeStep_eq]
  exact hlen

/-- R11: a step with an input. -/
theorem openStep_input (hb : b.Follows base h l0 l) {k : Nat} (n : Nat) (hin : 0 < s.ctx.stepInput l k) :
    Bay.openStep s.ctx n b h k = (b.opened s.ctx h k).openActive s.ctx h k := by
  have hin' : s.ctx.stepInput (b.lot h) k = s.ctx.stepInput l k := by rw [hb.lot]; rfl
  rw [Bay.openStep_eq, if_neg (by rw [hin']; omega)]

/-- R15: a last step of input 0. -/
theorem openStep_empty_last (hb : b.Follows base h l0 l) {k : Nat} (n : Nat) (hin : s.ctx.stepInput l k = 0)
    (hlen : l.route.length ≤ k) :
    (Bay.openStep s.ctx n b h k).Follows base h l0 (s.completed ((l.openStep k 0 s.part.clock).closedEmpty k)) := by
  have hin' : s.ctx.stepInput (b.lot h) k = 0 := by rw [hb.lot]; exact hin
  have hopen := hb.opened (s := s) k
  rw [hin] at hopen
  have hempty := hopen.closedEmpty k
  rw [Bay.openStep_eq, if_pos hin']
  unfold Bay.openNext
  rw [if_neg]
  · exact hempty.completeLot
  · rw [hempty.lot]
    show ¬k < ((l.openStep k 0 s.part.clock).closedEmpty k).route.length
    unfold LotRec.closedEmpty
    rw [LotRec.closeStep_eq]
    exact Nat.not_lt.2 hlen

/-- R11, R18: a step that opens with its program in the catalogue, no IDLE cell qualifying for the lot. -/
theorem openActive_queued (hb : b.Follows base h l0 l) {k : Nat} {e : CatalogueEntry}
    (he : s.tables.entryOf (l.routeStep k).program = some e) (hlots : ∀ h', h' ≠ h → base.lot h' = s.bay.lot h')
    (hfit : b.NoFit s.ctx h) :
    (b.openActive s.ctx h k).bare
      = (base.withQueue (s.placed base.queue h l)).setLot h
          ((s.withAge l).withStamp (if h ∈ b.stamped then l0.stamp + 1 else l0.stamp)) := by
  have hprog : ((b.lot h).routeStep k).program = (l.routeStep k).program := by rw [hb.lot]; rfl
  unfold Bay.openActive
  rw [hprog, if_neg (by rw [show s.ctx.tables.entryOf _ = some e from he]; exact Bool.false_ne_true),
    Bay.bare_joinQueue (fun h' hne => by rw [hb.lot_ne hne, hlots h' hne]) hfit, hb.queue, hb.lot, hb.bare, Bay.withQueue_setLot,
    Bay.setLot_setLot]
  exact congrArg₂ (fun q m => (base.withQueue q).setLot h m) (s.placed_congr _ _ rfl rfl) rfl

theorem leaveQueue (hb : b.Follows base h l0 l) :
    (b.leaveQueue h).Follows (base.withQueue (base.queue.filter (· ≠ h))) h l0 { l with ageDeadline := none } := by
  refine ⟨?_, fun hn => ?_, fun hm => ?_⟩
  · rw [Bay.bare_leaveQueue, Bay.stamped_leaveQueue, hb.queue, hb.lot, hb.bare, Bay.withQueue_setLot, Bay.setLot_setLot]
    rfl
  · rw [Bay.stamped_leaveQueue] at hn
    exact (show LotRec.followed { l with ageDeadline := none } = l.followed from rfl).trans (hb.kept hn)
  · rw [Bay.stamped_leaveQueue] at hm
    exact (Bay.Grows.leaveQueue ..).1 _ (hb.owed hm)

/-- R7, R125: a raise on a lot that is not HELD. -/
theorem raiseEntry_first (hb : b.Follows base h l0 l) (hl : l.state ∈ [.active, .closing, .complete]) (kind : HoldKind)
    (origin : HoldOrigin) (detail : HoldDetail) :
    (b.raiseEntry s.ctx h kind origin detail).Follows (base.withQueue (base.queue.filter (· ≠ h))) h l0
      { (l.raised (raisedEntry s.ctx l kind origin detail)).toHeld with ageDeadline := none } := by
  have hst : (b.lot h).state = l.state := by rw [hb.lot]; rfl
  have hentry : raisedEntry s.ctx (b.lot h) kind origin detail = raisedEntry s.ctx l kind origin detail := by rw [hb.lot]; rfl
  have hold : (b.lot h).state.holdable = true := by
    rw [hst]
    refine LotState.holdable_iff.2 ?_
    simp only [List.mem_cons, List.not_mem_nil, or_false] at hl ⊢
    tauto
  have hne : (b.lot h).state ≠ .held := fun he => by rw [← hst, he] at hl; simp at hl
  rw [Bay.raiseEntry_eq, if_pos hold]
  dsimp only
  rw [if_neg hne, hentry]
  exact ((hb.modLot (f := (·.raised (raisedEntry s.ctx l kind origin detail))) fun n => rfl).modLot
    (f := LotRec.toHeld) fun n => rfl).leaveQueue

/-- R123: a raise on a HELD lot. -/
theorem raiseEntry_held (hb : b.Follows base h l0 l) (hl : l.state = .held) (kind : HoldKind) (origin : HoldOrigin)
    (detail : HoldDetail) :
    (b.raiseEntry s.ctx h kind origin detail).Follows base h l0 (l.raised (raisedEntry s.ctx l kind origin detail)) := by
  have hst : (b.lot h).state = .held := by rw [hb.lot]; exact hl
  have hentry : raisedEntry s.ctx (b.lot h) kind origin detail = raisedEntry s.ctx l kind origin detail := by rw [hb.lot]; rfl
  rw [Bay.raiseEntry_held hst, hentry]
  exact hb.modLot fun n => rfl

/-- R11, R125: a step that opens without its program in the catalogue. -/
theorem openActive_held (hb : b.Follows base h l0 l) {k : Nat} (hk : l.openIndex = k) (hl : l.state = .active) (hh : l.holds = [])
    (he : s.tables.entryOf (l.routeStep k).program = none) :
    (b.openActive s.ctx h k).Follows (base.withQueue (base.queue.filter (· ≠ h))) h l0
      (s.programHeld l k (l.routeStep k).program) := by
  have hprog : ((b.lot h).routeStep k).program = (l.routeStep k).program := by rw [hb.lot]; rfl
  have hraise := hb.raiseEntry_first (s := s) (by rw [hl]; decide) .program .program (.program (l.routeStep k).program none)
  have hrec : { (l.raised (raisedEntry s.ctx l .program .program (.program (l.routeStep k).program none))).toHeld with
      ageDeadline := none } = s.programHeld l k (l.routeStep k).program := by
    unfold State.programHeld LotRec.toHeld LotRec.raised raisedEntry
    rw [hh, hk, hl]
    rfl
  rw [hrec] at hraise
  unfold Bay.openActive
  rw [hprog, if_pos (by rw [show s.ctx.tables.entryOf _ = none from he]; rfl)]
  exact hraise

end Bay.Follows

/-! ### The records of steps -/

/-- R12: the closing of a step whose record is known. -/
theorem LotRec.closeStep_eq_set {l : LotRec} {k : Nat} {r : StepRec} (hr : l.steps[k - 1]? = some r) :
    l.closeStep k = (l.advancedFrom k r).withStamp l.stamp := by
  rw [LotRec.closeStep_eq, LotRec.stepRec_eq hr, List.modify_eq_set_of_getElem? hr]
  rfl

/-- R11: the opening of a step whose record is known. -/
theorem LotRec.openStep_eq_set {l : LotRec} {k : Nat} {n : StepRec} (hn : l.steps[k - 1]? = some n) (input clock : Nat) :
    l.openStep k input clock = l.openedAt k input clock n := by
  unfold LotRec.openStep LotRec.openedAt LotRec.modStep
  rw [List.modify_eq_set_of_getElem? hn]

theorem LotRec.getElem?_openedAt {l : LotRec} {k : Nat} {n : StepRec} (hn : l.steps[k - 1]? = some n) (input clock : Nat) :
    (l.openedAt k input clock n).steps[k - 1]? = some { n with state := .opened, input := input } := by
  obtain ⟨hlt, _⟩ := List.getElem?_eq_some_iff.1 hn
  unfold LotRec.openedAt
  simp [hlt]

/-- R15: a step that opens with input 0 and closes. -/
theorem LotRec.closedEmpty_openStep {l : LotRec} {k : Nat} {n : StepRec} (hn : l.steps[k - 1]? = some n) (clock : Nat)
    {input : Nat} (hz : input = 0) :
    (l.openStep k 0 clock).closedEmpty k = { l.openedAt k input clock n with
      carried := if (l.routeStep k).kind = .test then 0 else l.carried
      steps := l.steps.set (k - 1)
        { n with
          state := .closed, input := 0, closeEvaluated := true, loss := (0 : Int) - n.tested, waivers := {} } } := by
  subst hz
  have hopen := LotRec.getElem?_openedAt hn 0 clock
  have hrec : ((l.openedAt k 0 clock n).counted k { n with state := .opened, input := 0, closeEvaluated := true }).steps[k - 1]?
      = some { n with state := .opened, input := 0, closeEvaluated := true } := by
    obtain ⟨hlt, _⟩ := List.getElem?_eq_some_iff.1 hopen
    unfold LotRec.counted
    simp [hlt]
  unfold LotRec.closedEmpty
  rw [LotRec.openStep_eq_set hn, LotRec.modStep_eq hopen, LotRec.closeStep_eq_set hrec]
  unfold LotRec.advancedFrom LotRec.withStamp LotRec.counted LotRec.openedAt
  simp only [List.set_set, Nat.min_zero, Nat.add_zero]
  rfl

/-- R13: the input of a step behind one whose record is known. -/
theorem State.stepInput_eq {s : State} {l : LotRec} {k : Nat} {r : StepRec} {next : RouteStep} (hk : 1 ≤ k)
    (hr : l.steps[k - 1]? = some r) (hnext : l.route[k]? = some next) :
    s.ctx.stepInput l (k + 1) = s.nextInput l k r next := by
  have hroute : l.routeStep (k + 1) = next := by
    unfold LotRec.routeStep
    rw [List.getD_eq_getElem?_getD, Nat.add_sub_cancel, hnext]
    rfl
  unfold Ctx.stepInput State.nextInput
  rw [if_neg (by omega), hroute, Nat.add_sub_cancel, LotRec.stepRec_eq hr]
  split
  · next ht => rw [if_pos ht]
  · next ht =>
    rw [if_neg (by rw [ht]; decide)]
    rfl

end Sys2Proof.Machine

/-!
PROOF. HOLD.RELEASE of the last entry of a lot held at an evaluated close (R137, R151): its step advances.
-/

namespace Sys2Proof.Machine

/-- R136: a waiver of the open step changes its waiver set alone. -/
theorem LotRec.steps_emptied {l : LotRec} {k : Nat} {r : StepRec} (hi : l.stepIndex = some (k + 1)) (hr : l.steps[k]? = some r)
    (mode : Byte) (kind : HoldKind) : ∃ w, (l.emptied mode kind).steps = l.steps.set k { r with waivers := w } := by
  have hk : l.openIndex - 1 = k := by
    unfold LotRec.openIndex
    rw [hi]
    rfl
  unfold LotRec.emptied LotRec.without
  split
  · refine ⟨r.waivers.add kind, ?_⟩
    show l.steps.modify (l.openIndex - 1) _ = _
    rw [hk, List.modify_eq_set_of_getElem? hr]
  · refine ⟨r.waivers, ?_⟩
    obtain ⟨hlt, rfl⟩ := List.getElem?_eq_some_iff.1 hr
    exact (List.set_getElem_self hlt).symm

/-- R12: the record of a lot held at an evaluated close, as its step has advanced. -/
def LotRec.heldAdvanced (l : LotRec) (k : Nat) (r : StepRec) : LotRec :=
  { l.advancedFrom (k + 1) r with holds := [], saved := none, state := .closing }

theorem LotRec.closeStep_emptied {l : LotRec} {e : HoldEntry} {k : Nat} {r : StepRec} (hl : l.holds = [e])
    (hi : l.stepIndex = some (k + 1)) (hr : l.steps[k]? = some r) (mode : Byte) :
    ((l.emptied mode e.kind).restoredTo .closing).closeStep (k + 1) = l.heldAdvanced k r := by
  obtain ⟨w, hw⟩ := LotRec.steps_emptied hi hr mode e.kind
  have hr' : ((l.emptied mode e.kind).restoredTo .closing).steps[k + 1 - 1]? = some { r with waivers := w } := by
    show (l.emptied mode e.kind).steps[k]? = _
    obtain ⟨hlt, _⟩ := List.getElem?_eq_some_iff.1 hr
    rw [hw]
    simp [hlt]
  have hset : (l.emptied mode e.kind).steps.set k { r with state := .closed, loss := (r.input : Int) - r.tested, waivers := {} }
      = l.steps.set k { r with state := .closed, loss := (r.input : Int) - r.tested, waivers := {} } := by
    rw [hw, List.set_set]
  rw [LotRec.closeStep_eq_set hr']
  unfold LotRec.heldAdvanced LotRec.advancedFrom LotRec.withStamp LotRec.restoredTo
  dsimp only
  rw [show k + 1 - 1 = k from rfl, hset, LotRec.holds_emptied hl]
  rfl

theorem LotRec.unevaluated_eq_false {l : LotRec} {k : Nat} {r : StepRec} (hi : l.stepIndex = some (k + 1)) (hr : l.steps[k]? = some r)
    (he : r.closeEvaluated = true) : l.unevaluated = false := by
  have hrec : l.stepRec (k + 1) = r := LotRec.stepRec_eq hr
  unfold LotRec.unevaluated LotRec.openIndex
  rw [hi]
  show (!(l.stepRec (k + 1)).closeEvaluated) = false
  rw [hrec, he]
  rfl

/-- R8: a lot restored at an evaluated close, its advance to come. -/
theorem Bay.restoreLot_evaluated {s : State} {b : Bay} {h : LotNo} {e : HoldEntry} {k : Nat} {r : StepRec} {mode : Byte}
    (hsaved : (s.bay.lot h).saved = some .closing) (hi : (s.bay.lot h).stepIndex = some (k + 1))
    (hr : (s.bay.lot h).steps[k]? = some r) (he : r.closeEvaluated = true)
    (hbare : b.bare = s.bay.bare.setLot h ((s.bay.lot h).emptied mode e.kind)) (hst : h ∈ b.stamped) (hn : .lotState h ∈ b.notices) :
    ∃ b' : Bay, b.restoreLot s.ctx h = b'.advance s.ctx h ∧ h ∈ b'.stamped
      ∧ b'.Follows s.bay.bare h (s.bay.lot h) (((s.bay.lot h).emptied mode e.kind).restoredTo .closing) := by
  have hlot : b.lot h = (s.bay.lot h).emptied mode e.kind := by rw [Bay.lot_of_bare hbare, Bay.lot_setLot_self]
  have hstart : b.Follows s.bay.bare h (s.bay.lot h) ((s.bay.lot h).emptied mode e.kind) :=
    ⟨by rw [if_pos hst, hbare]; rfl, fun hc => absurd hst hc, fun _ => hn⟩
  refine ⟨b.modLot h (LotRec.restoredTo .closing), ?_, (Bay.Grows.modLot ..).2 _ hst, hstart.modLot fun n => rfl⟩
  rw [Bay.restoreLot_closing (by rw [hlot]; exact hsaved), if_neg]
  rw [hlot, LotRec.unevaluated_emptied, LotRec.unevaluated_eq_false hi hr he]
  exact Bool.false_ne_true

/-- Settles O22: the last step, and one that follows, with an input or without. -/
theorem heldCloseAdvances : Obligations.HeldCloseAdvances := by
  intro tag handle mode s ht hm hh h l e k r st hheld hl hsaved hi hr hst he carried advanced complete waived answers
  have hwaived : waived = true ↔ l.Waives mode e.kind := by
    simp only [waived, decide_eq_true_eq, LotRec.Waives, hsaved]
    tauto
  have hclosed : ((l.emptied mode e.kind).restoredTo .closing).closeStep (k + 1) = l.heldAdvanced k r :=
    LotRec.closeStep_emptied hl hi hr mode
  have hopen : ((l.emptied mode e.kind).restoredTo .closing).openIndex = k + 1 := by
    show l.stepIndex.getD 0 = k + 1
    rw [hi]
    rfl
  have hkind : l.routeStep (k + 1) = st := by
    unfold LotRec.routeStep
    rw [List.getD_eq_getElem?_getD, Nat.add_sub_cancel, hst]
    rfl
  have hadvanced : l.heldAdvanced k r = { advanced with state := .closing } := by
    unfold LotRec.heldAdvanced LotRec.advancedFrom
    rw [hkind]
    rfl
  rw [hadvanced] at hclosed
  have hanswers {l' : LotRec} {queue : List LotNo} (h1 : ∀ b : Bay, h ∈ b.stamped →
      b.Follows s.bay.bare h l ((l.emptied mode e.kind).restoredTo .closing) →
      (b.advance s.ctx h).bare = (s.bay.bare.withQueue queue).setLot h l') : answers l' queue := by
    have hanswer := holdRelease_last (tag := tag) ht hm hh rfl hl (l' := l') (r := { s.records.setLot h l' with queue := queue })
      (fun b hbare hs hn => by
        obtain ⟨b', hb', hs', hf⟩ := Bay.restoreLot_evaluated hsaved hi hr he hbare hs hn
        rw [hb']
        exact h1 b' hs' hf) (Bay.lot_setLot_self ..) rfl
    rw [(l.steps_without mode e.kind hwaived).2] at hanswer
    exact hanswer
  refine ⟨fun hlen => hanswers fun b hs hf => ?_, ?_⟩
  · have hlast := hf.advance_last (s := s) (by rw [hopen]; exact Nat.le_of_eq hlen)
    rw [hopen, hclosed] at hlast
    rw [hlast.bare_stamped ((Bay.Grows.advance ..).2 _ hs)]
    rfl
  · intro next n hnext hn p retests input opened
    have hlt : k + 1 < l.route.length := (List.getElem?_eq_some_iff.1 hnext).1
    have hn' : (LotRec.steps { advanced with state := .closing })[k + 2 - 1]? = some n := by
      show (l.steps.set k _)[k + 1]? = some n
      rw [List.getElem?_set_ne (by omega), hn]
    have hinput : s.ctx.stepInput { advanced with state := .closing } (k + 2) = input := by
      have hrec : (LotRec.steps { advanced with state := .closing })[k + 1 - 1]?
          = some { r with state := .closed, loss := (r.input : Int) - r.tested, waivers := {} } := by
        obtain ⟨hlt, _⟩ := List.getElem?_eq_some_iff.1 hr
        show (l.steps.set k _)[k]? = _
        simp [hlt]
      rw [State.stepInput_eq (by omega) hrec hnext]
      unfold State.nextInput
      rw [show s.tables.profiles[(LotRec.routeStep { advanced with state := .closing } (k + 1)).profile] = p from
        congrArg (fun x : RouteStep => s.tables.profiles[x.profile]) hkind]
    have hnextstep (m : LotRec) (hm : m.route = l.route) : m.routeStep (k + 2) = next := by
      unfold LotRec.routeStep
      rw [hm, List.getD_eq_getElem?_getD, show k + 2 - 1 = k + 1 from rfl, hnext]
      rfl
    have hadvance {b : Bay} (hf : b.Follows s.bay.bare h l ((l.emptied mode e.kind).restoredTo .closing)) :
        ∃ b' : Bay, b.Grows b' ∧ b'.Follows s.bay.bare h l { advanced with state := .closing }
          ∧ b.advance s.ctx h = Bay.openStep s.ctx 5 b' h (k + 2) := by
      have hb' := hf.closeStep (k + 1)
      rw [hclosed] at hb'
      have hstep := hf.advance_next (s := s) (by rw [hopen]; exact hlt)
      rw [hopen] at hstep
      exact ⟨_, .modLot .., hb', hstep⟩
    have hopened {b : Bay} (hf : b.Follows s.bay.bare h l { advanced with state := .closing }) :
        (b.opened s.ctx h (k + 2)).Follows s.bay.bare h l opened := by
      have := hf.opened (s := s) (k + 2)
      rw [hinput, LotRec.openStep_eq_set hn'] at this
      exact this
    refine ⟨?_, ?_, ?_⟩
    · rintro hpos ⟨e, hcat⟩ hi l'
      refine hanswers fun b hs hf => ?_
      obtain ⟨b', hg, hb', hstep⟩ := hadvance hf
      have hop := hopened hb'
      have hs' : h ∈ (b'.opened s.ctx h (k + 2)).stamped := (Bay.Grows.modLot ..).2 _ (hg.2 _ hs)
      rw [hstep, hb'.openStep_input 5 (by rw [hinput]; exact hpos),
        hop.openActive_queued (by rw [hnextstep opened rfl]; exact hcat.entryOf) (fun h' _ => rfl) (hi.noFit _ hop.cells h),
        if_pos hs', s.placed_congr _ _ (l := opened) (l' := l') rfl rfl]
      rfl
    · intro hpos hcat
      refine hanswers fun b hs hf => ?_
      obtain ⟨b', hg, hb', hstep⟩ := hadvance hf
      have hop := hopened hb'
      have hheld := hop.openActive_held (s := s) (k := k + 2) rfl rfl rfl
        (by rw [hnextstep opened rfl]; exact Tables.entryOf_eq_none hcat)
      rw [hstep, hb'.openStep_input 5 (by rw [hinput]; exact hpos), hheld.bare_stamped, hnextstep opened rfl]
      · rfl
      · exact (Bay.Grows.openActive ..).2 _ ((Bay.Grows.modLot ..).2 _ (hg.2 _ hs))
    · intro hzero hlen
      refine hanswers fun b hs hf => ?_
      obtain ⟨b', hg, hb', hstep⟩ := hadvance hf
      have hlast := hb'.openStep_empty_last (s := s) (k := k + 2) 5 (by rw [hinput]; exact hzero) (Nat.le_of_eq hlen)
      rw [LotRec.closedEmpty_openStep hn' _ hzero, hnextstep { advanced with state := .closing } rfl] at hlast
      rw [hstep, hlast.bare_stamped ((Bay.Grows.openStep ..).2 _ (hg.2 _ hs))]
      rfl

end Sys2Proof.Machine

/-!
SUPPORT. The dispatch unit in a state (sections 3.3 to 3.6): the draw of an id, the tier of a cell that qualifies, the offer, and a
cut with what it leaves of the bay.
-/

namespace Sys2Proof.Machine

/-! ### The draw of an id (R65) -/

/-- A bay with another next id. -/
def Bay.withNextId (b : Bay) (id : Half) : Bay := { b with nextSublot := id }

theorem Bay.drawId_eq {b : Bay} (h0 : b.nextSublot ≠ 0#16) (hfree : ∀ c a, (b.cell c).assignment = some a → a.id ≠ b.nextSublot) :
    b.drawId.1 = b.nextSublot ∧ b.drawn = b.withNextId (nextId b.nextSublot) := by
  have hheld : b.holdsId b.nextSublot = false := by
    unfold Bay.holdsId
    rw [List.any_eq_false]
    intro c _ hany
    cases ha : (b.cell c).assignment with
    | none =>
      rw [ha] at hany
      cases hany
    | some a =>
      rw [ha] at hany
      exact hfree c a ha (of_decide_eq_true hany)
  have hid : b.freeId 34 b.nextSublot = b.nextSublot := by
    rw [Bay.freeId, if_neg (by rw [hheld]; exact not_or.2 ⟨h0, Bool.false_ne_true⟩)]
  unfold Bay.drawn Bay.drawId
  dsimp only
  rw [hid]
  exact ⟨rfl, rfl⟩

/-! ### Slots and tiers (R58, R59, R77) -/

theorem find?_finRange_eq_some {n : Nat} {p : Fin n → Bool} {k : Fin n} (hk : p k = true) (hfirst : ∀ j, j < k → p j = false) :
    (List.finRange n).find? p = some k := by
  rw [List.find?_eq_some_iff_getElem]
  refine ⟨hk, k.val, by simp, by simp, fun j hj => ?_⟩
  rw [List.getElem_finRange, hfirst _ (by exact hj)]
  rfl

/-- R59: the resident slot of a program that the catalogue holds. -/
theorem Ctx.residentSlot_eq_some {x : Ctx} {r : CellRec} {p : Half} {e : CatalogueEntry} {k : SlotNo} (he : x.tables.entryOf p = some e)
    (hk : r.slots[k].state = .resident ∧ r.slots[k].image = some (p, e.revision))
    (hfirst : ∀ j : SlotNo, j < k → ¬(r.slots[j].state = .resident ∧ r.slots[j].image = some (p, e.revision))) :
    x.residentSlot r p = some k := by
  unfold Ctx.residentSlot
  refine find?_finRange_eq_some ?_ fun j hj => ?_
  · unfold Tables.hit
    rw [he]
    simpa using hk
  · have hj' := hfirst j hj
    unfold Tables.hit
    rw [he]
    simpa using hj'

theorem Ctx.residentSlot_eq_none {x : Ctx} {r : CellRec} {p : Half} {e : CatalogueEntry} (he : x.tables.entryOf p = some e)
    (hno : ∀ j : SlotNo, ¬(r.slots[j].state = .resident ∧ r.slots[j].image = some (p, e.revision))) : x.residentSlot r p = none := by
  unfold Ctx.residentSlot
  rw [List.find?_eq_none]
  intro j _
  have hj := hno j
  unfold Tables.hit
  rw [he]
  simpa using hj

/-- R58: a cell qualifies for the open step of a queued lot, but for the temperature class. -/
structure Bay.Qualifies (x : Ctx) (b : Bay) (h : LotNo) (c : CellNo) : Prop where
  queued : h ∈ b.queue
  idle : (b.cell c).state = .idle
  remote : (b.cell c).localPending = false
  kitted : (b.cell c).kit ≠ 0#8
  kit : (b.cell c).kit = ((b.lot h).routeStep (b.lot h).openIndex).kit
  sites : ((b.lot h).routeStep (b.lot h).openIndex).minSites ≤ (b.cell c).sites.getD 0
  accepted : (b.cell c).excluded ≠ some h
  spread : (b.lot h).openSublots < (x.profile (b.lot h) (b.lot h).openIndex).spread
  program : (x.tables.entryOf ((b.lot h).routeStep (b.lot h).openIndex).program).isSome = true

theorem Bay.Qualifies.tier {x : Ctx} {b : Bay} {h : LotNo} {c : CellNo} (hq : b.Qualifies x h c) :
    b.tier x h c = if (b.cell c).temp = some ((b.lot h).routeStep (b.lot h).openIndex).temp then
      if (x.residentSlot (b.cell c) ((b.lot h).routeStep (b.lot h).openIndex).program).isSome then some 1 else some 2
      else if (b.lot h).cls = .expedited then some 3 else none := by
  obtain ⟨h1, h2, h3, h4, h5, h6, h7, h8, h9⟩ := hq
  exact if_pos ⟨h1, h2, h3, h4, h5, h6, h7, h8, h9⟩

/-! ### The offer (R66) -/

/-- R66: the soak that an offer of a step adds to its time. -/
def Ctx.soak (x : Ctx) (c : CellNo) (temp : Option TempClass) (st : RouteStep) : Nat :=
  if temp = some st.temp then 0 else x.tables.cellConfig[c].soak

/-- R66: the record of a cell whose sublot is offered on a slot. -/
def Ctx.offered (x : Ctx) (r : CellRec) (a : Assignment) (k : SlotNo) (st : RouteStep) (revision : Byte) (soak : Nat) : CellRec :=
  { r with
    state := .offered, assignment := some { a with slot := some k }
    offerDeadline := some (dueAt x.clock ((x.tables.settings.offerTimeout + soak) * 1000))
    commands := r.commands.filter (!·.isOffer) ++
      [.offer { id := a.id, lot := a.lot, step := a.step, qty := a.qty, program := st.program, revision := revision, slot := k
                temp := st.temp }] }

theorem Bay.modCell_congr {b : Bay} {c : CellNo} {f g : CellRec → CellRec} (h : f (b.cell c) = g (b.cell c)) :
    b.modCell c f = b.modCell c g := by
  unfold Bay.modCell
  rw [h]

theorem Bay.makeOffer_eq {x : Ctx} {b : Bay} {c : CellNo} {a : Assignment} {k : SlotNo} {im : Half × Byte}
    (ha : (b.cell c).assignment = some a) (hk : (b.cell c).slots[k].image = some im) :
    b.makeOffer x c k = b.modCell c fun r =>
      x.offered r a k ((b.lot a.lot).routeStep a.step) im.2 (x.soak c r.temp ((b.lot a.lot).routeStep a.step)) := by
  unfold Bay.makeOffer
  rw [ha]
  dsimp only
  rw [hk]
  exact Bay.modCell_congr rfl

/-! ### The cut (R63, R64) -/

/-- R63: a bay whose rotation list has put a cell last, in ROTATING mode. -/
def Bay.rotated (x : Ctx) (b : Bay) (c : CellNo) : Bay :=
  { b with
    rotation := if x.tables.settings.rotationMode = .rotating then b.rotation.filter (· ≠ c) ++ [c] else b.rotation }

theorem Bay.rotate_eq (x : Ctx) (b : Bay) (c : CellNo) : b.rotate x c = b.rotated x c := by
  unfold Bay.rotate Bay.rotated
  split <;> rfl

/-- R64: the record of a lot of which `qty` units have been cut, CLOSING if nothing is left. -/
def LotRec.afterCut (qty : Nat) (l : LotRec) : LotRec :=
  if l.remaining - qty = 0 then { l.lessCut qty with state := .closing, ageDeadline := none } else l.lessCut qty

/-- R64: a lot with nothing left is not queued. -/
def Bay.unqueuedAt (b : Bay) (h : LotNo) (left : Nat) : Bay :=
  b.withQueue (if left = 0 then b.queue.filter (· ≠ h) else b.queue)

/-- R64: the assignment of a sublot of lot `h`, whose record is `l`, cut for cell `c`. -/
def Ctx.assignment (x : Ctx) (h : LotNo) (l : LotRec) (c : CellNo) (id : Half) : Assignment :=
  { lot := h, step := l.openIndex, id := id
    qty := min l.remaining (min x.tables.cellConfig[c].cap (x.profile l l.openIndex).sublotSize) }

/-- R64: the bay of a cut, as its offer or its load is made. -/
def Bay.assigned (x : Ctx) (b : Bay) (h : LotNo) (c : CellNo) : Bay :=
  (b.drawn.modLot h (LotRec.lessCut (b.cutQuantity x h c))).modCell c fun r => { r with assignment := some (b.cutAssignment x h c) }

theorem Bay.Grows.offerOrLoad (x : Ctx) (b : Bay) (c : CellNo) (program : Half) : b.Grows (b.offerOrLoad x c program) := by
  unfold Bay.offerOrLoad
  split
  · exact .makeOffer ..
  · split
    · exact .startLoad ..
    · exact .refl b

theorem Bay.stamped_assigned (x : Ctx) (b : Bay) (h : LotNo) (c : CellNo) : (b.assigned x h c).stamped = b.stamped := by
  unfold Bay.assigned
  rw [Bay.stamped_modCell, Bay.modLot_same rfl]
  rfl

namespace Bay.Follows

variable {x : Ctx} {b base : Bay} {h : LotNo} {l0 l : LotRec}

/-- A change of the bay apart from its lots. -/
theorem mapped {b' : Bay} {F : Bay → Bay} (hb : b.Follows base h l0 l) (hF : ∀ b l, F (b.setLot h l) = (F b).setLot h l)
    (hbare : b'.bare = F b.bare) (hst : b'.stamped = b.stamped) (hn : b.Grows b') : b'.Follows (F base) h l0 l := by
  refine ⟨?_, fun hs => hb.kept (hst ▸ hs), fun hs => hn.1 _ (hb.owed (hst ▸ hs))⟩
  rw [hbare, hb.bare, hF, hst]

theorem assigned (hb : b.Follows base h l0 l) {c : CellNo} {id : Half} (hid : b.drawId.1 = id ∧ b.drawn = b.withNextId (nextId id)) :
    (b.assigned x h c).Follows ((base.withNextId (nextId id)).setCell c ((base.cell c).holding (x.assignment h l c id))) h l0
      (l.lessCut (x.assignment h l c id).qty) := by
  have hqty : b.cutQuantity x h c = (x.assignment h l c id).qty := by
    unfold Bay.cutQuantity
    rw [hb.lot]
    rfl
  have hasg : b.cutAssignment x h c = x.assignment h l c id := by
    unfold Bay.cutAssignment
    rw [hid.1, hqty, hb.lot]
    rfl
  have hdrawn : (b.withNextId (nextId id)).Follows (base.withNextId (nextId id)) h l0 l :=
    hb.mapped (F := fun b => b.withNextId (nextId id)) (fun _ _ => rfl) rfl rfl ⟨fun _ hn => hn, fun _ hl => hl⟩
  have hless := hdrawn.modLot (f := LotRec.lessCut (x.assignment h l c id).qty) fun n => rfl
  have hcell : ((b.withNextId (nextId id)).modLot h (LotRec.lessCut (x.assignment h l c id).qty)).cell c = base.cell c := by
    rw [Bay.cell, hless.cells]
    rfl
  unfold Bay.assigned
  rw [hid.2, hqty, hasg]
  refine hless.mapped (F := fun b => b.setCell c ((base.cell c).holding (x.assignment h l c id))) (fun _ _ => rfl) ?_
    (Bay.stamped_modCell ..) (.modCell ..)
  rw [Bay.bare_modCell, hcell]
  rfl

/-- R63, R64: a cut, from what its offer or its load does to the bay. -/
theorem cut (hb : b.Follows base h l0 l) {c : CellNo} {id : Half} (hid : b.drawId.1 = id ∧ b.drawn = b.withNextId (nextId id))
    {G : Bay → Bay} (hG : ∀ b l, G (b.setLot h l) = (G b).setLot h l)
    (hoffer : ((b.assigned x h c).offerOrLoad x c (l.routeStep l.openIndex).program).bare = G (b.assigned x h c).bare
      ∧ ((b.assigned x h c).offerOrLoad x c (l.routeStep l.openIndex).program).stamped = (b.assigned x h c).stamped) :
    (b.cut x h c).Follows
      (((G ((base.withNextId (nextId id)).setCell c ((base.cell c).holding (x.assignment h l c id)))).rotated x c).unqueuedAt h
        (l.remaining - (x.assignment h l c id).qty)) h l0 (l.afterCut (x.assignment h l c id).qty)
      ∧ (l.remaining - (x.assignment h l c id).qty ≠ 0 → (b.cut x h c).stamped = b.stamped)
      ∧ ((b.assigned x h c).offerOrLoad x c (l.routeStep l.openIndex).program).Grows (b.cut x h c) := by
  obtain ⟨hbare, hst⟩ := hoffer
  have hprog : ((b.lot h).routeStep (b.lot h).openIndex).program = (l.routeStep l.openIndex).program := by rw [hb.lot]; rfl
  have hmade := (hb.assigned (x := x) hid).mapped hG hbare hst (.offerOrLoad ..)
  have hcut : b.cutOpen x h c = ((b.assigned x h c).offerOrLoad x c (l.routeStep l.openIndex).program).rotated x c := by
    rw [← Bay.rotate_eq, ← hprog]
    rfl
  have hopen := hmade.mapped (b' := ((b.assigned x h c).offerOrLoad x c (l.routeStep l.openIndex).program).rotated x c)
    (F := fun b => b.rotated x c) (fun _ _ => rfl) rfl rfl ⟨fun _ hn => hn, fun _ hl => hl⟩
  rw [← hcut] at hopen
  have hleft : ((b.cutOpen x h c).lot h).remaining = l.remaining - (x.assignment h l c id).qty := by
    rw [hopen.lot]
    rfl
  rw [Bay.cut_eq, hleft]
  unfold LotRec.afterCut Bay.unqueuedAt
  have hgrown : ((b.assigned x h c).offerOrLoad x c (l.routeStep l.openIndex).program).Grows (b.cutOpen x h c) := by
    rw [hcut]
    exact ⟨fun _ hn => hn, fun _ hl => hl⟩
  split
  · next hzero =>
    exact ⟨(hopen.modLot (f := LotRec.toClosing) fun n => rfl).leaveQueue, fun hne => absurd hzero hne,
      (hgrown.trans (.modLot ..)).trans (.leaveQueue ..)⟩
  · refine ⟨hopen, fun _ => ?_, hgrown⟩
    rw [hcut]
    exact hst.trans (Bay.stamped_assigned ..)

end Bay.Follows

/-! ### The cut on a resident slot -/

theorem Bay.offerOrLoad_resident {x : Ctx} {b : Bay} {c : CellNo} {program : Half} {k : SlotNo} {a : Assignment} {im : Half × Byte}
    (hk : x.residentSlot (b.cell c) program = some k) (ha : (b.cell c).assignment = some a) (him : (b.cell c).slots[k].image = some im)
    (hst : (b.cell c).state ≠ .offered) :
    (b.offerOrLoad x c program).bare = b.bare.setCell c 
        (x.offered (b.cell c) a k ((b.lot a.lot).routeStep a.step) im.2 (x.soak c (b.cell c).temp ((b.lot a.lot).routeStep a.step)))
      ∧ (b.offerOrLoad x c program).stamped = b.stamped ∧ .cellState c ∈ (b.offerOrLoad x c program).notices := by
  unfold Bay.offerOrLoad
  rw [hk]
  dsimp only
  rw [Bay.makeOffer_eq ha him]
  exact ⟨Bay.bare_modCell .., Bay.stamped_modCell .., Bay.owed_modCell (CellRec.noticed_ne_of_state (fun h => hst h.symm))⟩

end Sys2Proof.Machine

/-!
SUPPORT. Loads that start (R78, R83 to R85, R87): the victim slot, the place of a new load, and what both leave of the bay.
-/

namespace Sys2Proof.Machine

/-! ### The victim slot (R78) -/

/-- One step of the search for the least recently used slot. -/
def olderOf (key : SlotNo → Nat) (best : Option SlotNo) (k : SlotNo) : Option SlotNo :=
  match best with
  | none => some k
  | some j => if key k < key j then some k else some j

theorem foldl_olderOf_keeps {key : SlotNo → Nat} {v : SlotNo} :
    ∀ {l : List SlotNo}, (∀ k ∈ l, key v ≤ key k) → l.foldl (olderOf key) (some v) = some v
  | [], _ => rfl
  | k :: l, h => by
    have hk := h k List.mem_cons_self
    rw [List.foldl_cons, show olderOf key (some v) k = some v from if_neg (by omega)]
    exact foldl_olderOf_keeps fun j hj => h j (List.mem_cons_of_mem _ hj)

theorem foldl_olderOf_later {key : SlotNo → Nat} {v : SlotNo} : ∀ {l : List SlotNo} {best : Option SlotNo},
    (∀ k ∈ l, key v < key k) → (∀ j, best = some j → key v < key j) → ∀ j, l.foldl (olderOf key) best = some j → key v < key j
  | [], _, _, hb, j, hj => hb j hj
  | k :: l, best, h, hb, j, hj => by
    refine foldl_olderOf_later (fun i hi => h i (List.mem_cons_of_mem _ hi)) (fun i hi => ?_) j hj
    have hk := h k List.mem_cons_self
    cases best with
    | none =>
      cases hi
      exact hk
    | some m =>
      unfold olderOf at hi
      dsimp only at hi
      split at hi <;> cases hi
      · exact hk
      · exact hb _ rfl

theorem foldl_olderOf {key : SlotNo → Nat} {v : SlotNo} {l1 l2 : List SlotNo} (h1 : ∀ k ∈ l1, key v < key k)
    (h2 : ∀ k ∈ l2, key v ≤ key k) : (l1 ++ v :: l2).foldl (olderOf key) none = some v := by
  rw [List.foldl_append, List.foldl_cons]
  have hbest := foldl_olderOf_later (best := none) h1 nofun
  generalize l1.foldl (olderOf key) none = best at hbest
  have hv : olderOf key best v = some v := by
    cases best with
    | none => rfl
    | some j => exact if_pos (hbest j rfl)
  rw [hv, foldl_olderOf_keeps h2]

theorem oldestResident_eq {slots : Vector Slot 4} {named : Option SlotNo} {v : SlotNo} (hv : slots[v].state = .resident)
    (hn : named ≠ some v) (hold : ∀ k : SlotNo, slots[k].state = .resident → named ≠ some k →
      slots[v].lastUse < slots[k].lastUse ∨ (slots[v].lastUse = slots[k].lastUse ∧ v ≤ k)) :
    oldestResident slots named = some v := by
  have hfold : oldestResident slots named
      = (allSlots.filter fun k => slots[k].state = .resident && named ≠ some k).foldl (olderOf fun k => slots[k].lastUse) none := rfl
  have hmem : v ∈ allSlots.filter fun k => slots[k].state = .resident && named ≠ some k :=
    List.mem_filter.2 ⟨List.mem_finRange v, Bool.and_eq_true_iff.2 ⟨decide_eq_true hv, decide_eq_true hn⟩⟩
  have hsorted : (allSlots.filter fun k => slots[k].state = .resident && named ≠ some k).Pairwise (· < ·) :=
    (List.pairwise_lt_finRange 4).filter _
  obtain ⟨l1, l2, hl⟩ := List.append_of_mem hmem
  have helig (k : SlotNo) (hk : k ∈ l1 ∨ k ∈ v :: l2) : slots[k].state = .resident ∧ named ≠ some k := by
    have := (List.mem_filter.1 (hl ▸ List.mem_append.2 hk)).2
    simpa using this
  rw [hl] at hsorted
  rw [hfold, hl]
  refine foldl_olderOf (fun k hk => ?_) fun k hk => ?_
  · obtain ⟨hs, hn⟩ := helig k (.inl hk)
    have hlt : k < v := (List.pairwise_append.1 hsorted).2.2 k hk v List.mem_cons_self
    rcases hold k hs hn with h | ⟨_, h⟩
    · exact h
    · exact absurd hlt (not_lt.2 h)
  · obtain ⟨hs, hn⟩ := helig k (.inr (List.mem_cons_of_mem _ hk))
    rcases hold k hs hn with h | ⟨h, _⟩
    · exact h.le
    · exact h.le

/-- R78: the victim turns on the slots alone where no assignment names one. -/
theorem CellRec.Victim.of_unslotted {r r' : CellRec} {program : Half} {revision : Byte} {v : SlotNo}
    (h : r.Victim program revision v) (hs : r'.slots = r.slots) (hr : r.assignment = none)
    (ha : ∀ a, r'.assignment = some a → a.slot = none) : r'.Victim program revision v := by
  have hnamed (k : SlotNo) : ∀ a, r'.assignment = some a → a.slot ≠ some k := fun a h1 h2 => by
    rw [ha a h1] at h2
    cases h2
  unfold CellRec.Victim at h ⊢
  rw [hs]
  refine h.imp id (And.imp id (Or.imp id (And.imp id (Or.imp id ?_))))
  rintro ⟨h1, h2, -, h4⟩
  exact ⟨h1, h2, hnamed v, fun k hk _ => h4 k hk fun a h => by rw [hr] at h; cases h⟩

theorem victimSlot_eq {r : CellRec} {program : Half} {revision : Byte} {v : SlotNo} (h : r.Victim program revision v) :
    victimSlot r program revision = v := by
  have hfind {p : SlotNo → Prop} [DecidablePred p] (hp : p v ∧ ∀ k : SlotNo, k < v → ¬p k) :
      (allSlots.find? fun k => decide (p k)) = some v :=
    find?_finRange_eq_some (decide_eq_true hp.1) fun j hj => decide_eq_false (hp.2 j hj)
  have hnone {p : SlotNo → Prop} [DecidablePred p] (hp : ∀ k : SlotNo, ¬p k) : (allSlots.find? fun k => decide (p k)) = none :=
    List.find?_eq_none.2 fun j _ => by simpa using hp j
  have hholds : (fun k : SlotNo => decide (r.slots[k].state ≠ .empty) && decide (r.slots[k].image = some (program, revision)))
      = fun k : SlotNo => decide (r.slots[k].state ≠ .empty ∧ r.slots[k].image = some (program, revision)) :=
    funext fun k => (Bool.decide_and _ _).symm
  have hspent : (fun k : SlotNo => decide (r.slots[k].state = .stale) || decide (r.slots[k].state = .altered))
      = fun k : SlotNo => decide (r.slots[k].state = .stale ∨ r.slots[k].state = .altered) :=
    funext fun k => (Bool.decide_or _ _).symm
  unfold victimSlot
  dsimp only
  rw [hholds, hspent]
  rcases h with h | ⟨h1, h | ⟨h2, h | ⟨h3, hv, hn, hold⟩⟩⟩
  · rw [hfind h]
    rfl
  · rw [hnone h1, hfind h]
    rfl
  · rw [hnone h1, hnone h2, hfind h]
    rfl
  · have hnamed (k : SlotNo) : (∀ a, r.assignment = some a → a.slot ≠ some k) ↔ r.assignment.bind (·.slot) ≠ some k := by
      cases r.assignment <;> simp
    rw [hnone h1, hnone h2, hnone h3, oldestResident_eq hv ((hnamed v).1 hn) fun k hs hk => hold k hs ((hnamed k).2 hk)]
    rfl

/-! ### The place of a load (R84) -/

/-- A bay with other channels and another wait queue. -/
def Bay.withLoads (b : Bay) (v : Vector Channel 8) (w : List CellNo) : Bay := { b with channels := v, waitQueue := w }

/-- R84: whether a channel may take loads of an image. -/
def Bay.carries (x : Ctx) (b : Bay) (im : Image) (k : ChanNo) : Bool := (x.channel k).enabled && (b.chan k).image = some im

/-- R87: a channel that a load starts. -/
def Ctx.started (x : Ctx) (k : ChanNo) (im : Image) (ts : List Target) (ch : Channel) : Channel :=
  { ch with
    state := .gathering, modeInForce := (x.channel k).mode, image := some im, base := im.segs, current := im.segs
    targets := ts, nextRound := [], segs := [], pull := none, slotHeld := false }

/-- R84: the place of a new load of an image, for slot `v` of cell `c`, with the channels and the wait queue as it leaves them. -/
def Bay.placing (x : Ctx) (b : Bay) (c : CellNo) (im : Image) (v : SlotNo) : LoadPlace × Vector Channel 8 × List CellNo :=
  match allChans.find? fun k =>
    b.carries x im k && (b.chan k).state = .gathering && decide ((b.chan k).targets.length < 8) with
  | some k =>
    (.target, b.channels.set k { b.chan k with targets := (b.chan k).targets ++ [{ cell := c, slot := v }] }, b.waitQueue)
  | none =>
    match allChans.find? fun k =>
      b.carries x im k && (x.channel k).round = .rolling && (b.chan k).state = .pulling
        && decide ((b.chan k).nextRound.length < 8) with
    | some k =>
      (.nextRound, b.channels.set k { b.chan k with nextRound := (b.chan k).nextRound ++ [(c, v)] }, b.waitQueue)
    | none =>
      match allChans.find? fun k => (x.channel k).enabled && (b.chan k).state = .idle with
      | some k => (.target, b.channels.set k (x.started k im [{ cell := c, slot := v }] (b.chan k)), b.waitQueue)
      | none => (.waiting, b.channels, b.waitQueue ++ [c])

/-- R84: a cell whose load has a place. -/
def CellRec.placedAt (r : CellRec) (ld : LoadRec) (p : LoadPlace) : CellRec := { r with load := some { ld with place := p } }

theorem Bay.bare_setPlace {b : Bay} {c : CellNo} {ld : LoadRec} (hl : (b.cell c).load = some ld) (p : LoadPlace) :
    (b.setPlace c p).bare = b.bare.setCell c ((b.cell c).placedAt ld p) ∧ (b.setPlace c p).stamped = b.stamped := by
  unfold Bay.setPlace
  rw [Bay.bare_modCell, hl]
  exact ⟨rfl, Bay.stamped_modCell ..⟩

theorem Bay.bare_placeLoad {x : Ctx} {b : Bay} {c : CellNo} {ld : LoadRec} (hl : (b.cell c).load = some ld) :
    (b.placeLoad x c).bare
        = (b.bare.withLoads (b.placing x c ld.image ld.slot).2.1 (b.placing x c ld.image ld.slot).2.2).setCell c
            ((b.cell c).placedAt ld (b.placing x c ld.image ld.slot).1)
      ∧ (b.placeLoad x c).stamped = b.stamped := by
  unfold Bay.placeLoad Bay.placing Bay.carries
  rw [hl]
  dsimp only
  generalize allChans.find? _ = gathering
  cases gathering with
  | some k => exact Bay.bare_setPlace (b := b.modChan k _) hl _
  | none =>
    dsimp only
    generalize allChans.find? _ = rolling
    cases rolling with
    | some k => exact Bay.bare_setPlace (b := b.modChan k _) hl _
    | none =>
      dsimp only
      generalize allChans.find? _ = idle
      cases idle with
      | some k => exact Bay.bare_setPlace (b := b.modChan k _) hl _
      | none => exact Bay.bare_setPlace (b := { b with waitQueue := b.waitQueue ++ [c] }) hl _

/-- R84: the place of a load, in records. -/
theorem State.loadPlaced_eq (s : State) (c : CellNo) (im : Image) (v : SlotNo) :
    s.loadPlaced c im v = ((s.bay.placing s.ctx c im v).1,
      { s.records with
        channels := (s.bay.placing s.ctx c im v).2.1.map Channel.view, waitQueue := (s.bay.placing s.ctx c im v).2.2 }) := by
  have hset (k : ChanNo) (ch : Channel) :
      s.records.channels.set k ch.view = (s.bay.channels.set k ch).map Channel.view := Vector.map_set.symm
  have hgather : (fun j => s.tables.channels[j].enabled
        && decide ((s.bay.chan j).image = some im ∧ (s.bay.chan j).state = .gathering ∧ (s.bay.chan j).targets.length < 8))
      = fun k => s.bay.carries s.ctx im k && decide ((s.bay.chan k).state = .gathering)
        && decide ((s.bay.chan k).targets.length < 8) := by
    funext k
    simp only [Bay.carries, Bool.decide_and, Bool.and_assoc]
  have hroll : (fun j => s.tables.channels[j].enabled
        && decide (s.tables.channels[j].round = .rolling ∧ (s.bay.chan j).image = some im ∧ (s.bay.chan j).state = .pulling
          ∧ (s.bay.chan j).nextRound.length < 8))
      = fun k => s.bay.carries s.ctx im k && decide ((s.ctx.channel k).round = .rolling)
        && decide ((s.bay.chan k).state = .pulling) && decide ((s.bay.chan k).nextRound.length < 8) := by
    funext k
    simp only [Bay.carries, Bool.decide_and, Bool.and_assoc]
    rw [Bool.and_left_comm (decide ((s.ctx.channel k).round = .rolling))]
  unfold State.loadPlaced Bay.placing
  dsimp only
  rw [hgather, hroll]
  generalize allChans.find? _ = gathering
  cases gathering with
  | some k =>
    exact congrArg (fun v => (LoadPlace.target, ({ s.records with channels := v } : Records)))
      (hset k { s.bay.chan k with targets := (s.bay.chan k).targets ++ [{ cell := c, slot := v }] })
  | none =>
    dsimp only
    generalize allChans.find? _ = rolling
    cases rolling with
    | some k =>
      exact congrArg (fun v => (LoadPlace.nextRound, ({ s.records with channels := v } : Records)))
        (hset k { s.bay.chan k with nextRound := (s.bay.chan k).nextRound ++ [(c, v)] })
    | none =>
      dsimp only
      have hidle : (fun j => s.tables.channels[j].enabled && decide ((s.bay.chan j).state = .idle))
          = fun k => (s.ctx.channel k).enabled && decide ((s.bay.chan k).state = .idle) := rfl
      rw [hidle]
      generalize allChans.find? _ = idle
      cases idle with
      | some k =>
        exact congrArg (fun v => (LoadPlace.target, ({ s.records with channels := v } : Records)))
          (hset k (s.ctx.started k im [{ cell := c, slot := v }] (s.bay.chan k)))
      | none => rfl

/-! ### A load that starts (R83, R87) -/

/-- R83: the record of a cell for which a load of an entry's image is started into slot `v`, at a place. -/
def CellRec.loadingAt (r : CellRec) (e : CatalogueEntry) (v : SlotNo) (p : LoadPlace) : CellRec :=
  { r with
    state := .loading, assignment := r.assignment.map fun a => { a with slot := some v }
    slots := r.slots.set v { r.slots[v] with state := .loading, image := some (e.program, e.revision) }
    load := some { image := { program := e.program, revision := e.revision, segs := e.segs }, slot := v, place := p } }

/-- R87: the image of a catalogue entry. -/
def CatalogueEntry.toImage (e : CatalogueEntry) : Image := { program := e.program, revision := e.revision, segs := e.segs }

theorem Bay.startLoad_eq (x : Ctx) (b : Bay) (c : CellNo) (e : CatalogueEntry) :
    b.startLoad x c e
      = (b.modCell c fun r => r.loadingAt e (victimSlot (b.cell c) e.program e.revision) .waiting).placeLoad x c := rfl

theorem Bay.bare_startLoad {x : Ctx} {b : Bay} {c : CellNo} {e : CatalogueEntry} {v : SlotNo}
    (hv : (b.cell c).Victim e.program e.revision v) :
    (b.startLoad x c e).bare
        = (b.bare.withLoads (b.placing x c e.toImage v).2.1 (b.placing x c e.toImage v).2.2).setCell c
            ((b.cell c).loadingAt e v (b.placing x c e.toImage v).1)
      ∧ (b.startLoad x c e).stamped = b.stamped := by
  have heq : b.startLoad x c e = (b.modCell c fun r => r.loadingAt e v .waiting).placeLoad x c := by
    rw [Bay.startLoad_eq, victimSlot_eq hv]
  have hcell : (b.modCell c fun r => r.loadingAt e v .waiting).cell c = (b.cell c).loadingAt e v .waiting := Bay.cell_modCell_self ..
  have hchan (k : ChanNo) : (b.modCell c fun r => r.loadingAt e v .waiting).chan k = b.chan k := by
    simp only [Bay.chan, Bay.channels_modCell]
  have hplace : (b.modCell c fun r => r.loadingAt e v .waiting).placing x c e.toImage v = b.placing x c e.toImage v := by
    simp only [Bay.placing, Bay.carries, hchan, Bay.channels_modCell, Bay.waitQueue_modCell]
  obtain ⟨hb, hst⟩ := Bay.bare_placeLoad (x := x) (b := b.modCell c fun r => r.loadingAt e v .waiting) (c := c) (ld :=
    { image := e.toImage, slot := v, place := .waiting }) (by rw [hcell]; rfl)
  rw [heq]
  refine ⟨?_, hst.trans (Bay.stamped_modCell ..)⟩
  rw [hb, hplace, hcell, Bay.bare_modCell]
  unfold Bay.withLoads Bay.setCell
  simp only [Vector.set_set]
  rfl

theorem Bay.owed_startLoad {x : Ctx} {b : Bay} {c : CellNo} {e : CatalogueEntry} (hs : (b.cell c).state ≠ .loading) :
    .cellState c ∈ (b.startLoad x c e).notices := by
  unfold Bay.startLoad
  exact (Bay.Grows.of_reloads (.placeLoad ..)).1 _ (Bay.owed_modCell (CellRec.noticed_ne_of_state fun h => hs h.symm))

end Sys2Proof.Machine

/-!
PROOF. READY of a cell that qualifies for the head of the dispatch queue (R32, R61): a sublot is cut, and offered or loaded.
-/

namespace Sys2Proof.Machine

/-- R61: the match of a cell that qualifies for the head of the queue. -/
theorem Bay.matchCell_head {x : Ctx} {b : Bay} {h : LotNo} {rest : List LotNo} {c : CellNo} (hq : b.queue = h :: rest)
    (ht : (b.tier x h c).isSome = true) : b.matchCell x c = b.cut x h c := by
  unfold Bay.matchCell
  have hfind : (b.queue.find? fun h => (b.tier x h c).isSome) = some h := by
    rw [hq]
    exact List.find?_cons_of_pos ht
  rw [hfind]

/-- R59: the tiers of a cell of the class of the step, and of an EXPEDITED lot. -/
theorem Bay.Qualifies.tier_isSome {x : Ctx} {b : Bay} {h : LotNo} {c : CellNo} (hq : b.Qualifies x h c)
    (hw : (b.cell c).temp = some ((b.lot h).routeStep (b.lot h).openIndex).temp ∨ (b.lot h).cls = .expedited) :
    (b.tier x h c).isSome = true := by
  rw [hq.tier]
  by_cases ht : (b.cell c).temp = some ((b.lot h).routeStep (b.lot h).openIndex).temp
  · rw [if_pos ht]
    split <;> rfl
  · rw [if_neg ht, if_pos (hw.resolve_left ht)]
    rfl

/-- R32, R58: READY with a temperature class finds a cell that qualifies for the head of the queue. -/
structure State.ReadyFits (s : State) (c : CellNo) (sites temp : Byte) (cls : TempClass) (h : LotNo) (rest : List LotNo)
    (e : CatalogueEntry) : Prop where
  code : tempOf temp = some cls
  warm : cls = ((s.bay.lot h).routeStep (s.bay.lot h).openIndex).temp ∨ (s.bay.lot h).cls = .expedited
  queue : s.bay.queue = h :: rest
  state : (s.bay.cell c).state ∈ [.offline, .notReady, .idle, .localMode]
  remote : (s.bay.cell c).localPending = false
  accepted : (s.bay.cell c).excluded ≠ some h
  kitted : ((s.bay.lot h).routeStep (s.bay.lot h).openIndex).kit ≠ 0#8
  sited : sites ≠ 0#8
  minSites : ((s.bay.lot h).routeStep (s.bay.lot h).openIndex).minSites ≤ min sites.toNat 8
  spread : (s.bay.lot h).openSublots < (s.ctx.profile (s.bay.lot h) (s.bay.lot h).openIndex).spread
  program : s.Catalogued ((s.bay.lot h).routeStep (s.bay.lot h).openIndex).program e
  idSet : s.bay.nextSublot ≠ 0#16
  idFree : ∀ c' a, (s.bay.cell c').assignment = some a → a.id ≠ s.bay.nextSublot

/-- R32: the record of a cell as READY runs its match. -/
def CellRec.readied (kit : Byte) (cls : TempClass) (sites : Byte) (r : CellRec) : CellRec :=
  { r with kit := kit, temp := some cls, sites := some (min sites.toNat 8), state := .idle }

/-- R61: a cell that has been cut a sublot holds its lot excluded no more. -/
def CellRec.accepting (r : CellRec) : CellRec := { r with excluded := none }

theorem LotRec.state_afterCut {l : LotRec} {qty : Nat} (hz : l.remaining - qty = 0) : (l.afterCut qty).state = .closing := by
  unfold LotRec.afterCut
  rw [if_pos hz]

namespace State.ReadyFits

variable {s : State} {c : CellNo} {sites temp : Byte} {cls : TempClass} {h : LotNo} {rest : List LotNo} {e : CatalogueEntry}

/-- The kit of the step that READY finds. -/
def stepOf (s : State) (h : LotNo) : RouteStep := (s.bay.lot h).routeStep (s.bay.lot h).openIndex

theorem readyFrame_eq (hf : s.ReadyFits c sites temp cls h rest e) :
    s.newEvent.bay.readyFrame s.ctx c (stepOf s h).kit temp sites
      = ((s.newEvent.bay.modCell c (CellRec.readied (stepOf s h).kit cls sites)).cut s.ctx h c).modCell c CellRec.accepting := by
  have hready := Bay.readyFrame_idle (x := s.ctx) (b := s.newEvent.bay) (c := c) (kit := (stepOf s h).kit) hf.code hf.sited hf.state
  have hcell : (s.newEvent.bay.modCell c (CellRec.readied (stepOf s h).kit cls sites)).cell c
      = (s.bay.cell c).readied (stepOf s h).kit cls sites := Bay.cell_modCell_self ..
  have hlot : (s.newEvent.bay.modCell c (CellRec.readied (stepOf s h).kit cls sites)).lot h = s.bay.lot h := by
    simp only [Bay.lot, Bay.lots_modCell]
    rfl
  have hqueue : (s.newEvent.bay.modCell c (CellRec.readied (stepOf s h).kit cls sites)).queue = h :: rest := by
    rw [Bay.queue_modCell]
    exact hf.queue
  have hfits : (s.newEvent.bay.modCell c (CellRec.readied (stepOf s h).kit cls sites)).Qualifies s.ctx h c := by
    refine ⟨by rw [hqueue]; exact List.mem_cons_self, ?_, ?_, ?_, ?_, ?_, ?_, ?_, ?_⟩
    all_goals simp only [hcell, hlot]
    exacts [rfl, hf.remote, hf.kitted, rfl, hf.minSites, hf.accepted, hf.spread, by rw [show s.ctx.tables.entryOf _ = _ from hf.program.entryOf]; rfl]
  have htier : ((s.newEvent.bay.modCell c (CellRec.readied (stepOf s h).kit cls sites)).tier s.ctx h c).isSome = true := by
    refine hfits.tier_isSome ?_
    rw [hcell, hlot]
    exact hf.warm.imp (congrArg some) id
  exact hready.trans (congrArg (Bay.modCell · c CellRec.accepting) (Bay.matchCell_head hqueue htier))

/-- R64: the assignment that READY makes. -/
def assignmentOf (s : State) (h : LotNo) (c : CellNo) : Assignment := s.ctx.assignment h (s.bay.lot h) c s.bay.nextSublot

/-- R32, R64: the bay as READY has cut a sublot for its cell, its offer or load to come. -/
def readied (s : State) (c : CellNo) (sites : Byte) (cls : TempClass) (h : LotNo) : Bay :=
  (s.bay.bare.withNextId (nextId s.bay.nextSublot)).setCell c
    (((s.bay.cell c).readied (stepOf s h).kit cls sites).holding (assignmentOf s h c))

/-- R63, R64: a bay after a cut of the lot that the event found as it is in `s`. -/
def finished (s : State) (c : CellNo) (h : LotNo) (b : Bay) : Bay :=
  ((b.rotated s.ctx c).unqueuedAt h ((s.bay.lot h).remaining - (assignmentOf s h c).qty)).setLot h
    (((s.bay.lot h).afterCut (assignmentOf s h c).qty).withStamp
      (if (s.bay.lot h).remaining - (assignmentOf s h c).qty = 0 then (s.bay.lot h).stamp + 1 else (s.bay.lot h).stamp))

/-- R61, R64: READY, from what the offer or the load of its sublot does to the bay. -/
theorem cuts (hf : s.ReadyFits c sites temp cls h rest e) (hactive : (s.bay.lot h).state = .active) {G : Bay → Bay}
    (hG : ∀ b l, G (b.setLot h l) = (G b).setLot h l)
    (hoffer : ∀ b : Bay, b.bare = (readied s c sites cls h).setLot h ((s.bay.lot h).lessCut (assignmentOf s h c).qty) →
      (b.offerOrLoad s.ctx c (stepOf s h).program).bare = G b.bare ∧ (b.offerOrLoad s.ctx c (stepOf s h).program).stamped = b.stamped
        ∧ .cellState c ∈ (b.offerOrLoad s.ctx c (stepOf s h).program).notices)
    {lot : Half} {r : CellRec} {res : Records} (hr : (G (readied s c sites cls h)).cell c = r) (ht : s.TakesFrame c .ready)
    (hres : ({ s with bay := (finished s c h (G (readied s c sites cls h))).setCell c r.accepting } : State).records = res) :
    Takes s c .handler lot (.ready (stepOf s h).kit temp sites) res [.cellState c] := by
  have hstart : (s.newEvent.bay.modCell c (CellRec.readied (stepOf s h).kit cls sites)).Follows
      (s.bay.bare.setCell c ((s.bay.cell c).readied (stepOf s h).kit cls sites)) h (s.bay.lot h) (s.bay.lot h) :=
    (Bay.Follows.start (b := s.newEvent.bay) (h := h) List.not_mem_nil).mapped
      (F := fun b => b.setCell c ((s.bay.cell c).readied (stepOf s h).kit cls sites)) (fun _ _ => rfl) (Bay.bare_modCell ..)
      (Bay.stamped_modCell ..) (.modCell ..)
  have hstamped : (s.newEvent.bay.modCell c (CellRec.readied (stepOf s h).kit cls sites)).stamped = [] := Bay.stamped_modCell ..
  have hdraw : (s.newEvent.bay.modCell c (CellRec.readied (stepOf s h).kit cls sites)).drawId.1 = s.bay.nextSublot
      ∧ (s.newEvent.bay.modCell c (CellRec.readied (stepOf s h).kit cls sites)).drawn
        = (s.newEvent.bay.modCell c (CellRec.readied (stepOf s h).kit cls sites)).withNextId (nextId s.bay.nextSublot) := by
    have hnext : (s.newEvent.bay.modCell c (CellRec.readied (stepOf s h).kit cls sites)).nextSublot = s.bay.nextSublot :=
      Bay.nextSublot_modCell ..
    have := Bay.drawId_eq (b := s.newEvent.bay.modCell c (CellRec.readied (stepOf s h).kit cls sites)) (by rw [hnext]; exact hf.idSet)
      fun c' a ha => by
        rw [hnext]
        refine hf.idFree c' a ?_
        by_cases hc : c = c'
        · subst hc
          rw [Bay.cell_modCell_self] at ha
          exact ha
        · rw [Bay.cell_modCell_ne _ _ hc] at ha
          exact ha
    rwa [hnext] at this
  have hbase : ((s.bay.bare.setCell c ((s.bay.cell c).readied (stepOf s h).kit cls sites)).withNextId (nextId s.bay.nextSublot)).setCell c
      (((s.bay.bare.setCell c ((s.bay.cell c).readied (stepOf s h).kit cls sites)).cell c).holding
        (s.ctx.assignment h (s.bay.lot h) c s.bay.nextSublot)) = readied s c sites cls h := by
    rw [Bay.cell_setCell_self]
    exact Bay.setCell_setCell (s.bay.bare.withNextId (nextId s.bay.nextSublot)) c _ _
  have hassigned := hstart.assigned (x := s.ctx) (c := c) hdraw
  have hst := Bay.stamped_assigned s.ctx (s.newEvent.bay.modCell c (CellRec.readied (stepOf s h).kit cls sites)) h c
  have hoff := hoffer ((s.newEvent.bay.modCell c (CellRec.readied (stepOf s h).kit cls sites)).assigned s.ctx h c) (by
    rw [hassigned.bare, if_neg (by rw [hst, hstamped]; exact List.not_mem_nil)]
    exact congrArg (fun b : Bay => b.setLot h ((s.bay.lot h).lessCut (assignmentOf s h c).qty)) hbase)
  obtain ⟨hcut, hunstamped, hgrows⟩ := hstart.cut hdraw hG ⟨hoff.1, hoff.2.1⟩
  have hstamp : h ∈ ((s.newEvent.bay.modCell c (CellRec.readied (stepOf s h).kit cls sites)).cut s.ctx h c).stamped
      ↔ (s.bay.lot h).remaining - (assignmentOf s h c).qty = 0 := by
    refine ⟨fun hm => ?_, fun hz => hcut.stamped_of_ne fun he => ?_⟩
    · by_contra hne
      rw [hunstamped hne, hstamped] at hm
      cases hm
    · have hstate : ((s.bay.lot h).afterCut (assignmentOf s h c).qty).state = (s.bay.lot h).state := congrArg Prod.fst he
      rw [LotRec.state_afterCut hz, hactive] at hstate
      cases hstate
  have hbare := hcut.bare
  rw [hbase] at hbare
  have hcell : ((s.newEvent.bay.modCell c (CellRec.readied (stepOf s h).kit cls sites)).cut s.ctx h c).cell c = r := by
    rw [Bay.cell, hcut.cells, hbase]
    exact hr
  refine takes_of_effect ht (hf.readyFrame_eq) (records_of_bare ((Bay.bare_modCell ..).trans ?_) hres)
    (List.forall_mem_singleton.2 ((Bay.Grows.modCell ..).1 _ (hgrows.1 _ hoff.2.2)))
  rw [hcell, hbare]
  unfold finished
  simp only [hstamp]
  rfl

/-- R64: the record of the lot that READY finds at the head of the queue. -/
def cutLot (s : State) (h : LotNo) (c : CellNo) : LotRec :=
  let l := s.bay.lot h
  let left := l.remaining - (assignmentOf s h c).qty
  let cut : LotRec := { l with remaining := left, openSublots := l.openSublots + 1 }
  if left = 0 then { cut with state := .closing, ageDeadline := none, stamp := l.stamp + 1 } else cut

/-- R63 to R65: the records after READY has cut a sublot, from those of the cells, the channels and the wait queue. -/
def cutRecords (s : State) (h : LotNo) (rest : List LotNo) (c : CellNo) (res : Records) : Records :=
  { res.setLot h (cutLot s h c) with
    queue := if (s.bay.lot h).remaining - (assignmentOf s h c).qty = 0 then rest.filter (· ≠ h) else h :: rest
    rotation := if s.tables.settings.rotationMode = .rotating then s.bay.rotation.filter (· ≠ c) ++ [c] else s.bay.rotation
    nextSublot := if s.bay.nextSublot = 0xFFFF#16 then 1#16 else s.bay.nextSublot + 1 }

/-- The records of a state with another lot, other cells, another queue and other loads, and the rotation and the next id of a cut. -/
def shapeOf (s : State) (h : LotNo) (c : CellNo) (v : Vector Channel 8) (w : List CellNo) (l : LotRec) (cells : Vector CellRec 32)
    (queue : List LotNo) : Records :=
  { s.records with
    lots := s.bay.lots.set h l, cells := cells, queue := queue, channels := v.map Channel.view, waitQueue := w
    rotation := if s.tables.settings.rotationMode = .rotating then s.bay.rotation.filter (· ≠ c) ++ [c] else s.bay.rotation
    nextSublot := nextId s.bay.nextSublot }

theorem records_finished (hq : s.bay.queue = h :: rest) (v : Vector Channel 8) (w : List CellNo) (r0 r : CellRec) :
    ({ s with bay := (finished s c h (((readied s c sites cls h).withLoads v w).setCell c r0)).setCell c r } : State).records
      = cutRecords s h rest c (({ s.records with channels := v.map Channel.view, waitQueue := w } : Records).setCell c r) := by
  have hlot : ((s.bay.lot h).afterCut (assignmentOf s h c).qty).withStamp
      (if (s.bay.lot h).remaining - (assignmentOf s h c).qty = 0 then (s.bay.lot h).stamp + 1 else (s.bay.lot h).stamp)
      = cutLot s h c := by
    unfold LotRec.afterCut cutLot
    dsimp only
    split <;> rfl
  have hqueue : (if (s.bay.lot h).remaining - (assignmentOf s h c).qty = 0 then s.bay.queue.filter (· ≠ h) else s.bay.queue)
      = if (s.bay.lot h).remaining - (assignmentOf s h c).qty = 0 then rest.filter (· ≠ h) else h :: rest := by
    rw [hq, List.filter_cons_of_neg (by simp)]
  have hcells : ((readied s c sites cls h).cells.set c r0).set c r = s.bay.cells.set c r := by
    unfold readied Bay.setCell
    rw [Vector.set_set]
    exact Vector.set_set ..
  refine Eq.trans (b := shapeOf s h c v w _ _ _) rfl ?_
  rw [hlot]
  exact congrArg₂ (shapeOf s h c v w (cutLot s h c)) hcells hqueue

/-- READY of a cell with a resident slot of the program: the OFFER. -/
theorem offers (hf : s.ReadyFits c sites temp cls h rest e) (hactive : (s.bay.lot h).state = .active) (ht : s.TakesFrame c .ready)
    {k : SlotNo} (hk : (s.bay.cell c).slots[k].state = .resident ∧ (s.bay.cell c).slots[k].image = some (e.program, e.revision))
    (hfirst : ∀ j : SlotNo, j < k →
      ¬((s.bay.cell c).slots[j].state = .resident ∧ (s.bay.cell c).slots[j].image = some (e.program, e.revision))) (lot : Half) :
    Takes s c .handler lot (.ready (stepOf s h).kit temp sites)
      (cutRecords s h rest c (s.records.setCell c
        (s.ctx.offered (((s.bay.cell c).readied (stepOf s h).kit cls sites).holding (assignmentOf s h c)) (assignmentOf s h c) k
          (stepOf s h) e.revision (if cls = (stepOf s h).temp then 0 else s.tables.cellConfig[c].soak)).accepting)) [.cellState c] := by
  have hprog : e.program = (stepOf s h).program := hf.program.1
  rw [hprog] at hk hfirst
  have hcell {b : Bay} (hb : b.bare = (readied s c sites cls h).setLot h ((s.bay.lot h).lessCut (assignmentOf s h c).qty)) :
      b.cell c = ((s.bay.cell c).readied (stepOf s h).kit cls sites).holding (assignmentOf s h c) := by
    rw [Bay.cell_of_bare hb, Bay.cell_setLot]
    exact Bay.cell_setCell_self ..
  refine hf.cuts hactive (G := fun b => b.setCell c (s.ctx.offered (((s.bay.cell c).readied (stepOf s h).kit cls sites).holding
    (assignmentOf s h c)) (assignmentOf s h c) k (stepOf s h) e.revision
      (if cls = (stepOf s h).temp then 0 else s.tables.cellConfig[c].soak))) (fun _ _ => rfl) (fun b hb => ?_)
    (Bay.cell_setCell_self ..) ht ?_
  · have hstep : (b.lot (assignmentOf s h c).lot).routeStep (assignmentOf s h c).step = stepOf s h := by
      show (b.lot h).routeStep _ = _
      rw [Bay.lot_of_bare hb, Bay.lot_setLot_self]
      rfl
    have hmade := Bay.offerOrLoad_resident (x := s.ctx) (b := b) (c := c) (program := (stepOf s h).program) (k := k)
      (a := assignmentOf s h c) (im := ((stepOf s h).program, e.revision))
      (by rw [hcell hb]; exact Ctx.residentSlot_eq_some hf.program.entryOf hk hfirst) (by rw [hcell hb]; rfl)
      (by rw [hcell hb]; exact hk.2) (by rw [hcell hb]; exact fun hc => by cases hc)
    have hsoak : s.ctx.soak c (some cls) (stepOf s h) = if cls = (stepOf s h).temp then 0 else s.tables.cellConfig[c].soak := by
      unfold Ctx.soak
      simp only [Option.some.injEq]
    rw [hstep, hcell hb, show (((s.bay.cell c).readied (stepOf s h).kit cls sites).holding (assignmentOf s h c)).temp = some cls from rfl,
      hsoak] at hmade
    exact hmade
  · exact records_finished hf.queue s.bay.channels s.bay.waitQueue _ _

/-- READY of a cell without a resident slot of the program: the load. -/
theorem loads (hf : s.ReadyFits c sites temp cls h rest e) (hactive : (s.bay.lot h).state = .active) (ht : s.TakesFrame c .ready)
    (hno : ∀ j : SlotNo, ¬((s.bay.cell c).slots[j].state = .resident ∧ (s.bay.cell c).slots[j].image = some (e.program, e.revision)))
    {v : SlotNo} (hv : (((s.bay.cell c).readied (stepOf s h).kit cls sites).holding (assignmentOf s h c)).Victim e.program e.revision v)
    (lot : Half) :
    Takes s c .handler lot (.ready (stepOf s h).kit temp sites)
      (cutRecords s h rest c
        (s.loadStarted c ((s.bay.cell c).readied (stepOf s h).kit cls sites).accepting (assignmentOf s h c) e v)) [.cellState c] := by
  have hprog : e.program = (stepOf s h).program := hf.program.1
  rw [hprog] at hno
  have hcell {b : Bay} (hb : b.bare = (readied s c sites cls h).setLot h ((s.bay.lot h).lessCut (assignmentOf s h c).qty)) :
      b.cell c = ((s.bay.cell c).readied (stepOf s h).kit cls sites).holding (assignmentOf s h c) := by
    rw [Bay.cell_of_bare hb, Bay.cell_setLot]
    exact Bay.cell_setCell_self ..
  have hplace {b : Bay} (hb : b.bare = (readied s c sites cls h).setLot h ((s.bay.lot h).lessCut (assignmentOf s h c).qty)) :
      b.placing s.ctx c e.toImage v = s.bay.placing s.ctx c e.toImage v := by
    have := congrArg (fun b : Bay => b.placing s.ctx c e.toImage v) hb
    exact this
  refine hf.cuts hactive (G := fun b => (b.withLoads (s.bay.placing s.ctx c e.toImage v).2.1 (s.bay.placing s.ctx c e.toImage v).2.2).setCell
    c ((((s.bay.cell c).readied (stepOf s h).kit cls sites).holding (assignmentOf s h c)).loadingAt e v
      (s.bay.placing s.ctx c e.toImage v).1)) (fun _ _ => rfl) (fun b hb => ?_) (Bay.cell_setCell_self ..) ht ?_
  · have hload : b.offerOrLoad s.ctx c (stepOf s h).program = b.startLoad s.ctx c e := by
      unfold Bay.offerOrLoad
      rw [Ctx.residentSlot_eq_none hf.program.entryOf (by rw [hcell hb]; exact hno)]
      dsimp only
      rw [show s.ctx.tables.entryOf (stepOf s h).program = some e from hf.program.entryOf]
    obtain ⟨hbare, hst⟩ := Bay.bare_startLoad (x := s.ctx) (b := b) (c := c) (e := e) (v := v) (by rw [hcell hb]; exact hv)
    rw [hplace hb, hcell hb] at hbare
    rw [hload]
    exact ⟨hbare, hst, Bay.owed_startLoad (by rw [hcell hb]; exact fun hc => by cases hc)⟩
  · rw [records_finished hf.queue]
    unfold State.loadStarted
    dsimp only
    rw [State.loadPlaced_eq]
    rfl

end State.ReadyFits

/-- Settles O31: an OFFER on a resident slot at the class of the step; an OFFER, or a load, at the tiers of READY's class. -/
theorem readyCutsAndOffers : Obligations.ReadyCutsAndOffers := by
  refine ⟨?_, ?_⟩
  · intro c lot sites s h rest k e ht r l step st p kept hq hactive hst hremote hacc hkit hsites hmin hspread hcat hres him hfirst hid hfree
      hpos qty a offer temp r' left cut l'
    have hfits : s.ReadyFits c sites temp st.temp h rest e := by
      have hcode : ∀ t : TempClass, tempOf (match t with | .cold => 0#8 | .room => 1#8 | .hot => 2#8) = some t := by
        intro t
        cases t <;> rfl
      exact ⟨hcode st.temp, .inl rfl, hq, hst, hremote, hacc, hkit, hsites, hmin, hspread, hcat, hid, hfree⟩
    have hoffers := hfits.offers hactive ht ⟨hres, him⟩ hfirst lot
    rw [if_pos (show st.temp = (State.ReadyFits.stepOf s h).temp from rfl)] at hoffers
    exact hoffers
  · intro c lot sites temp cls s h rest e ht l step st p kept r ready hit hcode hwarm hq hactive hst hremote hacc hkit hsites hmin hspread
      hcat hid hfree hpos qty a left cut l' takes
    have hfits : s.ReadyFits c sites temp cls h rest e :=
      ⟨tempOf_code hcode, hwarm, hq, hst, hremote, hacc, hkit, hsites, hmin, hspread, hcat, hid, hfree⟩
    refine ⟨?_, fun hno v hv => ?_⟩
    · intro k hk hfirst soak offer
      exact hfits.offers hactive ht hk hfirst lot
    · refine hfits.loads hactive ht hno (hv.of_unslotted rfl rfl fun a' ha' => ?_) lot
      cases ha'
      rfl

end Sys2Proof.Machine

/-!
PROOF. LOT.START on a DEFINED lot (R18): its step 1 opens, and its match finds no IDLE cell or one (R62).
-/

namespace Sys2Proof.Machine

/-! ### The match of a lot that cuts for one cell (R62) -/

/-- R62: a cell of tier 1 that stands ahead of every other of tier 1 is the one chosen. -/
theorem Bay.chooseCell_eq {x : Ctx} {b : Bay} {h : LotNo} {c : CellNo} (hp : b.rotation.Perm allCells) (hc : b.tier x h c = some 1)
    (hfirst : ∀ c', c' ≠ c → b.tier x h c' = some 1 → b.rotation.idxOf c < b.rotation.idxOf c') : b.chooseCell x h = some c := by
  have hnodup : b.rotation.Nodup := hp.nodup_iff.2 (List.nodup_finRange 32)
  have hmem : c ∈ b.rotation := hp.mem_iff.2 (List.mem_finRange c)
  have hfind : (b.rotation.find? fun c => b.tier x h c = some 1) = some c := by
    rw [List.find?_eq_some_iff_getElem]
    refine ⟨decide_eq_true hc, b.rotation.idxOf c, List.idxOf_lt_length_iff.2 hmem, List.getElem_idxOf _, fun j hj => ?_⟩
    have hlen : j < b.rotation.length := hj.trans (List.idxOf_lt_length_iff.2 hmem)
    have hidx : b.rotation.idxOf b.rotation[j] = j := hnodup.idxOf_getElem j hlen
    rw [Bool.not_eq_true', decide_eq_false_iff_not]
    intro ht
    have hne : b.rotation[j] ≠ c := fun he => by
      rw [he] at hidx
      omega
    have hlt := hfirst _ hne ht
    omega
  unfold Bay.chooseCell
  rw [hfind]
  rfl

/-- R62: a match that ends with its first cut. -/
theorem Bay.matchLot_one {x : Ctx} {b : Bay} {h : LotNo} {c : CellNo} (hpos : 0 < (b.lot h).remaining)
    (hc : b.chooseCell x h = some c) (hstop : ((b.cut x h c).lot h).remaining = 0 ∨ (b.cut x h c).NoFit x h) :
    b.matchLot x h = b.cut x h c := by
  unfold Bay.matchLot
  rw [Bay.matchLotUpTo, if_pos hpos, hc]
  dsimp only
  rcases hstop with hzero | hfit
  · rw [Bay.matchLotUpTo, if_neg (by omega)]
  · have hnone : (b.cut x h c).chooseCell x h = none := by
      cases hc : (b.cut x h c).chooseCell x h with
      | none => rfl
      | some c' =>
        have := Bay.tier_chooseCell hc
        rw [hfit.tier c'] at this
        cases this
    rw [Bay.matchLotUpTo, hnone]
    split <;> rfl

namespace Bay.Follows

variable {b base : Bay} {h : LotNo} {l0 l : LotRec}

theorem nextSublot (hb : b.Follows base h l0 l) : b.nextSublot = base.nextSublot := (congrArg Bay.nextSublot hb.bare :)

theorem rotation (hb : b.Follows base h l0 l) : b.rotation = base.rotation := (congrArg Bay.rotation hb.bare :)

/-- R51, R54: a lot at its place in the queue, its age deadline formed. -/
theorem enqueued {s : State} (hb : b.Follows base h l0 l) (hlots : ∀ h', h' ≠ h → base.lot h' = s.bay.lot h') :
    ((b.enqueue h).modLot h fun l => { l with ageDeadline := s.ctx.ageDeadline l }).Follows
      (base.withQueue (s.placed base.queue h l)) h l0 (s.withAge l) := by
  have hplace : (b.enqueue h).queue = s.placed base.queue h l := by
    rw [Bay.queue_enqueue (s := s) fun h' hne => (hb.lot_ne hne).trans (hlots h' hne), hb.queue, hb.lot]
    exact s.placed_congr _ _ rfl rfl
  have hq : (b.enqueue h).Follows (base.withQueue (s.placed base.queue h l)) h l0 l :=
    hb.mapped (F := fun b => b.withQueue (s.placed base.queue h l)) (fun _ _ => rfl) (by rw [← hplace]; rfl) rfl
      ⟨fun _ hn => hn, fun _ hl => hl⟩
  exact hq.modLot fun n => rfl

/-- R64, R66: a cut on a resident slot of the cell. -/
theorem cut_resident {x : Ctx} (hb : b.Follows base h l0 l) {c : CellNo} {k : SlotNo} {im : Half × Byte}
    (h0 : base.nextSublot ≠ 0#16) (hfree : ∀ c' a, (base.cell c').assignment = some a → a.id ≠ base.nextSublot)
    (hk : x.residentSlot (base.cell c) (l.routeStep l.openIndex).program = some k) (him : (base.cell c).slots[k].image = some im)
    (hst : (base.cell c).state ≠ .offered) :
    (b.cut x h c).Follows
        ((((base.withNextId (nextId base.nextSublot)).setCell c
          (x.offered (base.cell c) (x.assignment h l c base.nextSublot) k (l.routeStep l.openIndex) im.2
            (x.soak c (base.cell c).temp (l.routeStep l.openIndex)))).rotated x c).unqueuedAt h
          (l.remaining - (x.assignment h l c base.nextSublot).qty)) h l0 (l.afterCut (x.assignment h l c base.nextSublot).qty)
      ∧ .cellState c ∈ (b.cut x h c).notices := by
  have hid := Bay.drawId_eq (b := b) (by rw [hb.nextSublot]; exact h0) fun c' a ha => by
    rw [hb.nextSublot]
    rw [Bay.cell, hb.cells] at ha
    exact hfree c' a ha
  rw [hb.nextSublot] at hid
  have hassigned := hb.assigned (x := x) (c := c) hid
  have hcell : (b.assigned x h c).cell c = (base.cell c).holding (x.assignment h l c base.nextSublot) := by
    rw [Bay.cell, hassigned.cells]
    exact Bay.cell_setCell_self ..
  have hstep : ((b.assigned x h c).lot h).routeStep l.openIndex = l.routeStep l.openIndex := by
    rw [hassigned.lot]
    rfl
  have hmade := Bay.offerOrLoad_resident (x := x) (b := b.assigned x h c) (c := c) (program := (l.routeStep l.openIndex).program) (k := k)
    (a := x.assignment h l c base.nextSublot) (im := im) (by rw [hcell]; exact hk) (by rw [hcell]; rfl) (by rw [hcell]; exact him)
    (by rw [hcell]; exact hst)
  rw [show (x.assignment h l c base.nextSublot).lot = h from rfl,
    show (x.assignment h l c base.nextSublot).step = l.openIndex from rfl, hstep, hcell] at hmade
  obtain ⟨hbare, hstamped, howed⟩ := hmade
  have hcut := hb.cut hid (G := fun b => b.setCell c (x.offered ((base.cell c).holding (x.assignment h l c base.nextSublot))
    (x.assignment h l c base.nextSublot) k (l.routeStep l.openIndex) im.2 (x.soak c (base.cell c).temp (l.routeStep l.openIndex))))
    (fun _ _ => rfl) ⟨hbare, hstamped⟩
  rw [Bay.setCell_setCell] at hcut
  exact ⟨hcut.1, hcut.2.2.1 _ howed⟩

end Bay.Follows

/-- R51: a queue that a lot has joined, without that lot. -/
theorem State.filter_placed {s : State} {q : List LotNo} {h : LotNo} {l : LotRec} (hq : h ∉ q) :
    (s.placed q h l).filter (· ≠ h) = q := by
  have hothers : q.filter (· ≠ h) = q := List.filter_eq_self.2 fun h' hm => decide_eq_true (show h' ≠ h from fun he => hq (he ▸ hm))
  unfold State.placed
  dsimp only
  rw [hothers, List.filter_append, List.filter_cons_of_neg (by simp), ← List.filter_append, List.takeWhile_append_dropWhile, hothers]

/-! ### Step 1 opens (R11, R18) -/

/-- R11: the record of a lot whose step 1 opens with the start quantity. -/
def State.stepOne (s : State) (l : LotRec) : LotRec := l.openStep 1 l.startQty s.part.clock

theorem Bay.start_defined {x : Ctx} {b : Bay} {h : LotNo} (hl : (b.lot h).state = .defined) :
    b.start x h = (Bay.openStep x 5 b h 1, (Bay.openStep x 5 b h 1).briefReply h .done) := if_pos hl

/-- R18: LOT.START on a DEFINED lot, from what the opening of its step leaves. -/
theorem lotStart_opens {tag handle : Half} {s : State} {h : LotNo} (ht : s.TakesRequests) (hh : handle.toNat < 256)
    (hd : ⟨handle.toNat, hh⟩ = h) (hl : (s.bay.lot h).state = .defined) (hq : 0 < (s.bay.lot h).startQty) {b' : Bay} {l' : LotRec}
    {r : Records} {reported : List Notice} (hopen : ∀ b : Bay, h ∈ b.stamped →
      b.Follows s.bay.bare h (s.bay.lot h) (s.stepOne (s.bay.lot h)) →
      (b.openActive s.ctx h 1).bare = b' ∧ ∀ n ∈ reported, n ∈ (b.openActive s.ctx h 1).notices)
    (hlot : b'.lot h = l') (hr : ({ s with bay := b' } : State).records = r) :
    Answers (.lotStart tag handle) s r (some h) 0x11#8 tag { status := .done, data := l'.answer } (.lotState h :: reported) := by
  have hstart := Bay.Follows.start (b := s.newEvent.bay) (h := h) List.not_mem_nil
  have hopened : (s.newEvent.bay.opened s.ctx h 1).Follows s.bay.bare h (s.bay.lot h) (s.stepOne (s.bay.lot h)) := hstart.opened 1
  have hst := hopened.stamped_of_ne fun he => by
    have hs : (s.stepOne (s.bay.lot h)).state = (s.bay.lot h).state := congrArg Prod.fst he
    rw [hl] at hs
    cases hs
  obtain ⟨hbare, hns⟩ := hopen _ hst hopened
  have heq : Bay.openStep s.ctx 5 s.newEvent.bay h 1 = (s.newEvent.bay.opened s.ctx h 1).openActive s.ctx h 1 :=
    hstart.openStep_input (k := 1) 5 hq
  refine answers_of_lotEffect (f := Bay.start) (b := (s.newEvent.bay.opened s.ctx h 1).openActive s.ctx h 1) rfl ht rfl hh hd ?_ hbare hr
    (List.forall_mem_cons.2 ⟨(Bay.Grows.openActive ..).1 _ (hopened.owed hst), hns⟩)
  refine (Bay.start_defined (b := s.newEvent.bay) hl).trans ?_
  rw [heq, Bay.briefReply_of_bare hbare, hlot]

/-- R58, R62: LOT.START finds one IDLE cell of tier 1, ahead of every other that would be cut a sublot. -/
structure State.StartFits (s : State) (c : CellNo) (k : SlotNo) (h : LotNo) (first : RouteStep) (e : CatalogueEntry) : Prop where
  normal : (s.bay.lot h).cls = .normal
  quantity : 0 < (s.bay.lot h).startQty
  rotation : s.RotationLaw
  program : s.Catalogued first.program e
  idle : (s.bay.cell c).state = .idle
  remote : (s.bay.cell c).localPending = false
  kitted : first.kit ≠ 0#8
  kit : (s.bay.cell c).kit = first.kit
  temp : (s.bay.cell c).temp = some first.temp
  sites : first.minSites ≤ (s.bay.cell c).sites.getD 0
  accepted : (s.bay.cell c).excluded ≠ some h
  spread : 0 < s.tables.profiles[first.profile].spread
  hit : (s.bay.cell c).slots[k].state = .resident ∧ (s.bay.cell c).slots[k].image = some (e.program, e.revision)
  lowest : ∀ j : SlotNo, j < k →
    ¬((s.bay.cell c).slots[j].state = .resident ∧ (s.bay.cell c).slots[j].image = some (e.program, e.revision))
  idSet : s.bay.nextSublot ≠ 0#16
  idFree : ∀ c' a, (s.bay.cell c').assignment = some a → a.id ≠ s.bay.nextSublot
  others : ∀ c', c' ≠ c → (s.bay.cell c').state = .idle →
    (s.bay.cell c').kit ≠ first.kit
      ∨ (min (s.bay.lot h).startQty (min s.tables.cellConfig[c].cap s.tables.profiles[first.profile].sublotSize) = (s.bay.lot h).startQty
        ∧ s.bay.rotation.idxOf c < s.bay.rotation.idxOf c')

namespace State.StartFits

variable {s : State} {c : CellNo} {k : SlotNo} {h : LotNo} {first : RouteStep} {e : CatalogueEntry}

/-- The record of the lot as it is cut from. -/
def queuedLot (s : State) (h : LotNo) : LotRec := s.withAge (s.stepOne (s.bay.lot h))

/-- R64: the assignment of the cut. -/
def assignmentOf (s : State) (h : LotNo) (c : CellNo) : Assignment := s.ctx.assignment h (queuedLot s h) c s.bay.nextSublot

/-- R52: the bay as the lot has joined the queue. -/
def queuedBay (s : State) (h : LotNo) : Bay := s.bay.bare.withQueue (s.placed s.bay.queue h (s.stepOne (s.bay.lot h)))

/-- R66: the record of the cell with its offer. -/
def offeredCell (s : State) (h : LotNo) (c : CellNo) (k : SlotNo) (first : RouteStep) (e : CatalogueEntry) : CellRec :=
  s.ctx.offered (s.bay.cell c) (assignmentOf s h c) k first e.revision 0

/-- R63 to R66: the bay after the cut, the lot's record apart. -/
def cutBay (s : State) (h : LotNo) (c : CellNo) (k : SlotNo) (first : RouteStep) (e : CatalogueEntry) : Bay :=
  ((((queuedBay s h).withNextId (nextId s.bay.nextSublot)).setCell c (offeredCell s h c k first e)).rotated s.ctx c).unqueuedAt h
    ((s.bay.lot h).startQty - (assignmentOf s h c).qty)

theorem routeStep_queuedLot {rest : List RouteStep} (hroute : (s.bay.lot h).route = first :: rest) :
    (queuedLot s h).routeStep (queuedLot s h).openIndex = first := by
  show (s.bay.lot h).route.getD 0 default = first
  rw [hroute]
  rfl

theorem profile_queuedLot {rest : List RouteStep} (hroute : (s.bay.lot h).route = first :: rest) :
    s.ctx.profile (queuedLot s h) (queuedLot s h).openIndex = s.tables.profiles[first.profile] :=
  congrArg (fun st : RouteStep => s.tables.profiles[st.profile]) (routeStep_queuedLot hroute)

theorem assignmentOf_eq {rest : List RouteStep} (hroute : (s.bay.lot h).route = first :: rest) (c : CellNo) :
    assignmentOf s h c = { lot := h, step := 1, id := s.bay.nextSublot
                           qty := min (s.bay.lot h).startQty
                             (min s.tables.cellConfig[c].cap s.tables.profiles[first.profile].sublotSize) } := by
  unfold assignmentOf Ctx.assignment
  rw [profile_queuedLot hroute]
  rfl

/-- R62: the match cuts for the cell alone. -/
theorem match_cuts (hf : s.StartFits c k h first e) {rest : List RouteStep} (hroute : (s.bay.lot h).route = first :: rest) {b : Bay}
    (hb : b.Follows (queuedBay s h) h (s.bay.lot h) (queuedLot s h)) :
    (b.matchLot s.ctx h).Follows (cutBay s h c k first e) h (s.bay.lot h) ((queuedLot s h).afterCut (assignmentOf s h c).qty)
      ∧ .cellState c ∈ (b.matchLot s.ctx h).notices := by
  have hstep := routeStep_queuedLot hroute
  have hprofile := profile_queuedLot hroute
  have hprog : e.program = first.program := hf.program.1
  have hentry : s.ctx.tables.entryOf first.program = some e := hf.program.entryOf
  have hcell : ∀ c', b.cell c' = s.bay.cell c' := fun c' => by
    rw [Bay.cell, hb.cells]
    rfl
  have hlot : (b.lot h).routeStep (b.lot h).openIndex = first := by
    rw [hb.lot]
    exact hstep
  have hhit := hf.hit
  have hlowest := hf.lowest
  rw [hprog] at hhit hlowest
  have hresident : s.ctx.residentSlot (s.bay.cell c) first.program = some k := Ctx.residentSlot_eq_some hentry hhit hlowest
  have hqualifies : b.Qualifies s.ctx h c := by
    refine ⟨?_, ?_, ?_, ?_, ?_, ?_, ?_, ?_, ?_⟩
    · rw [hb.queue]
      exact List.mem_append_right _ List.mem_cons_self
    · rw [hcell, hf.idle]
    · rw [hcell, hf.remote]
    · rw [hcell, hf.kit]
      exact hf.kitted
    · rw [hcell, hlot, hf.kit]
    · rw [hcell, hlot]
      exact hf.sites
    · rw [hcell]
      exact hf.accepted
    · rw [hb.lot]
      show 0 < (s.ctx.profile (queuedLot s h) (queuedLot s h).openIndex).spread
      rw [hprofile]
      exact hf.spread
    · rw [hlot, hentry]
      rfl
  have htier : b.tier s.ctx h c = some 1 := by
    rw [hqualifies.tier, hcell, hlot, if_pos hf.temp, hresident]
    rfl
  have hunkitted : ∀ {b' : Bay} {c' : CellNo}, (b'.lot h).routeStep (b'.lot h).openIndex = first → (b'.cell c').kit ≠ first.kit →
      (b'.cell c').FitsNot s.ctx.tables (b'.lot h) h := fun hl hk => .inr (.inl (by
    rw [← hl] at hk
    exact hk))
  have hchoose : b.chooseCell s.ctx h = some c := by
    refine Bay.chooseCell_eq (by rw [hb.rotation]; exact hf.rotation) htier fun c' hne ht => ?_
    have hidle := (Bay.of_tier (Option.isSome_iff_ne_none.2 (by rw [ht]; exact Option.some_ne_none _))).2
    rw [hcell] at hidle
    rw [hb.rotation]
    refine ((hf.others c' hne hidle).resolve_left fun hk => ?_).2
    rw [Bay.tier_of_fitsNot (hunkitted hlot (by rw [hcell]; exact hk))] at ht
    cases ht
  have hcut := hb.cut_resident (x := s.ctx) (c := c) (k := k) (im := (first.program, e.revision)) hf.idSet hf.idFree
    (by rw [hstep]; exact hresident) hhit.2 (fun hc => by cases hf.idle.symm.trans hc)
  have hsoak : s.ctx.soak c ((queuedBay s h).cell c).temp first = 0 := if_pos hf.temp
  rw [hstep, hsoak] at hcut
  obtain ⟨hcut, howed⟩ := hcut
  rw [Bay.matchLot_one (c := c) (by rw [hb.lot]; exact hf.quantity) hchoose]
  · exact ⟨hcut, howed⟩
  · have hafter (l : LotRec) (q : Nat) : (l.afterCut q).remaining = l.remaining - q ∧ (l.afterCut q).routeStep (l.afterCut q).openIndex
        = l.routeStep l.openIndex := by
      unfold LotRec.afterCut
      split <;> exact ⟨rfl, rfl⟩
    rw [hcut.lot]
    show ((queuedLot s h).afterCut _).remaining = 0 ∨ _
    rw [(hafter _ _).1]
    by_cases hzero : (queuedLot s h).remaining - (assignmentOf s h c).qty = 0
    · exact .inl hzero
    · refine .inr fun c' hi => ?_
      have hcell' : (b.cut s.ctx h c).cell c' = (cutBay s h c k first e).cell c' := by rw [Bay.cell, hcut.cells]; rfl
      rw [hcell'] at hi
      by_cases hc : c = c'
      · subst hc
        rw [show (cutBay s h c k first e).cell c = offeredCell s h c k first e from Bay.cell_setCell_self ..] at hi
        cases hi
      · have hsame : (cutBay s h c k first e).cell c' = s.bay.cell c' := Bay.cell_setCell_ne _ _ hc
        rw [hsame] at hi
        refine hunkitted ?_ ?_
        · rw [hcut.lot]
          exact (hafter _ _).2.trans hstep
        · rw [hcell', hsame]
          refine (hf.others c' (Ne.symm hc) hi).resolve_right fun hall => hzero ?_
          rw [assignmentOf_eq hroute, hall.1]
          exact Nat.sub_self _

end State.StartFits

/-- Settles O16: no IDLE cell; one IDLE cell, at tier 1; no program in the catalogue. -/
theorem lotStartOpensStepOne : Obligations.LotStartOpensStepOne := by
  intro tag handle s ht hh h l opened hl hnormal hpos hholds hnq first rest hroute
  have hstep : (s.stepOne l).routeStep 1 = first := by
    show l.route.getD 0 default = first
    rw [hroute]
    rfl
  have hrec (b : Bay) (hs : h ∈ b.stamped) : (s.stepOne l).withStamp (if h ∈ b.stamped then l.stamp + 1 else l.stamp) = opened := by
    rw [if_pos hs]
    rfl
  refine ⟨fun e he hni => ?_, ?_, fun hno => ?_⟩
  · refine lotStart_opens (b' := (s.bay.bare.withQueue (s.placed s.bay.queue h (s.stepOne l))).setLot h
      ((s.withAge (s.stepOne l)).withStamp (l.stamp + 1))) ht hh rfl hl hpos (fun b hs hf => ⟨?_, by simp⟩) (Bay.lot_setLot_self ..) rfl
    rw [hf.openActive_queued (s := s) (k := 1) (e := e) (by rw [hstep]; exact he.entryOf) (fun _ _ => rfl)
      (hni.noFit s.ctx hf.cells h), if_pos hs]
    rfl
  · intro e c k he hrot r p kept hit qty hidle hremote hkit0 hkit htemp hsites hexc hspread hk hlow hid hfree hothers a offer left l'
    have hfits : s.StartFits c k h first e :=
      ⟨hnormal, hpos, hrot, he, hidle, hremote, hkit0, hkit, htemp, hsites, hexc, hspread, hk, hlow, hid, hfree, hothers⟩
    have hcutLot : ((State.StartFits.queuedLot s h).afterCut qty).withStamp (l.stamp + 1) = l' := by
      have hleft : (State.StartFits.queuedLot s h).remaining - qty = left := rfl
      unfold LotRec.afterCut
      rw [hleft]
      simp only [l']
      split <;> rfl
    have hqueue : (if left = 0 then (s.placed s.bay.queue h (s.stepOne l)).filter (· ≠ h) else s.placed s.bay.queue h (s.stepOne l))
        = if left = 0 then s.bay.queue else s.placed s.bay.queue h l' := by
      rw [State.filter_placed hnq, s.placed_congr s.bay.queue h (l := s.stepOne l) (l' := l') rfl rfl]
    refine lotStart_opens (reported := [.cellState c]) (b' := (State.StartFits.cutBay s h c k first e).setLot h
      (((State.StartFits.queuedLot s h).afterCut (State.StartFits.assignmentOf s h c).qty).withStamp (l.stamp + 1))) ht hh rfl hl hpos
      (fun b hs hf => ?_) ?_ ?_
    · have hqueued := hf.enqueued (s := s) fun _ _ => rfl
      have hactive : b.openActive s.ctx h 1 = (((b.enqueue h).modLot h fun l => { l with ageDeadline := s.ctx.ageDeadline l }).matchLot
          s.ctx h) := by
        unfold Bay.openActive Bay.joinQueue
        rw [if_neg]
        rw [hf.lot]
        show ¬(s.ctx.tables.entryOf ((s.stepOne l).routeStep 1).program).isNone = true
        rw [hstep, show s.ctx.tables.entryOf first.program = some e from he.entryOf]
        exact Bool.false_ne_true
      obtain ⟨hcut, howed⟩ := hfits.match_cuts hroute hqueued
      rw [← hactive] at hcut howed
      exact ⟨hcut.bare_stamped ((Bay.Grows.openActive ..).2 _ hs), List.forall_mem_singleton.2 howed⟩
    · rw [Bay.lot_setLot_self, State.StartFits.assignmentOf_eq hroute]
      exact hcutLot
    · unfold State.StartFits.cutBay State.StartFits.offeredCell
      rw [State.StartFits.assignmentOf_eq hroute, hcutLot, Bay.unqueuedAt]
      exact congrArg (fun q => ({ (s.records.setLot h l').setCell c (s.ctx.offered r a k first e.revision 0) with
        queue := q
        rotation := if kept.rotationMode = .rotating then s.bay.rotation.filter (· ≠ c) ++ [c] else s.bay.rotation
        nextSublot := nextId s.bay.nextSublot } : Records)) hqueue
  · refine lotStart_opens (b' := (s.bay.bare.withQueue (s.bay.queue.filter (· ≠ h))).setLot h
      ((s.programHeld (s.stepOne l) 1 first.program).withStamp (l.stamp + 1))) ht hh rfl hl hpos (fun b hs hf => ⟨?_, by simp⟩)
      ((Bay.lot_setLot_self ..).trans ?_) ?_
    · have hheld := hf.openActive_held (s := s) (k := 1) rfl rfl hholds (by rw [hstep]; exact Tables.entryOf_eq_none hno)
      rw [hstep] at hheld
      exact hheld.bare_stamped ((Bay.Grows.openActive ..).2 _ hs)
    · rfl
    · rw [List.filter_eq_self.2 fun h' hm => decide_eq_true (show h' ≠ h from fun he => hnq (he ▸ hm))]
      rfl

end Sys2Proof.Machine

/-!
PROOF. The close of a sublot at its cell (R47) with a raise on a lot that no cell names, and the loss of a cell's line (sections 2.12,
2.13).
-/

namespace Sys2Proof.Machine

/-! ### The close of a sublot (R47) -/

/-- R47: a cell whose sublot has closed. -/
def CellRec.closedAs (after : CellState) (r : CellRec) : CellRec :=
  { r with
    state := after, pause := .none, stallDeadline := none, localPending := false, claimPending := false, stalled := false
    stallFinish := false, assignment := none }

theorem CellRec.not_named_closedAs (r : CellRec) (after : CellState) (h : LotNo) : ¬(r.closedAs after).Named h := by
  rw [CellRec.named_iff]
  rintro ⟨a, ha, _⟩
  cases ha

theorem Bay.bare_closeSublot {b : Bay} {c : CellNo} {a : Assignment} (ha : (b.cell c).assignment = some a) (after : CellState) :
    (b.closeSublot c after).bare = (b.bare.setLot a.lot (b.lot a.lot).oneClosed).setCell c ((b.cell c).closedAs after)
      ∧ (b.closeSublot c after).stamped = b.stamped ∧ .cellState c ∈ (b.closeSublot c after).notices := by
  unfold Bay.closeSublot
  generalize hd : (b.modCell c fun r =>
    { r with
      state := after, pause := .none, stallDeadline := none
      localPending := false, claimPending := false, stalled := false, stallFinish := false }) = d
  have hcell : d.cell c = { (b.cell c).closedAs after with assignment := some a } := by
    rw [← hd, Bay.cell_modCell_self]
    unfold CellRec.closedAs
    rw [← ha]
  have hbare : d.bare = b.bare.setCell c { (b.cell c).closedAs after with assignment := some a } := by
    rw [← hcell, ← hd, Bay.cell_modCell_self, Bay.bare_modCell]
  have hst : d.stamped = b.stamped := by
    rw [← hd]
    exact Bay.stamped_modCell ..
  have hlot : d.lot a.lot = b.lot a.lot := by rw [Bay.lot_of_bare hbare]; rfl
  rw [Bay.dropAssignment_eq (a := a) (by rw [hcell])]
  refine ⟨?_, ?_, Bay.mem_notices_owe.2 (.inl rfl)⟩
  · rw [Bay.bare_owe, Bay.bare_dropped, hcell, hlot, hbare, Bay.setLot_setCell, Bay.setCell_setCell]
    rfl
  · rw [Bay.stamped_owe, Bay.stamped_dropped, hst]

/-- R125: a raise on a lot that no cell names. -/
theorem Bay.bare_raise_empty {x : Ctx} {b : Bay} {h : LotNo} (hl : (b.lot h).state ∈ [.active, .closing, .complete])
    (hs : h ∉ b.stamped) (hno : ∀ c, ¬(b.cell c).Named h) (kind : HoldKind) (origin : HoldOrigin) (detail : HoldDetail) :
    (b.raise x h kind origin detail).bare = (b.bare.withQueue (b.queue.filter (· ≠ h))).setLot h
        ((b.lot h).heldWith (raiseIn (b.lot h).holds (raisedEntry x (b.lot h) kind origin detail)))
      ∧ h ∈ (b.raise x h kind origin detail).stamped ∧ .lotState h ∈ (b.raise x h kind origin detail).notices := by
  obtain ⟨hentry, hst, hn⟩ := Bay.bare_raiseEntry_first (x := x) hl hs kind origin detail
  have hold : (b.lot h).state.holdable = true := LotState.holdable_iff.2 (by
    simp only [List.mem_cons, List.not_mem_nil, or_false] at hl ⊢
    tauto)
  have hcells : (b.raiseEntry x h kind origin detail).cells = b.cells := (Bay.cells_of_bare hentry :)
  have hsame : b.cells.map (·.pausedFor h) = b.cells := Vector.ext fun i hi => by
    rw [Vector.getElem_map]
    exact CellRec.pausedFor_of_not_named (hno ⟨i, hi⟩)
  have hrun : ∀ c, (b.cell c).Named h → (b.cell c).state = .running := fun c hc => absurd hc (hno c)
  obtain ⟨hbare, hstamped⟩ := Bay.bare_raise_running (x := x) hold hrun kind origin detail hcells
  refine ⟨?_, by rw [hstamped]; exact hst, ?_⟩
  · rw [hbare, hsame, Bay.withCells_self (fun c => (congrArg (fun v : Vector CellRec 32 => v[c]) hcells).symm), hentry]
  · rw [Bay.raise_running hold hrun kind origin detail hcells]
    exact (Bay.Grows.foldl (fun b c => .pauseCell h b c) allCells _).1 _ hn

/-- Table 3-3: a lot held while ACTIVE, or CLOSING, to which an amount has been returned. -/
theorem LotRec.heldWith_given {l : LotRec} (hl : l.state = .active ∨ l.state = .closing) (holds : List HoldEntry) (amount : Nat) :
    (l.heldWith holds).heldGiven amount
      = { l.heldWith holds with saved := some .active, remaining := l.remaining + amount } := by
  rcases hl with hl | hl <;> simp [LotRec.heldGiven, LotRec.heldWith, hl]

/-- R49, R145: a sublot's lot is held as the sublot closes, and the uncounted quantity returns. -/
theorem Bay.bare_raise_giveBack {x : Ctx} {b : Bay} {h : LotNo} {amount : Nat}
    (hl : (b.lot h).state = .active ∨ ((b.lot h).state = .closing ∧ 0 < (b.lot h).remaining + amount)) (hs : h ∉ b.stamped)
    (hno : ∀ c, ¬(b.cell c).Named h) (kind : HoldKind) (origin : HoldOrigin) (detail : HoldDetail) :
    ((b.raise x h kind origin detail).giveBack x h amount).bare = (b.bare.withQueue (b.queue.filter (· ≠ h))).setLot h
        { (b.lot h).heldWith (raiseIn (b.lot h).holds (raisedEntry x (b.lot h) kind origin detail)) with
          saved := some .active, remaining := (b.lot h).remaining + amount }
      ∧ .lotState h ∈ ((b.raise x h kind origin detail).giveBack x h amount).notices := by
  have hmem : (b.lot h).state ∈ [.active, .closing, .complete] := by
    rcases hl with hl | ⟨hl, _⟩ <;> rw [hl] <;> decide
  obtain ⟨hbare, hst, hn⟩ := Bay.bare_raise_empty (x := x) hmem hs hno kind origin detail
  have hlot : (b.raise x h kind origin detail).lot h
      = (b.lot h).heldWith (raiseIn (b.lot h).holds (raisedEntry x (b.lot h) kind origin detail)) := by
    rw [Bay.lot_of_bare hbare, Bay.lot_setLot_self]
  refine ⟨?_, (Bay.Grows.giveBack ..).1 _ hn⟩
  rw [(Bay.bare_giveBack_held (x := x) (amount := amount) (by rw [hlot]; rfl) hst fun hsaved => ?_).1, hlot, hbare, Bay.setLot_setLot]
  · exact congrArg (Bay.setLot _ h) (LotRec.heldWith_given (hl.imp_right And.left) _ _)
  · rw [hlot] at hsaved ⊢
    have hclosing := LotRec.saved_heldWith_closing hsaved
    exact (hl.resolve_left fun ha => nomatch (ha.symm.trans hclosing : LotState.active = .closing)).2

/-! ### The loss of a cell's line (R48) -/

/-- R48: a cell as its line is lost, its work apart. -/
def CellRec.linkGone (r : CellRec) : CellRec :=
  { r with
    commands := [], slots := r.slots.map Slot.emptied, pause := .none, stallDeadline := none, localPending := false
    claimPending := false, stalled := false, stallFinish := false, excluded := none }

/-- R67: a cell whose offer deadline is cancelled. -/
def CellRec.undue (r : CellRec) : CellRec := { r with offerDeadline := none }

/-- R48, item 1. -/
def CellRec.offlined (r : CellRec) : CellRec := { r with state := .offline, offerDeadline := none }

theorem Bay.bare_linkLost {x : Ctx} {b : Bay} {c : CellNo} (hst : (b.cell c).state ≠ .offline) {b' : Bay} {r : CellRec}
    (hb : (b.endWork x c).bare = b'.setCell c r) :
    (b.linkLost x c).bare = b'.setCell c r.linkGone ∧ .cellState c ∈ (b.linkLost x c).notices
      ∧ (b.endWork x c).Grows (b.linkLost x c) := by
  unfold Bay.linkLost
  dsimp only
  rw [if_neg hst, if_neg hst]
  refine ⟨?_, Bay.mem_notices_owe.2 (.inl rfl), ((Bay.Grows.modCell ..).trans (.modCell ..)).trans (.owe ..)⟩
  rw [Bay.bare_owe, Bay.bare_modCell, Bay.bare_modCell, Bay.cell_modCell_self, Bay.setCell_setCell, Bay.cell_of_bare hb,
    Bay.cell_setCell_self, hb, Bay.setCell_setCell]
  rfl

theorem Bay.linkLost_offline {x : Ctx} {b : Bay} {c : CellNo} (hst : (b.cell c).state = .offline) :
    b.linkLost x c = b.modCell c fun r => { r with commands := [], slots := r.slots.map Slot.emptied } := by
  unfold Bay.linkLost
  dsimp only
  rw [if_pos hst, if_pos hst]

theorem Bay.endWork_unassigned {x : Ctx} {b : Bay} {c : CellNo}
    (hst : (b.cell c).state ∈ [.notReady, .idle, .localMode, .claimed, .faulted]) :
    b.endWork x c = b.modCell c CellRec.offlined := by
  unfold Bay.endWork
  dsimp only
  simp only [List.mem_cons, List.not_mem_nil, or_false] at hst
  rcases hst with h | h | h | h | h <;> rw [h] <;> rfl

theorem Bay.endWork_offered {x : Ctx} {b : Bay} {c : CellNo} (hst : (b.cell c).state = .offered) :
    b.endWork x c = (b.modCell c CellRec.offlined).returnSublot x c := by
  unfold Bay.endWork
  dsimp only
  rw [hst]
  rfl

theorem Bay.endWork_loading {x : Ctx} {b : Bay} {c : CellNo} (hst : (b.cell c).state = .loading) :
    b.endWork x c = (b.setCell c (b.cell c).undue).leaveLoading x c .offline := by
  have hmod : b.modCell c CellRec.offlined
      = (b.setCell c (b.cell c).undue).modCell c fun r => { r with state := .offline } := by
    unfold Bay.modCell
    rw [Bay.cell_setCell_self, Bay.setCell_setCell]
    rfl
  unfold Bay.endWork
  dsimp only
  rw [hst]
  exact congrArg (fun b : Bay => (b.abandonLoad x c).returnSublot x c) hmod

theorem Bay.endWork_running {x : Ctx} {b : Bay} {c : CellNo} {a : Assignment} (hst : (b.cell c).state = .running)
    (ha : (b.cell c).assignment = some a) :
    b.endWork x c = ((((b.modCell c CellRec.offlined).closeSublot c .offline).raise x a.lot .tally .count (.tally c none)).giveBack x
      a.lot (a.qty - a.units)) := by
  unfold Bay.endWork
  dsimp only
  rw [hst, ha]
  dsimp only
  unfold Bay.lostSublot
  rfl

/-! ### The event -/

/-- R186: the records with the line of a cell port lost. -/
def State.portDown (s : State) (c : CellNo) (rec : Records) : Records :=
  { rec with ports := rec.ports.set c { s.link.ports[c].view with up := false, downlink := [] } }

/-- R186: the loss of a cell's line, from what it does to the bay. -/
theorem leaves_of_loss {s : State} {c : CellNo} {b' : Bay} {rec : Records} {reported : List Notice} (hq : s.Quiet)
    (hb : (s.newEvent.bay.linkLost s.ctx c).bare = b') (hr : ({ s with bay := b' } : State).records = rec)
    (hn : ∀ n ∈ reported, n ∈ (s.newEvent.bay.linkLost s.ctx c).notices) :
    Leaves (.cellLineStateLoss c) s (s.portDown c rec) reported := by
  refine leaves_of_event (f := loseCellLine c) rfl ?_ ?_ rfl fun n hm => .inl (hn n hm)
  · exact quiet_onBay (State.quiet_modPort (s := s.newEvent) (f := CellPort.lost) hq rfl) _
  · have hbay := records_of_bare (s := s) hb hr
    have hport := State.records_modPort ({ s with bay := s.newEvent.bay.linkLost s.ctx c } : State) c CellPort.lost
    rw [hbay] at hport
    exact hport

/-- The work of a cell that ends as its line is lost, from what is left of the bay. -/
theorem loss_ends {s : State} {c : CellNo} (hq : s.Quiet) (hst : (s.bay.cell c).state ≠ .offline) {b' : Bay} {r : CellRec} {rec : Records}
    {reported : List Notice} (hb : (s.newEvent.bay.endWork s.ctx c).bare = b'.setCell c r)
    (hr : ({ s with bay := b'.setCell c r.linkGone } : State).records = rec)
    (hn : ∀ n ∈ reported, n ∈ (s.newEvent.bay.endWork s.ctx c).notices) :
    Leaves (.cellLineStateLoss c) s (s.portDown c rec) (reported ++ [.cellState c]) := by
  obtain ⟨hlost, howed, hgrows⟩ := Bay.bare_linkLost (x := s.ctx) (b := s.newEvent.bay) hst hb
  refine leaves_of_loss hq hlost hr fun n hm => ?_
  rcases List.mem_append.1 hm with hm | hm
  · exact hgrows.1 n (hn n hm)
  · cases List.mem_singleton.1 hm
    exact howed

theorem loss_offered {s : State} {c : CellNo} {a : Assignment} (hq : s.Quiet) (hst : (s.bay.cell c).state = .offered)
    (ha : (s.bay.cell c).assignment = some a) (hni : s.NoIdle) (hk : s.KeepsOpen a.lot a.qty) :
    Leaves (.cellLineStateLoss c) s (s.portDown c ((s.afterReturn a.lot a.qty).setCell c { (s.bay.cell c).offlined with assignment := none }.linkGone)) [.cellState c] := by
  generalize hd : s.newEvent.bay.modCell c CellRec.offlined = b
  have hbare : b.bare = s.bay.bare.setCell c (s.bay.cell c).offlined := by
    rw [← hd, Bay.bare_modCell]
    rfl
  have hcell : b.cell c = (s.bay.cell c).offlined := by rw [Bay.cell_of_bare hbare, Bay.cell_setCell_self]
  have hret := Bay.bare_returnSublot (s := s) (b := b) (by rw [hcell]; exact ha) ((Bay.lots_of_bare hbare :).trans rfl)
    ((Bay.queue_of_bare hbare :).trans rfl) (by rw [← hd, Bay.stamped_modCell]; exact List.not_mem_nil) hk (fun c' hi => by
      by_cases he : c = c'
      · subst he
        rw [hcell] at hi
        cases hi
      · rw [Bay.cell_of_bare hbare, Bay.cell_setCell_ne _ _ he] at hi
        exact absurd hi (hni c'))
  rw [hcell] at hret
  have heq : s.newEvent.bay.endWork s.ctx c = b.returnSublot s.ctx c := (Bay.endWork_offered (b := s.newEvent.bay) hst).trans (by rw [hd])
  exact loss_ends (reported := []) hq (by rw [hst]; decide) (heq ▸ hret) (records_returnedBay s b c _ _ _ (.inr ⟨_, hbare⟩)) (by simp)

theorem loss_loading {s : State} {c : CellNo} {ld : LoadRec} {b' : Bay} {rec : Records} (hq : s.Quiet)
    (hst : (s.bay.cell c).state = .loading)
    (hb : ((s.newEvent.bay.setCell c (s.bay.cell c).undue).leaveLoading s.ctx c .offline).bare
      = b'.setCell c ((s.bay.cell c).undue.loadGone ld .offline))
    (hr : ({ s with bay := b'.setCell c ((s.bay.cell c).undue.loadGone ld .offline).linkGone } : State).records = rec) :
    Leaves (.cellLineStateLoss c) s (s.portDown c rec) [.cellState c] := by
  have heq := Bay.endWork_loading (x := s.ctx) (b := s.newEvent.bay) hst
  exact loss_ends (reported := []) hq (by rw [hst]; decide) (heq ▸ hb) hr (by simp)

theorem Bay.Matches.undue (s : State) (c : CellNo) : (s.newEvent.bay.setCell c (s.bay.cell c).undue).Matches s :=
  ⟨rfl, rfl, rfl, rfl, rfl⟩

theorem loss_loading_none {s : State} {c : CellNo} {ld : LoadRec} (hq : s.Quiet) (hst : (s.bay.cell c).state = .loading)
    (hl : (s.bay.cell c).load = some ld) (ha : (s.bay.cell c).assignment = none) (he : s.EndsNoRound c) :
    Leaves (.cellLineStateLoss c) s (s.portDown c ((s.leftBy c s.records).setCell c ((s.bay.cell c).undue.loadGone ld .offline).linkGone)) [.cellState c] := by
  have hcell : (s.newEvent.bay.setCell c (s.bay.cell c).undue).cell c = (s.bay.cell c).undue := Bay.cell_setCell_self ..
  have hb := Bay.bare_leaveLoading_none (s := s) (b := s.newEvent.bay.setCell c (s.bay.cell c).undue) (after := .offline)
    (by rw [hcell]; exact hl) (by rw [hcell]; exact ha) (.undue s c) he
  rw [hcell] at hb
  refine loss_loading hq hst hb ?_
  exact (congrArg (fun b => ({ s with bay := b } : State).records) (Bay.setCell_setCell (s.leftBay c s.bay.bare) c _ _)).trans
    (s.records_leftBay_cell c _)

theorem loss_loading_some {s : State} {c : CellNo} {ld : LoadRec} {a : Assignment} (hq : s.Quiet)
    (hst : (s.bay.cell c).state = .loading) (hl : (s.bay.cell c).load = some ld) (ha : (s.bay.cell c).assignment = some a)
    (he : s.EndsNoRound c) (hni : s.NoIdle) (hk : s.KeepsOpen a.lot a.qty) :
    Leaves (.cellLineStateLoss c) s (s.portDown c ((s.leftBy c (s.afterReturn a.lot a.qty)).setCell c ((s.bay.cell c).undue.loadGone ld .offline).linkGone)) [.cellState c] := by
  have hcell : (s.newEvent.bay.setCell c (s.bay.cell c).undue).cell c = (s.bay.cell c).undue := Bay.cell_setCell_self ..
  have hb := Bay.bare_leaveLoading_some (s := s) (b := s.newEvent.bay.setCell c (s.bay.cell c).undue) (after := .offline)
    (by rw [hcell]; exact hl) (by rw [hcell]; exact ha) (.undue s c) he hk (fun c' hne hi => by
      rw [Bay.cell_setCell_ne _ _ hne.symm] at hi
      exact hni c' hi) nofun
  rw [hcell] at hb
  refine loss_loading hq hst hb ?_
  exact (congrArg (fun b => ({ s with bay := b } : State).records) (Bay.setCell_setCell
    (s.leftBay c ((s.bay.bare.withQueue (s.returned a.lot a.qty).2).setLot a.lot (s.returned a.lot a.qty).1)) c _ _)).trans
    (s.records_leftBay_write c _ _ _ _)

/-- R49: the sublot of a RUNNING cell is closed, its lot held and the uncounted quantity returned. -/
theorem loss_running {s : State} {c : CellNo} {a : Assignment} (hq : s.Quiet) (hst : (s.bay.cell c).state = .running)
    (ha : (s.bay.cell c).assignment = some a) (hl : (s.bay.lot a.lot).state = .active) (hh : (s.bay.lot a.lot).holds = [])
    (ho : ∀ c', s.NamedBy a.lot c' → c' = c) :
    Leaves (.cellLineStateLoss c) s
      (s.portDown c { (s.records.setLot a.lot { (s.bay.lot a.lot).heldWith
            [{ kind := .tally, origin := .count, raisedAt := s.part.clock, stepIndex := (s.bay.lot a.lot).stepIndex.getD 0
               occurrences := 1, detail := .tally c none }] with
          remaining := (s.bay.lot a.lot).remaining + (a.qty - a.units), openSublots := (s.bay.lot a.lot).openSublots - 1
          saved := some .active }).setCell c ((s.bay.cell c).offlined.closedAs .offline).linkGone with
        queue := s.bay.queue.filter (· ≠ a.lot) })
      [.lotState a.lot, .cellState c] := by
  generalize hd : s.newEvent.bay.modCell c CellRec.offlined = b
  have hbare : b.bare = s.bay.bare.setCell c (s.bay.cell c).offlined := by
    rw [← hd, Bay.bare_modCell]
    rfl
  have hcell : b.cell c = (s.bay.cell c).offlined := by rw [Bay.cell_of_bare hbare, Bay.cell_setCell_self]
  have hlotb : b.lot a.lot = s.bay.lot a.lot := by rw [Bay.lot_of_bare hbare]; rfl
  obtain ⟨hclose, hcst, _⟩ := Bay.bare_closeSublot (b := b) (a := a) (by rw [hcell]; exact ha) .offline
  rw [hlotb, hcell] at hclose
  have heq : s.newEvent.bay.endWork s.ctx c
      = ((b.closeSublot c .offline).raise s.ctx a.lot .tally .count (.tally c none)).giveBack s.ctx a.lot (a.qty - a.units) := by
    rw [Bay.endWork_running (b := s.newEvent.bay) hst ha, hd]
  generalize b.closeSublot c .offline = b1 at hclose hcst heq
  have hlot1 : b1.lot a.lot = (s.bay.lot a.lot).oneClosed := by
    rw [Bay.lot_of_bare hclose, Bay.lot_setCell, Bay.lot_setLot_self]
  have hqueue1 : b1.queue = s.bay.queue := ((Bay.queue_of_bare hclose :).trans (Bay.queue_of_bare hbare :))
  have hno : ∀ c', ¬(b1.cell c').Named a.lot := fun c' hn => by
    rw [Bay.cell_of_bare hclose] at hn
    by_cases he : c = c'
    · subst he
      rw [Bay.cell_setCell_self] at hn
      exact CellRec.not_named_closedAs _ _ _ hn
    · rw [Bay.cell_setCell_ne _ _ he, Bay.cell_setLot, hbare, Bay.cell_setCell_ne _ _ he] at hn
      exact he (ho c' (CellRec.named_iff.1 hn)).symm
  obtain ⟨hgive, howed⟩ := Bay.bare_raise_giveBack (x := s.ctx) (amount := a.qty - a.units) (by rw [hlot1]; exact .inl hl)
    (by rw [hcst, ← hd, Bay.stamped_modCell]; exact List.not_mem_nil) hno .tally .count (.tally c none)
  rw [← heq, hlot1, hqueue1, hclose, hbare, Bay.withQueue_setCell, Bay.setLot_setCell, Bay.withQueue_setLot, Bay.setLot_setLot,
    Bay.withQueue_setCell, Bay.setLot_setCell, Bay.setCell_setCell] at hgive
  refine loss_ends (reported := [.lotState a.lot]) hq (by rw [hst]; decide) hgive ?_ (List.forall_mem_singleton.2 (heq ▸ howed))
  have hheld : { (s.bay.lot a.lot).oneClosed.heldWith (raiseIn (s.bay.lot a.lot).oneClosed.holds
        (raisedEntry s.ctx (s.bay.lot a.lot).oneClosed .tally .count (.tally c none))) with
      saved := some .active, remaining := (s.bay.lot a.lot).oneClosed.remaining + (a.qty - a.units) }
    = { (s.bay.lot a.lot).heldWith
            [{ kind := .tally, origin := .count, raisedAt := s.part.clock, stepIndex := (s.bay.lot a.lot).stepIndex.getD 0
               occurrences := 1, detail := .tally c none }] with
          remaining := (s.bay.lot a.lot).remaining + (a.qty - a.units), openSublots := (s.bay.lot a.lot).openSublots - 1
          saved := some .active } := by
    rw [show (s.bay.lot a.lot).oneClosed.holds = [] from hh]
    rfl
  rw [hheld]
  rfl

/-- R48, R83: the slots of a cell that has given up its load, all emptied. -/
theorem CellRec.linkGone_loadGone (r : CellRec) (ld : LoadRec) :
    (r.undue.loadGone ld .offline).linkGone = { r.linkGone with
      state := .offline, offerDeadline := none, assignment := none, load := none } := by
  have hslots : (r.slots.set ld.slot { r.slots[ld.slot] with state := .empty, image := none }).map Slot.emptied
      = r.slots.map Slot.emptied := by
    refine Vector.ext fun i hi => ?_
    rw [Vector.getElem_map, Vector.getElem_map, Vector.getElem_set]
    split
    · next he =>
      subst he
      rfl
    · rfl
  exact congrArg (fun v => { r.linkGone with
    state := .offline, offerDeadline := none, assignment := none, load := none, slots := v }) hslots

/-- Settles O44: by the state of the cell. -/
theorem cellLineLoss : Obligations.CellLineLoss := by
  intro c s hq r emptied r' down leaves
  have hne {st st' : CellState} (h : r.state = st) (hst : st ≠ st') : (s.bay.cell c).state ≠ st' := fun he => hst (h.symm.trans he)
  refine ⟨fun hst => ?_, fun hst => ?_, fun hst ld hl he => ?_, fun a ha => ⟨fun hst hni hk => loss_offered hq hst ha hni hk,
    fun hst hact hh ho => ?_⟩⟩
  · have heq := Bay.linkLost_offline (x := s.ctx) (b := s.newEvent.bay) hst
    exact leaves_of_loss hq (heq ▸ Bay.bare_modCell ..) rfl (by simp)
  · have heq := Bay.endWork_unassigned (x := s.ctx) (b := s.newEvent.bay) hst
    refine loss_ends (reported := []) hq (ne_of_mem_of_not_mem hst (by decide)) (heq ▸ Bay.bare_modCell ..) rfl (by simp)
  · intro gone
    have hcell : ((s.bay.cell c).undue.loadGone ld .offline).linkGone = { r' with load := none } := CellRec.linkGone_loadGone ..
    refine ⟨fun ha => ?_, fun a ha hni hk => ?_⟩
    · have hgone := loss_loading_none hq hst hl ha he
      rw [hcell] at hgone
      exact hgone
    · have hgone := loss_loading_some hq hst hl ha he hni hk
      rw [hcell] at hgone
      exact hgone
  · intro l e l'
    have hrun := loss_running hq hst ha hact hh ho
    have hl' : l' = { l.heldWith [e] with
        remaining := l.remaining + (a.qty - a.units), openSublots := l.openSublots - 1, saved := some .active } := by
      have hsaved : (l.heldWith [e]).saved = some .active := if_pos hact
      simp only [l']
      rw [← hsaved]
    show Leaves _ s (s.portDown c { (s.records.setLot a.lot l').setCell c _ with queue := _ }) _
    rw [hl']
    exact hrun

end Sys2Proof.Machine

/-!
PROOF. A closing TALLY (section 7.1): the sublot closes at its cell, a fault in the counts holds the lot, and the uncounted quantity
returns.
-/

namespace Sys2Proof.Machine

/-! ### The cell (R47, R82, R145) -/

/-- R82: the slot of a closing assignment that becomes EMPTY, its program carrying NO_RETAIN. -/
def CellRec.drops (t : Tables) (r : CellRec) (k : SlotNo) : Bool :=
  decide (r.slots[k].state ≠ .empty) && r.slots[k].image.any fun x => (t.entryOf x.1).any (·.noRetain)

/-- R145: a cell whose unsent FINISH is removed and whose NO_RETAIN slot is emptied. -/
def CellRec.tallied (t : Tables) (r : CellRec) (a : Assignment) (k : SlotNo) : CellRec :=
  { r with
    slots := if r.drops t k then r.slots.set k { r.slots[k] with state := .empty, image := none } else r.slots
    commands := r.commands.filter (!·.finishes a.id) }

/-- R145: a cell whose sublot a TALLY has closed. -/
def CellRec.tallyClosed (t : Tables) (r : CellRec) (a : Assignment) (k : SlotNo) : CellRec := (r.tallied t a k).closedAs r.afterTally

theorem CellRec.drops_iff {t : Tables} {r : CellRec} {k : SlotNo} :
    r.drops t k = true ↔ r.slots[k].state ≠ .empty ∧ ∃ program revision, r.slots[k].image = some (program, revision)
      ∧ ∃ e, t.entryOf program = some e ∧ e.noRetain = true := by
  unfold CellRec.drops
  rw [Bool.and_eq_true, decide_eq_true_eq]
  refine and_congr_right fun _ => ?_
  simp only [Option.any_eq_true, Prod.exists]

theorem CellRec.slots_tallied (t : Tables) (r : CellRec) (a : Assignment) (k : SlotNo) :
    (r.drops t k = true → r.tallied t a k = { r with
      slots := r.slots.set k { r.slots[k] with state := .empty, image := none }, commands := r.commands.filter (!·.finishes a.id) })
    ∧ (¬r.drops t k = true → r.tallied t a k = { r with commands := r.commands.filter (!·.finishes a.id) }) := by
  unfold CellRec.tallied
  exact ⟨fun h => by rw [if_pos h], fun h => by rw [if_neg h]⟩

theorem Bay.dropUnretained_eq {x : Ctx} {b : Bay} {c : CellNo} {a : Assignment} {k : SlotNo} (hk : a.slot = some k) :
    b.dropUnretained x c a = if (b.cell c).drops x.tables k then b.modSlot c k Slot.emptied else b := by
  unfold Bay.dropUnretained CellRec.drops
  rw [hk]
  dsimp only
  cases him : (b.cell c).slots[k].image with
  | none => rw [Option.any_none, Bool.and_false]; rfl
  | some im => simp only [Option.any_some, Bool.and_eq_true, decide_eq_true_eq]

/-! ### The sublot -/

/-- R145: the record of a lot to a step of which missing units have been added. -/
def LotRec.missed (l : LotRec) (step : Nat) (missing : BitVec 24) : LotRec :=
  l.modStep step fun r => { r with missing := add24 r.missing missing.toNat }

theorem Bay.bare_tallied {x : Ctx} {b : Bay} {c : CellNo} {a : Assignment} {k : SlotNo} (hk : a.slot = some k) (missing : BitVec 24) :
    (b.tallied x c a missing).bare
        = (b.bare.setLot a.lot ((b.lot a.lot).missed a.step missing)).setCell c ((b.cell c).tallied x.tables a k)
      ∧ (b.tallied x c a missing).stamped = b.stamped := by
  have hlot : (b.modLot a.lot fun l => l.modStep a.step fun r => { r with missing := add24 r.missing missing.toNat })
      = b.setLot a.lot ((b.lot a.lot).missed a.step missing) := Bay.modLot_same rfl
  have hmod : ((b.setLot a.lot ((b.lot a.lot).missed a.step missing)).modCell c fun r =>
      { r with commands := r.commands.filter (!·.finishes a.id) }).cell c
        = { b.cell c with commands := (b.cell c).commands.filter (!·.finishes a.id) } := Bay.cell_modCell_self ..
  have hdrops : ({ b.cell c with commands := (b.cell c).commands.filter (!·.finishes a.id) } : CellRec).drops x.tables k
      = (b.cell c).drops x.tables k := rfl
  unfold Bay.tallied
  rw [hlot, Bay.dropUnretained_eq hk, hmod, hdrops]
  by_cases hdrop : (b.cell c).drops x.tables k = true
  · rw [if_pos hdrop, (CellRec.slots_tallied ..).1 hdrop]
    unfold Bay.modSlot
    rw [Bay.bare_modCell, Bay.bare_modCell, Bay.setCell_setCell, hmod, Bay.stamped_modCell, Bay.stamped_modCell]
    exact ⟨rfl, rfl⟩
  · rw [if_neg hdrop, (CellRec.slots_tallied ..).2 hdrop, Bay.bare_modCell, Bay.stamped_modCell]
    exact ⟨rfl, rfl⟩

/-- R145: the bay of a closing TALLY as its sublot has closed. -/
def Bay.tallyEnded (x : Ctx) (b : Bay) (c : CellNo) (a : Assignment) (missing : BitVec 24) : Bay :=
  (b.tallied x c a missing).closeSublot c (b.cell c).afterTally

theorem Bay.bare_tallyEnded {x : Ctx} {b : Bay} {c : CellNo} {a : Assignment} {k : SlotNo} (ha : (b.cell c).assignment = some a)
    (hk : a.slot = some k) (missing : BitVec 24) :
    (b.tallyEnded x c a missing).bare = (b.bare.setLot a.lot ((b.lot a.lot).missed a.step missing).oneClosed).setCell c
        ((b.cell c).tallyClosed x.tables a k)
      ∧ (b.tallyEnded x c a missing).stamped = b.stamped ∧ .cellState c ∈ (b.tallyEnded x c a missing).notices := by
  obtain ⟨hbare, hst⟩ := Bay.bare_tallied (x := x) (b := b) (c := c) hk missing
  unfold Bay.tallyEnded
  generalize b.tallied x c a missing = d at hbare hst
  have hcell : d.cell c = (b.cell c).tallied x.tables a k := by rw [Bay.cell_of_bare hbare, Bay.cell_setCell_self]
  obtain ⟨hclose, hst', hn⟩ := Bay.bare_closeSublot (b := d) (a := a) (by rw [hcell]; exact ha) (b.cell c).afterTally
  refine ⟨?_, hst'.trans hst, hn⟩
  rw [hclose, hcell, Bay.lot_of_bare hbare, Bay.lot_setCell, Bay.lot_setLot_self, hbare, Bay.setLot_setCell, Bay.setCell_setCell,
    Bay.setLot_setLot]
  rfl

/-- R145: the bay of a closing TALLY as the uncounted quantity has returned. -/
def Bay.tallyReturned (x : Ctx) (b : Bay) (c : CellNo) (a : Assignment) (fault : Option BinNo) (missing : BitVec 24) : Bay :=
  ((b.tallyEnded x c a missing).tallyRaised x c a fault).giveBack x a.lot (a.qty - a.units)

theorem Bay.tallyFrame_closing {x : Ctx} {b : Bay} {c : CellNo} {a : Assignment} {k : SlotNo} (hst : (b.cell c).state = .running)
    (ha : (b.cell c).assignment = some a) (hk : a.slot = some k) {bins : Vector (BitVec 24) 16} {fault : Option BinNo}
    (hf : tallyFault (x.profile (b.lot a.lot) a.step) bins a.bins = fault) (missing : BitVec 24) :
    b.tallyFrame x c a.id bins missing = if (b.cell c).afterTally = .idle then (b.tallyReturned x c a fault missing).matchCell x c
      else b.tallyReturned x c a fault missing := by
  have hafter : ((b.tallied x c a missing).cell c).afterClose = (b.cell c).afterTally := by
    rw [Bay.cell_of_bare (Bay.bare_tallied hk missing).1, Bay.cell_setCell_self]
    rfl
  unfold Bay.tallyFrame
  dsimp only
  rw [ha]
  dsimp only
  rw [if_pos ⟨hst, rfl⟩, Bay.closingTally_eq]
  dsimp only
  rw [hafter, hf]
  rfl

/-- R145, R61: a closing TALLY, from what its return leaves, the cell being cut nothing. -/
theorem takes_tally {c : CellNo} {lot : Half} {bins : Vector (BitVec 24) 16} {returned missing : BitVec 24} {a : Assignment}
    {k : SlotNo} {s : State} (ht : s.TakesFrame c .tally) (hst : (s.bay.cell c).state = .running)
    (ha : (s.bay.cell c).assignment = some a) (hk : a.slot = some k) {fault : Option BinNo}
    (hf : tallyFault s.tables.profiles[((s.bay.lot a.lot).routeStep a.step).profile] bins a.bins = fault) {b' : Bay} {rec : Records}
    {reported : List Notice}
    (hb : (s.newEvent.bay.tallyReturned s.ctx c a fault missing).bare = b'.setCell c ((s.bay.cell c).tallyClosed s.tables a k))
    (hrest : (s.bay.cell c).afterTally = .idle → ∀ h ∈ b'.queue, (s.bay.cell c).FitsNot s.tables (b'.lot h) h)
    (hr : ({ s with bay := b'.setCell c ((s.bay.cell c).tallyClosed s.tables a k) } : State).records = rec)
    (hn : ∀ n ∈ reported, n ∈ (s.newEvent.bay.tallyReturned s.ctx c a fault missing).notices) :
    Takes s c .handler lot (.tally a.id bins returned missing) rec reported := by
  have hframe := Bay.tallyFrame_closing (x := s.ctx) (b := s.newEvent.bay) (c := c) (bins := bins) hst ha hk hf missing
  refine takes_of_effect (m := .tally a.id bins returned missing) ht (hframe.trans ?_) (records_of_bare hb hr) hn
  split
  · next hi =>
    refine Bay.matchCell_noFit fun h hm _ => ?_
    rw [(Bay.queue_of_bare hb :)] at hm
    rw [Bay.cell_of_bare hb, Bay.cell_setCell_self, Bay.lot_of_bare hb, Bay.lot_setCell]
    exact hrest hi h hm
  · rfl

/-! ### Within the tolerance (R142) -/

theorem tallyFault_none {p : GateProfile} {bins : Vector (BitVec 24) 16} {part : Vector Nat 16}
    (h : ∀ b : BinNo, bins[b].toNat ≤ part[b] + p.tolerance ∧ part[b] ≤ bins[b].toNat + p.tolerance) :
    tallyFault p bins part = none := by
  unfold tallyFault
  rw [List.find?_eq_none]
  intro b _
  have := h b
  rw [decide_eq_true_eq]
  omega

theorem tallyFault_some {p : GateProfile} {bins : Vector (BitVec 24) 16} {part : Vector Nat 16} {b : BinNo}
    (hb : part[b] + p.tolerance < bins[b].toNat ∨ bins[b].toNat + p.tolerance < part[b])
    (hfirst : ∀ j : BinNo, j < b → ¬(part[j] + p.tolerance < bins[j].toNat ∨ bins[j].toNat + p.tolerance < part[j])) :
    tallyFault p bins part = some b := by
  unfold tallyFault
  refine find?_finRange_eq_some (decide_eq_true ?_) fun j hj => decide_eq_false ?_
  · omega
  · have := hfirst j hj
    omega

/-- A lot record with other records of its steps. -/
def LotRec.withSteps (l : LotRec) (steps : List StepRec) : LotRec := { l with steps := steps }

/-- R73: the return of an amount to a lot turns on nothing in the records of its steps. -/
theorem State.givenTo_withSteps (s : State) (h : LotNo) (l : LotRec) (steps : List StepRec) :
    s.givenTo h (l.withSteps steps) = ((s.givenTo h l).1.withSteps steps, (s.givenTo h l).2) := by
  have hplaced : s.placed s.bay.queue h (s.withAge (l.withSteps steps).toActive.restamped)
      = s.placed s.bay.queue h (s.withAge l.toActive.restamped) := s.placed_congr _ _ rfl rfl
  have hopen : (l.withSteps steps).openSublots = l.openSublots := rfl
  unfold State.givenTo
  rw [show (l.withSteps steps).state = l.state from rfl, show (l.withSteps steps).remaining = l.remaining from rfl,
    show (l.withSteps steps).saved = l.saved from rfl, hopen]
  cases l.state
  case closing =>
    dsimp only
    split
    · exact Prod.ext rfl hplaced
    · rfl
  case held =>
    dsimp only
    split <;> rfl
  case aborting =>
    dsimp only
    split <;> rfl
  all_goals rfl

/-- What of a lot the return of an amount leaves as it is. -/
theorem State.givenTo_kept (s : State) (h : LotNo) (l : LotRec) :
    (s.givenTo h l).1.route = l.route ∧ (s.givenTo h l).1.stepIndex = l.stepIndex ∧ (s.givenTo h l).1.cls = l.cls := by
  unfold State.givenTo
  split
  · split <;> exact ⟨rfl, rfl, rfl⟩
  · split <;> exact ⟨rfl, rfl, rfl⟩
  · dsimp only
    split <;> exact ⟨rfl, rfl, rfl⟩
  · exact ⟨rfl, rfl, rfl⟩

/-- R47: a lot that the cell of a closing TALLY would be cut of as it goes IDLE. -/
theorem State.RestsAfterTally.fitsNot {s : State} {c : CellNo} {q : List LotNo} (h : s.RestsAfterTally c q)
    (hi : (s.bay.cell c).afterTally = .idle) {h' : LotNo} (hm : h' ∈ q) {l : LotRec} (hr : l.route = (s.bay.lot h').route)
    (hk : l.stepIndex = (s.bay.lot h').stepIndex) (hc : l.cls = (s.bay.lot h').cls) : (s.bay.cell c).FitsNot s.tables l h' :=
  (h.resolve_left (not_not_intro hi) h' hm).of_lot hr hk hc

/-- R73, R145: a closing TALLY within the tolerance. -/
theorem tally_returns {c : CellNo} {lot : Half} {bins : Vector (BitVec 24) 16} {returned missing : BitVec 24} {a : Assignment}
    {k : SlotNo} {s : State} (ht : s.TakesFrame c .tally) (hni : s.NoIdle) (hst : (s.bay.cell c).state = .running)
    (ha : (s.bay.cell c).assignment = some a) (hk : a.slot = some k)
    (hrest : s.RestsAfterTally c (s.returned a.lot (a.qty - a.units)).2)
    (hf : tallyFault s.tables.profiles[((s.bay.lot a.lot).routeStep a.step).profile] bins a.bins = none)
    (hopen : s.KeepsOpen a.lot (a.qty - a.units)) :
    Takes s c .handler lot (.tally a.id bins returned missing)
      ((({ s.afterReturn a.lot (a.qty - a.units) with lots := s.bay.lots }).setLot a.lot
        ((s.returned a.lot (a.qty - a.units)).1.withSteps ((s.bay.lot a.lot).missed a.step missing).steps)).setCell c
          ((s.bay.cell c).tallyClosed s.tables a k)) [.cellState c] := by
  obtain ⟨hended, hstamped, howed⟩ := Bay.bare_tallyEnded (x := s.ctx) (b := s.newEvent.bay) ha hk missing
  have hreturned : s.newEvent.bay.tallyReturned s.ctx c a none missing
      = (s.newEvent.bay.tallyEnded s.ctx c a missing).giveBack s.ctx a.lot (a.qty - a.units) := rfl
  generalize s.newEvent.bay.tallyEnded s.ctx c a missing = b at hended hstamped howed hreturned
  have hlot : b.lot a.lot = ((s.bay.lot a.lot).missed a.step missing).oneClosed := by
    rw [Bay.lot_of_bare hended, Bay.lot_setCell, Bay.lot_setLot_self]
    rfl
  have hgiven : s.givenTo a.lot ((b.lot a.lot).given (a.qty - a.units))
      = ((s.returned a.lot (a.qty - a.units)).1.withSteps ((s.bay.lot a.lot).missed a.step missing).steps,
        (s.returned a.lot (a.qty - a.units)).2) := by
    rw [hlot, State.returned_eq]
    exact s.givenTo_withSteps a.lot ((s.bay.lot a.lot).oneClosed.given (a.qty - a.units))
      ((s.bay.lot a.lot).missed a.step missing).steps
  have hcell (c' : CellNo) (hne : c ≠ c') : b.cell c' = s.bay.cell c' := by
    rw [Bay.cell_of_bare hended, Bay.cell_setCell_ne _ _ hne]
    rfl
  have hgive := Bay.bare_giveBack_of (s := s) (b := b) (h := a.lot) (amount := a.qty - a.units)
    (fun h' hne => by
      rw [Bay.lot_of_bare hended, Bay.lot_setCell, Bay.lot_setLot_ne _ _ hne.symm]
      rfl)
    ((Bay.queue_of_bare hended :).trans rfl) (by rw [hstamped]; exact List.not_mem_nil) (by rw [hlot]; exact hopen.staysOpen)
    fun hm c' hi => by
      by_cases hc : c = c'
      · subst hc
        rw [hlot]
        rw [hgiven] at hm
        rw [Bay.cell_of_bare hended, Bay.cell_setCell_self] at hi ⊢
        exact hrest.fitsNot hi hm rfl rfl rfl
      · rw [hcell c' hc] at hi
        exact absurd hi (hni c')
  rw [hgiven, hended] at hgive
  refine takes_tally ht hst ha hk hf (b' := (s.bay.bare.withQueue (s.returned a.lot (a.qty - a.units)).2).setLot a.lot
    ((s.returned a.lot (a.qty - a.units)).1.withSteps ((s.bay.lot a.lot).missed a.step missing).steps)) ?_ (fun hi h hm => ?_) rfl ?_
  · rw [hreturned, hgive, Bay.withQueue_setCell, Bay.setLot_setCell, Bay.withQueue_setLot, Bay.setLot_setLot]
    rfl
  · by_cases hh : a.lot = h
    · subst hh
      rw [Bay.lot_setLot_self]
      obtain ⟨hr, hk, hc⟩ := s.givenTo_kept a.lot ((s.bay.lot a.lot).oneClosed.given (a.qty - a.units))
      rw [← State.returned_eq] at hr hk hc
      exact hrest.fitsNot hi hm hr hk hc
    · rw [Bay.lot_setLot_ne _ _ hh]
      exact hrest.fitsNot hi hm rfl rfl rfl
  · rw [hreturned]
    exact List.forall_mem_singleton.2 ((Bay.Grows.giveBack ..).1 _ howed)

/-! ### Out of the tolerance (R142, R144) -/

/-- R142, R144, R145: a closing TALLY out of the tolerance. -/
theorem tally_holds {c : CellNo} {lot : Half} {bins : Vector (BitVec 24) 16} {returned missing : BitVec 24} {a : Assignment}
    {k : SlotNo} {b : BinNo} {s : State} (ht : s.TakesFrame c .tally) (hst : (s.bay.cell c).state = .running)
    (ha : (s.bay.cell c).assignment = some a) (hk : a.slot = some k) (hrest : s.RestsAfterTally c (s.bay.queue.filter (· ≠ a.lot)))
    (hf : tallyFault s.tables.profiles[((s.bay.lot a.lot).routeStep a.step).profile] bins a.bins = some b)
    (hl : (s.bay.lot a.lot).state = .active
      ∨ ((s.bay.lot a.lot).state = .closing ∧ 0 < (s.bay.lot a.lot).remaining + (a.qty - a.units)))
    (hh : (s.bay.lot a.lot).holds = []) (ho : ∀ c', s.NamedBy a.lot c' → c' = c) :
    Takes s c .handler lot (.tally a.id bins returned missing)
      { (s.records.setLot a.lot { (s.bay.lot a.lot).heldWith
            [{ kind := .tally, origin := .count, raisedAt := s.part.clock, stepIndex := (s.bay.lot a.lot).stepIndex.getD 0
               occurrences := 1, detail := .tally c (some b) }] with
          saved := some .active, remaining := (s.bay.lot a.lot).remaining + (a.qty - a.units)
          openSublots := (s.bay.lot a.lot).openSublots - 1
          steps := ((s.bay.lot a.lot).missed a.step missing).steps }).setCell c ((s.bay.cell c).tallyClosed s.tables a k) with
        queue := s.bay.queue.filter (· ≠ a.lot) }
      [.lotState a.lot, .cellState c] := by
  obtain ⟨hended, hstamped, howed⟩ := Bay.bare_tallyEnded (x := s.ctx) (b := s.newEvent.bay) ha hk missing
  have hreturned : s.newEvent.bay.tallyReturned s.ctx c a (some b) missing
      = ((s.newEvent.bay.tallyEnded s.ctx c a missing).raise s.ctx a.lot .tally .count (.tally c (some b))).giveBack s.ctx a.lot
        (a.qty - a.units) := rfl
  generalize s.newEvent.bay.tallyEnded s.ctx c a missing = b1 at hended hstamped howed hreturned
  have hlot : b1.lot a.lot = ((s.bay.lot a.lot).missed a.step missing).oneClosed := by
    rw [Bay.lot_of_bare hended, Bay.lot_setCell, Bay.lot_setLot_self]
    rfl
  have hqueue : b1.queue = s.bay.queue := (Bay.queue_of_bare hended :)
  have hno : ∀ c', ¬(b1.cell c').Named a.lot := fun c' hn => by
    rw [Bay.cell_of_bare hended] at hn
    by_cases he : c = c'
    · subst he
      rw [Bay.cell_setCell_self] at hn
      exact CellRec.not_named_closedAs _ _ _ hn
    · rw [Bay.cell_setCell_ne _ _ he] at hn
      exact he (ho c' (CellRec.named_iff.1 hn)).symm
  obtain ⟨hgive, hn⟩ := Bay.bare_raise_giveBack (x := s.ctx) (amount := a.qty - a.units) (by rw [hlot]; exact hl)
    (by rw [hstamped]; exact List.not_mem_nil) hno .tally .count (.tally c (some b))
  rw [← hreturned, hlot, hqueue, hended, Bay.withQueue_setCell, Bay.setLot_setCell, Bay.withQueue_setLot, Bay.setLot_setLot] at hgive
  have hheld : { ((s.bay.lot a.lot).missed a.step missing).oneClosed.heldWith
        (raiseIn ((s.bay.lot a.lot).missed a.step missing).oneClosed.holds
          (raisedEntry s.ctx ((s.bay.lot a.lot).missed a.step missing).oneClosed .tally .count (.tally c (some b)))) with
      saved := some .active, remaining := ((s.bay.lot a.lot).missed a.step missing).oneClosed.remaining + (a.qty - a.units) }
    = { (s.bay.lot a.lot).heldWith
            [{ kind := .tally, origin := .count, raisedAt := s.part.clock, stepIndex := (s.bay.lot a.lot).stepIndex.getD 0
               occurrences := 1, detail := .tally c (some b) }] with
          saved := some .active, remaining := (s.bay.lot a.lot).remaining + (a.qty - a.units)
          openSublots := (s.bay.lot a.lot).openSublots - 1
          steps := ((s.bay.lot a.lot).missed a.step missing).steps } := by
    rw [show ((s.bay.lot a.lot).missed a.step missing).oneClosed.holds = [] from hh]
    rfl
  rw [hheld] at hgive
  refine takes_tally ht hst ha hk hf hgive (fun hi h hm => ?_) rfl (forall_mem_pair (by rw [hreturned]; exact hn) ?_)
  · have hne : a.lot ≠ h := fun he => (of_decide_eq_true (List.mem_filter.1 hm).2 : h ≠ a.lot) he.symm
    rw [Bay.lot_setLot_ne _ _ hne]
    exact hrest.fitsNot hi hm rfl rfl rfl
  · rw [hreturned]
    exact ((Bay.Grows.raise ..).trans (.giveBack ..)).1 _ howed

/-- R82: the two forms of the cell's record, by what becomes of its slot. -/
theorem CellRec.tallyClosed_cases {t : Tables} {r : CellRec} {a : Assignment} {k : SlotNo} {P : CellRec → Prop}
    (h : P (r.tallyClosed t a k)) :
    (r.drops t k = true → P ({ r with
      slots := r.slots.set k { r.slots[k] with state := .empty, image := none }
      commands := r.commands.filter (!·.finishes a.id) }.closedAs r.afterTally))
    ∧ (¬r.drops t k = true → P ({ r with commands := r.commands.filter (!·.finishes a.id) }.closedAs r.afterTally)) := by
  unfold CellRec.tallyClosed at h
  refine ⟨fun hd => ?_, fun hd => ?_⟩
  · rwa [(CellRec.slots_tallied ..).1 hd] at h
  · rwa [(CellRec.slots_tallied ..).2 hd] at h

/-- Settles O37: no fault, or the lowest bin at fault. -/
theorem tallyClosesSublot : Obligations.TallyClosesSublot := by
  refine ⟨?_, ?_⟩
  · intro c lot bins returned missing a k s ht hni r l p hst ha hk hrest htol hopen l' drop r' takes
    have hcases := CellRec.tallyClosed_cases (P := takes) (t := s.tables) (r := r) (a := a) (k := k) (tally_returns (lot := lot) (returned := returned) (missing := missing) ht hni hst ha hk
      hrest (tallyFault_none htol) hopen)
    exact ⟨fun hd => hcases.1 (CellRec.drops_iff.2 hd), fun hd => hcases.2 fun hd' => hd (CellRec.drops_iff.1 hd')⟩
  · intro c lot bins returned missing a k b s ht r l p differs hst ha hk hrest hb hfirst hl hh ho e l' drop r' takes
    have hcases := CellRec.tallyClosed_cases (P := takes) (t := s.tables) (r := r) (a := a) (k := k) (tally_holds (lot := lot) (returned := returned) (missing := missing) ht hst ha hk hrest
      (tallyFault_some hb hfirst) hl hh ho)
    exact ⟨fun hd => hcases.1 (CellRec.drops_iff.2 hd), fun hd => hcases.2 fun hd' => hd (CellRec.drops_iff.1 hd')⟩

end Sys2Proof.Machine

/-!
PROOF. The step-close evaluation (sections 7.2, 7.3) by the TALLY that closes the last sublot of a step: its raises and their hold set,
and the advance of the step.
-/

namespace Sys2Proof.Machine

/-! ### The hold set of an evaluation (R123, R148 to R150) -/

/-- R123, R124: an entry of a kind that is not held has its place between those of the kinds before it and behind it. -/
theorem raiseIn_between {before behind : List HoldEntry} {e : HoldEntry} (h1 : ∀ o ∈ before, o.kind.priority < e.kind.priority)
    (h2 : ∀ o ∈ behind, e.kind.priority < o.kind.priority) : raiseIn (before ++ behind) e = before ++ e :: behind := by
  have hnew : (before ++ behind).any (fun o => decide (o.kind = e.kind)) = false := by
    rw [List.any_eq_false]
    intro o ho hk
    have hkind : o.kind = e.kind := of_decide_eq_true hk
    rcases List.mem_append.1 ho with ho | ho
    · have := h1 o ho
      rw [hkind] at this
      omega
    · have := h2 o ho
      rw [hkind] at this
      omega
  have hpre : ∀ o ∈ before, decide (o.kind.priority < e.kind.priority) = true := fun o ho => decide_eq_true (h1 o ho)
  have hbehind : behind.takeWhile (fun o => decide (o.kind.priority < e.kind.priority)) = []
      ∧ behind.dropWhile (fun o => decide (o.kind.priority < e.kind.priority)) = behind := by
    cases behind with
    | nil => exact ⟨rfl, rfl⟩
    | cons o os =>
      have hn : ¬decide (o.kind.priority < e.kind.priority) = true := by
        have := h2 o List.mem_cons_self
        rw [decide_eq_true_eq]
        omega
      exact ⟨List.takeWhile_cons_of_neg hn, List.dropWhile_cons_of_neg hn⟩
  unfold raiseIn
  rw [hnew, if_neg Bool.false_ne_true, List.takeWhile_append_of_pos hpre, List.dropWhile_append_of_pos hpre, hbehind.1, hbehind.2,
    List.append_nil]

/-- R123: the hold set after raises on a lot whose record is `l`. -/
def raisedHolds (x : Ctx) (l : LotRec) (holds : List HoldEntry) (raises : List (HoldKind × HoldOrigin × HoldDetail)) :
    List HoldEntry :=
  raises.foldl (fun holds r => raiseIn holds (raisedEntry x l r.1 r.2.1 r.2.2)) holds

/-- R150: what an evaluation raises of one kind, if it raises it. -/
theorem raisedHolds_option (x : Ctx) (l : LotRec) {before behind : List HoldEntry} {kind : HoldKind} {origin : HoldOrigin}
    (h1 : ∀ o ∈ before, o.kind.priority < kind.priority) (h2 : ∀ o ∈ behind, kind.priority < o.kind.priority) (d : Option HoldDetail) :
    raisedHolds x l (before ++ behind) (d.map fun d => (kind, origin, d)).toList
      = before ++ ((d.map fun d => raisedEntry x l kind origin d).toList ++ behind) := by
  cases d with
  | none => rfl
  | some d => exact raiseIn_between h1 h2

/-- R149: the detail of a YIELD that an evaluation raises. -/
def yieldDetail (p : GateProfile) (r : StepRec) : Option HoldDetail :=
  if r.waivers.yield = false ∧ 0 < r.tested ∧ yieldFails p r = true then
    some (.yield r.tested r.good (reportedYield r.good r.tested))
  else none

/-- R149: the detail of a BIN that an evaluation raises. -/
def binDetail (p : GateProfile) (r : StepRec) : Option HoldDetail :=
  if r.waivers.bin = false ∧ 0 < r.tested then (failingBin p r).map .bin else none

theorem closingRaises_eq (p : GateProfile) (r : StepRec) :
    closingRaises p r = ((lossDetail p r).map fun d => (HoldKind.count, HoldOrigin.count, d)).toList
      ++ ((yieldDetail p r).map fun d => (HoldKind.yield, HoldOrigin.gate, d)).toList
      ++ ((binDetail p r).map fun d => (HoldKind.bin, HoldOrigin.gate, d)).toList := by
  unfold closingRaises yieldDetail binDetail
  dsimp only
  refine congrArg₂ (· ++ ·) (congrArg₂ (· ++ ·) ?_ ?_) ?_
  · cases lossDetail p r <;> rfl
  · by_cases hy : r.waivers.yield = false ∧ 0 < r.tested ∧ yieldFails p r = true
    · rw [if_pos hy, if_pos (by simpa [and_assoc] using hy)]
      rfl
    · rw [if_neg hy, if_neg (by simpa [and_assoc] using hy)]
      rfl
  · by_cases hb : r.waivers.bin = false ∧ 0 < r.tested
    · rw [if_pos hb, if_pos (by simpa using hb)]
      cases failingBin p r <;> rfl
    · rw [if_neg hb, if_neg (by simpa using hb)]
      rfl

/-- R124, R150: the hold set that an evaluation leaves of a lot without holds. -/
def evaluatedHolds (x : Ctx) (l : LotRec) (p : GateProfile) (r : StepRec) : List HoldEntry :=
  ((lossDetail p r).map fun d => raisedEntry x l .count .count d).toList
    ++ ((binDetail p r).map fun d => raisedEntry x l .bin .gate d).toList
    ++ ((yieldDetail p r).map fun d => raisedEntry x l .yield .gate d).toList

theorem raisedHolds_closingRaises (x : Ctx) (l : LotRec) (p : GateProfile) (r : StepRec) :
    raisedHolds x l [] (closingRaises p r) = evaluatedHolds x l p r := by
  have hkind {kind : HoldKind} {origin : HoldOrigin} {d : Option HoldDetail} {o : HoldEntry}
      (ho : o ∈ (d.map fun d => raisedEntry x l kind origin d).toList) : o.kind = kind := by
    rw [Option.mem_toList, Option.map_eq_some_iff] at ho
    obtain ⟨d, _, rfl⟩ := ho
    rfl
  have hcount := raisedHolds_option x l (before := []) (behind := []) (kind := .count) (origin := .count) (by simp) (by simp)
    (lossDetail p r)
  have hyield := raisedHolds_option x l (before := ((lossDetail p r).map fun d => raisedEntry x l .count .count d).toList) (behind := [])
    (kind := .yield) (origin := .gate) (fun o ho => by rw [hkind ho]; decide) (by simp) (yieldDetail p r)
  have hbin := raisedHolds_option x l (before := ((lossDetail p r).map fun d => raisedEntry x l .count .count d).toList)
    (behind := ((yieldDetail p r).map fun d => raisedEntry x l .yield .gate d).toList) (kind := .bin) (origin := .gate)
    (fun o ho => by rw [hkind ho]; decide) (fun o ho => by rw [hkind ho]; decide) (binDetail p r)
  simp only [List.append_nil, List.nil_append] at hcount hyield hbin
  rw [closingRaises_eq]
  unfold raisedHolds at hcount hyield hbin ⊢
  rw [List.foldl_append, List.foldl_append, hcount, hyield, hbin]
  exact (List.append_assoc ..).symm

theorem closingRaises_eq_nil {x : Ctx} {l : LotRec} {p : GateProfile} {r : StepRec} :
    closingRaises p r = [] ↔ evaluatedHolds x l p r = [] := by
  rw [closingRaises_eq]
  unfold evaluatedHolds
  simp only [List.append_eq_nil_iff, Option.toList_eq_nil_iff, Option.map_eq_none_iff]
  tauto

/-- R7: a lot that becomes HELD with a hold set. -/
theorem LotRec.toHeld_with {l : LotRec} {holds : List HoldEntry} (hl : l.state ∈ [.active, .closing, .complete]) :
    { l.toHeld with ageDeadline := none, holds := holds, stamp := l.stamp + 1 } = l.heldWith holds := by
  simp only [List.mem_cons, List.not_mem_nil, or_false] at hl
  unfold LotRec.toHeld LotRec.heldWith
  rcases hl with h | h | h <;> simp [h, LotState.toSaved]

namespace Bay.Follows

variable {s : State} {base : Bay} {h : LotNo} {l0 : LotRec}

/-- R150: the raises of an evaluation on a HELD lot. -/
theorem raiseEntries_held : ∀ (raises : List (HoldKind × HoldOrigin × HoldDetail)) {b : Bay} {l : LotRec}, b.Follows base h l0 l →
    l.state = .held → (b.raiseEntries s.ctx h raises).Follows base h l0 { l with holds := raisedHolds s.ctx l l.holds raises }
  | [], _, _, hb, _ => hb
  | r :: raises, _, _, hb, hl => raiseEntries_held raises (hb.raiseEntry_held (s := s) hl r.1 r.2.1 r.2.2) hl

/-- R7, R150: the raises of an evaluation on a CLOSING lot. -/
theorem raiseEntries_first {raises : List (HoldKind × HoldOrigin × HoldDetail)} (hr : raises ≠ []) {b : Bay} {l : LotRec}
    (hb : b.Follows base h l0 l) (hl : l.state = .closing) :
    (b.raiseEntries s.ctx h raises).Follows (base.withQueue (base.queue.filter (· ≠ h))) h l0
      { l.toHeld with ageDeadline := none, holds := raisedHolds s.ctx l l.holds raises } := by
  cases raises with
  | nil => exact absurd rfl hr
  | cons r raises =>
    exact (hb.raiseEntry_first (s := s) (by rw [hl]; decide) r.1 r.2.1 r.2.2).raiseEntries_held (s := s) raises rfl

/-- R9: the record's own stamp says nothing. -/
theorem of_withStamp {b : Bay} {l : LotRec} {n : Stamp} (hb : b.Follows base h l0 (l.withStamp n)) : b.Follows base h l0 l :=
  ⟨hb.bare, hb.kept, hb.owed⟩

end Bay.Follows

/-! ### The last TALLY of a step -/

/-- R145, R147: the record of a lot as the last sublot of its open step has closed, that step's record being `rec`. -/
def LotRec.lastClosed (l : LotRec) (step : Nat) (rec : StepRec) : LotRec := { l with openSublots := 0 }.counted step rec

/-- R141, R147: a TALLY closes the last sublot of a step, nothing returning. -/
structure State.LastTally (s : State) (c : CellNo) (bins : Vector (BitVec 24) 16) (a : Assignment) (k : SlotNo) (rec : StepRec) : Prop where
  taken : s.TakesFrame c .tally
  running : (s.bay.cell c).state = .running
  assigned : (s.bay.cell c).assignment = some a
  slot : a.slot = some k
  agrees : ∀ b : BinNo, bins[b].toNat = a.bins[b]
  step : 1 ≤ a.step
  opened : (s.bay.lot a.lot).stepIndex = some a.step
  record : (s.bay.lot a.lot).steps[a.step - 1]? = some rec
  cut : (s.bay.lot a.lot).remaining = 0
  last : (s.bay.lot a.lot).openSublots = 1
  counted : a.qty ≤ a.units
  unevaluated : rec.closeEvaluated = false

namespace State.LastTally

variable {s : State} {c : CellNo} {bins : Vector (BitVec 24) 16} {a : Assignment} {k : SlotNo} {rec : StepRec}

/-- The base of the event: the bay with the cell's sublot closed. -/
def closedBay (s : State) (c : CellNo) (a : Assignment) (k : SlotNo) : Bay :=
  s.bay.bare.setCell c ((s.bay.cell c).tallyClosed s.tables a k)

/-- R145: the step's record with its missing units. -/
def missedRec (rec : StepRec) (missing : BitVec 24) : StepRec := { rec with missing := add24 rec.missing missing.toNat }

theorem openIndex_lastClosed (hf : s.LastTally c bins a k rec) (rec' : StepRec) :
    ((s.bay.lot a.lot).lastClosed a.step rec').openIndex = a.step := by
  show (s.bay.lot a.lot).stepIndex.getD 0 = a.step
  rw [hf.opened]
  rfl

theorem stepRec_lastClosed (hf : s.LastTally c bins a k rec) (missing : BitVec 24) :
    ((s.bay.lot a.lot).lastClosed a.step (missedRec rec missing)).stepRec
      ((s.bay.lot a.lot).lastClosed a.step (missedRec rec missing)).openIndex = missedRec rec missing := by
  rw [hf.openIndex_lastClosed]
  exact LotRec.stepRec_counted (l := { s.bay.lot a.lot with openSublots := 0 }) hf.record

/-- The bay that is evaluated. -/
structure Evaluates (s : State) (c : CellNo) (a : Assignment) (k : SlotNo) (rec : StepRec) (missing : BitVec 24) (b : Bay) : Prop where
  returned : s.newEvent.bay.tallyReturned s.ctx c a none missing = b.evaluate s.ctx a.lot
  follows : b.Follows (closedBay s c a k) a.lot (s.bay.lot a.lot) ((s.bay.lot a.lot).lastClosed a.step (missedRec rec missing))
  stamped : b.stamped = []
  owed : .cellState c ∈ b.notices

theorem evaluates (hf : s.LastTally c bins a k rec) (missing : BitVec 24)
    (hl : (s.bay.lot a.lot).state = .closing ∨ ((s.bay.lot a.lot).state = .held ∧ (s.bay.lot a.lot).saved = some .closing)) :
    ∃ b, Evaluates s c a k rec missing b := by
  obtain ⟨hended, hstamped, howed⟩ := Bay.bare_tallyEnded (x := s.ctx) (b := s.newEvent.bay) hf.assigned hf.slot missing
  have hreturned : s.newEvent.bay.tallyReturned s.ctx c a none missing
      = (s.newEvent.bay.tallyEnded s.ctx c a missing).giveBack s.ctx a.lot (a.qty - a.units) := rfl
  generalize s.newEvent.bay.tallyEnded s.ctx c a missing = b at hended hstamped howed hreturned
  have hlast : (((s.bay.lot a.lot).missed a.step missing).oneClosed).given (a.qty - a.units)
      = (s.bay.lot a.lot).lastClosed a.step (missedRec rec missing) := by
    have hmissed : (s.bay.lot a.lot).missed a.step missing = (s.bay.lot a.lot).counted a.step (missedRec rec missing) :=
      LotRec.modStep_eq hf.record _
    rw [hmissed, Nat.sub_eq_zero_of_le hf.counted]
    unfold LotRec.oneClosed LotRec.lastClosed LotRec.counted LotRec.given
    rw [hf.last]
    rfl
  refine ⟨b.setLot a.lot ((s.bay.lot a.lot).lastClosed a.step (missedRec rec missing)), ?_, ?_, ?_, ?_⟩
  · have hlot : b.lot a.lot = ((s.bay.lot a.lot).missed a.step missing).oneClosed := by
      rw [Bay.lot_of_bare hended, Bay.lot_setCell, Bay.lot_setLot_self]
      rfl
    have hnone : ¬0 < ((s.bay.lot a.lot).lastClosed a.step (missedRec rec missing)).remaining := by
      show ¬0 < (s.bay.lot a.lot).remaining
      rw [hf.cut]
      exact Nat.lt_irrefl 0
    have hclose : ((s.bay.lot a.lot).lastClosed a.step (missedRec rec missing)).openSublots = 0
        ∧ ((s.bay.lot a.lot).lastClosed a.step (missedRec rec missing)).unevaluated = true := by
      refine ⟨rfl, ?_⟩
      unfold LotRec.unevaluated
      rw [hf.stepRec_lastClosed missing, show (missedRec rec missing).closeEvaluated = false from hf.unevaluated]
      rfl
    rw [hreturned, Bay.giveBack_eq, Bay.modLot_same rfl, hlot, hlast]
    unfold Bay.afterGiven
    rw [Bay.lot_setLot_self]
    rcases hl with hl | ⟨hl, hsaved⟩
    · rw [show ((s.bay.lot a.lot).lastClosed a.step (missedRec rec missing)).state = .closing from hl]
      dsimp only
      rw [if_neg hnone, if_pos hclose]
    · rw [show ((s.bay.lot a.lot).lastClosed a.step (missedRec rec missing)).state = .held from hl]
      dsimp only
      rw [if_pos (show ((s.bay.lot a.lot).lastClosed a.step (missedRec rec missing)).saved = some .closing from hsaved), if_neg hnone,
        if_pos hclose]
  · refine ⟨?_, fun _ => rfl, fun hm => ?_⟩
    · rw [if_neg (by rw [Bay.stamped_setLot, hstamped]; exact List.not_mem_nil), Bay.bare_setLot, hended, Bay.setLot_setCell,
        Bay.setLot_setLot]
      rfl
    · rw [Bay.stamped_setLot, hstamped] at hm
      cases hm
  · exact hstamped
  · exact howed

/-- R145, R61: the event, from what the evaluation leaves, the cell being cut nothing. -/
theorem takes (hf : s.LastTally c bins a k rec) {missing : BitVec 24} {b : Bay} (he : Evaluates s c a k rec missing b) {q : List LotNo}
    {l' : LotRec} {reported : List Notice}
    (hb : (b.evaluate s.ctx a.lot).bare = ((closedBay s c a k).withQueue q).setLot a.lot l')
    (hrest : (s.bay.cell c).afterTally = .idle → ∀ h ∈ q, (h = a.lot → (s.bay.cell c).FitsNot s.tables l' a.lot)
      ∧ (h ≠ a.lot → (s.bay.cell c).FitsNot s.tables (s.bay.lot h) h))
    (hn : ∀ n ∈ reported, n ∈ (b.evaluate s.ctx a.lot).notices) (lot : Half) (returned : BitVec 24) :
    Takes s c .handler lot (.tally a.id bins returned missing)
      { (s.records.setLot a.lot l').setCell c ((s.bay.cell c).tallyClosed s.tables a k) with queue := q }
      (reported ++ [.cellState c]) := by
  have htol : ∀ j : BinNo, bins[j].toNat ≤ a.bins[j] + s.tables.profiles[((s.bay.lot a.lot).routeStep a.step).profile].tolerance
      ∧ a.bins[j] ≤ bins[j].toNat + s.tables.profiles[((s.bay.lot a.lot).routeStep a.step).profile].tolerance := fun j => by
    have := hf.agrees j
    omega
  refine takes_tally hf.taken hf.running hf.assigned hf.slot (tallyFault_none htol) (b' := (s.bay.bare.withQueue q).setLot a.lot l')
    (by rw [he.returned]; exact hb) (fun hi h hm => ?_) rfl fun n hm => ?_
  · by_cases hh : a.lot = h
    · subst hh
      rw [Bay.lot_setLot_self]
      exact (hrest hi _ hm).1 rfl
    · rw [Bay.lot_setLot_ne _ _ hh]
      exact (hrest hi _ hm).2 (Ne.symm hh)
  · rw [he.returned]
    rcases List.mem_append.1 hm with hm | hm
    · exact hn n hm
    · cases List.mem_singleton.1 hm
      exact (Bay.Grows.evaluate ..).1 _ he.owed

/-- R149: the step's record as it has been evaluated. -/
def evaluatedRec (rec : StepRec) (missing : BitVec 24) : StepRec := { missedRec rec missing with closeEvaluated := true }

theorem closing_eq (hf : s.LastTally c bins a k rec) {missing : BitVec 24} {b : Bay} (he : Evaluates s c a k rec missing b) :
    b.closing s.ctx a.lot = closingRaises s.tables.profiles[((s.bay.lot a.lot).routeStep a.step).profile] rec
      ∧ (b.lot a.lot).openIndex = a.step ∧ (b.lot a.lot).state = (s.bay.lot a.lot).state := by
  have hopen : (b.lot a.lot).openIndex = a.step := by
    rw [he.follows.lot]
    exact hf.openIndex_lastClosed (missedRec rec missing)
  have hrec : (b.lot a.lot).stepRec a.step = missedRec rec missing := by
    have := hf.stepRec_lastClosed missing
    rw [hf.openIndex_lastClosed] at this
    rw [he.follows.lot]
    exact this
  have hprofile : s.ctx.profile (b.lot a.lot) a.step = s.tables.profiles[((s.bay.lot a.lot).routeStep a.step).profile] := by
    rw [he.follows.lot]
    rfl
  refine ⟨?_, hopen, by rw [he.follows.lot]; rfl⟩
  unfold Bay.closing
  rw [hopen, hrec, hprofile]
  rfl

theorem evaluated_counted (hf : s.LastTally c bins a k rec) (missing : BitVec 24) (l : LotRec)
    (hl : l.steps = (s.bay.lot a.lot).steps.set (a.step - 1) (missedRec rec missing)) :
    l.evaluated a.step = l.counted a.step (evaluatedRec rec missing)
      ∧ (l.counted a.step (evaluatedRec rec missing)).steps = (s.bay.lot a.lot).steps.set (a.step - 1) (evaluatedRec rec missing) := by
  obtain ⟨hlt, _⟩ := List.getElem?_eq_some_iff.1 hf.record
  refine ⟨LotRec.modStep_eq (by rw [hl]; exact List.getElem?_set_self hlt) _, ?_⟩
  show l.steps.set (a.step - 1) _ = _
  rw [hl, List.set_set]

/-- R150: something is raised on a CLOSING lot. -/
theorem held (hf : s.LastTally c bins a k rec) {missing : BitVec 24} {b : Bay} (he : Evaluates s c a k rec missing b)
    (hl : (s.bay.lot a.lot).state = .closing) (hh : (s.bay.lot a.lot).holds = [])
    (hr : closingRaises s.tables.profiles[((s.bay.lot a.lot).routeStep a.step).profile] rec ≠ []) :
    (b.evaluate s.ctx a.lot).bare
        = ((closedBay s c a k).withQueue (s.bay.queue.filter (· ≠ a.lot))).setLot a.lot
            { (s.bay.lot a.lot).heldWith (evaluatedHolds s.ctx (s.bay.lot a.lot)
                s.tables.profiles[((s.bay.lot a.lot).routeStep a.step).profile] rec) with
              openSublots := 0, steps := (s.bay.lot a.lot).steps.set (a.step - 1) (evaluatedRec rec missing) }
      ∧ .lotState a.lot ∈ (b.evaluate s.ctx a.lot).notices := by
  obtain ⟨hclosing, hopen, hstate⟩ := hf.closing_eq he
  have hraised := he.follows.raiseEntries_first (s := s) hr hl
  have heval : b.evaluate s.ctx a.lot = (b.raiseEntries s.ctx a.lot (closingRaises
      s.tables.profiles[((s.bay.lot a.lot).routeStep a.step).profile] rec)).modLot a.lot (LotRec.evaluated a.step) := by
    rw [Bay.evaluate_eq, hclosing, hopen, if_neg fun hc => hr hc.2]
  have hdone := hraised.modLot (f := LotRec.evaluated a.step) fun n => rfl
  rw [← heval, (hf.evaluated_counted missing _ rfl).1] at hdone
  have hst := hdone.stamped_of_ne fun hsame => by
    have hs : LotState.held = (s.bay.lot a.lot).state := congrArg Prod.fst hsame
    rw [hl] at hs
    cases hs
  refine ⟨?_, hdone.owed hst⟩
  rw [hdone.bare_stamped hst]
  refine congrArg (Bay.setLot _ a.lot) ?_
  have hholds : raisedHolds s.ctx ((s.bay.lot a.lot).lastClosed a.step (missedRec rec missing)) (s.bay.lot a.lot).holds
      (closingRaises s.tables.profiles[((s.bay.lot a.lot).routeStep a.step).profile] rec)
      = evaluatedHolds s.ctx (s.bay.lot a.lot) s.tables.profiles[((s.bay.lot a.lot).routeStep a.step).profile] rec := by
    rw [hh]
    exact raisedHolds_closingRaises s.ctx (s.bay.lot a.lot) _ _
  have hsteps := (hf.evaluated_counted missing ((s.bay.lot a.lot).lastClosed a.step (missedRec rec missing)) rfl).2
  rw [← LotRec.toHeld_with (by rw [hl]; decide)]
  exact congrArg₂ (fun holds steps => ({ (s.bay.lot a.lot).toHeld with
    ageDeadline := none, stamp := (s.bay.lot a.lot).stamp + 1, openSublots := 0, holds := holds, steps := steps } : LotRec)) hholds hsteps

/-- R147: a lot that is HELD already, nothing raised. -/
theorem heldAlready (hf : s.LastTally c bins a k rec) {missing : BitVec 24} {b : Bay} (he : Evaluates s c a k rec missing b)
    (hl : (s.bay.lot a.lot).state = .held)
    (hr : closingRaises s.tables.profiles[((s.bay.lot a.lot).routeStep a.step).profile] rec = []) :
    (b.evaluate s.ctx a.lot).bare = ((closedBay s c a k).withQueue s.bay.queue).setLot a.lot
      { s.bay.lot a.lot with
        openSublots := 0, steps := (s.bay.lot a.lot).steps.set (a.step - 1) (evaluatedRec rec missing) } := by
  obtain ⟨hclosing, hopen, hstate⟩ := hf.closing_eq he
  have heval : b.evaluate s.ctx a.lot = b.modLot a.lot (LotRec.evaluated a.step) := by
    rw [Bay.evaluate_eq, hclosing, hopen, hr, if_neg fun hc => nomatch (hl.symm.trans (hstate.symm.trans hc.1) : LotState.held = .closing)]
    rfl
  have hdone := he.follows.modLot (f := LotRec.evaluated a.step) fun n => rfl
  obtain ⟨hcounted, hsteps⟩ := hf.evaluated_counted missing ((s.bay.lot a.lot).lastClosed a.step (missedRec rec missing)) rfl
  have hst : (b.modLot a.lot (LotRec.evaluated a.step)).stamped = [] := by
    rw [Bay.modLot_same rfl]
    exact he.stamped
  rw [heval, hdone.bare, hcounted, if_neg (by rw [hst]; exact List.not_mem_nil)]
  exact congrArg (fun steps => (closedBay s c a k).setLot a.lot { s.bay.lot a.lot with openSublots := 0, steps := steps }) hsteps

/-- R12: the record of the lot as its step has closed. -/
def closedLot (s : State) (a : Assignment) (rec : StepRec) (missing : BitVec 24) : LotRec :=
  { s.bay.lot a.lot with openSublots := 0 }.advancedFrom a.step (evaluatedRec rec missing)

/-- R147, R150: nothing is raised on a CLOSING lot, whose step advances. -/
theorem advances (hf : s.LastTally c bins a k rec) {missing : BitVec 24} {b : Bay} (he : Evaluates s c a k rec missing b)
    (hl : (s.bay.lot a.lot).state = .closing)
    (hr : closingRaises s.tables.profiles[((s.bay.lot a.lot).routeStep a.step).profile] rec = []) :
    ∃ b' : Bay, b.evaluate s.ctx a.lot = b'.advance s.ctx a.lot
      ∧ b'.Follows (closedBay s c a k) a.lot (s.bay.lot a.lot) ((s.bay.lot a.lot).lastClosed a.step (evaluatedRec rec missing)) := by
  obtain ⟨hclosing, hopen, hstate⟩ := hf.closing_eq he
  refine ⟨b.modLot a.lot (LotRec.evaluated a.step), ?_, ?_⟩
  · rw [Bay.evaluate_eq, hclosing, hopen, hr, if_pos ⟨hstate.trans hl, rfl⟩]
    rfl
  · have hdone := he.follows.modLot (f := LotRec.evaluated a.step) fun n => rfl
    obtain ⟨hcounted, hsteps⟩ := hf.evaluated_counted missing ((s.bay.lot a.lot).lastClosed a.step (missedRec rec missing)) rfl
    have hlast : ((s.bay.lot a.lot).lastClosed a.step (missedRec rec missing)).evaluated a.step
        = (s.bay.lot a.lot).lastClosed a.step (evaluatedRec rec missing) := by
      rw [hcounted]
      exact congrArg (fun steps => ({ s.bay.lot a.lot with openSublots := 0, steps := steps } : LotRec)) hsteps
    rw [hlast] at hdone
    exact hdone

theorem closeStep_lastClosed (hf : s.LastTally c bins a k rec) (missing : BitVec 24) :
    ((s.bay.lot a.lot).lastClosed a.step (evaluatedRec rec missing)).closeStep a.step
      = (closedLot s a rec missing).withStamp (s.bay.lot a.lot).stamp := by
  obtain ⟨hlt, _⟩ := List.getElem?_eq_some_iff.1 hf.record
  rw [LotRec.closeStep_eq_set (r := evaluatedRec rec missing) (List.getElem?_set_self hlt)]
  unfold LotRec.lastClosed LotRec.counted closedLot LotRec.advancedFrom
  simp only [List.set_set]
  rfl

/-- R12, R152: the last step of the route. -/
theorem advance_last (hf : s.LastTally c bins a k rec) {missing : BitVec 24} {b : Bay}
    (hb : b.Follows (closedBay s c a k) a.lot (s.bay.lot a.lot) ((s.bay.lot a.lot).lastClosed a.step (evaluatedRec rec missing)))
    (hlen : (s.bay.lot a.lot).route.length = a.step) :
    (b.advance s.ctx a.lot).Follows (closedBay s c a k) a.lot (s.bay.lot a.lot) (s.completed (closedLot s a rec missing)) := by
  have hopen := hf.openIndex_lastClosed (evaluatedRec rec missing)
  have hlast := hb.advance_last (s := s) (by rw [hopen]; exact Nat.le_of_eq hlen)
  rw [hopen, hf.closeStep_lastClosed] at hlast
  exact hlast.of_withStamp

/-- R12, R13: a step that follows. -/
theorem advance_next (hf : s.LastTally c bins a k rec) {missing : BitVec 24} {b : Bay}
    (hb : b.Follows (closedBay s c a k) a.lot (s.bay.lot a.lot) ((s.bay.lot a.lot).lastClosed a.step (evaluatedRec rec missing)))
    (hlen : a.step < (s.bay.lot a.lot).route.length) :
    ∃ b' : Bay, b'.Follows (closedBay s c a k) a.lot (s.bay.lot a.lot) (closedLot s a rec missing)
      ∧ b.advance s.ctx a.lot = Bay.openStep s.ctx 5 b' a.lot (a.step + 1) := by
  have hopen := hf.openIndex_lastClosed (evaluatedRec rec missing)
  have hclosed := hb.closeStep a.step
  rw [hf.closeStep_lastClosed] at hclosed
  have hnext := hb.advance_next (s := s) (by rw [hopen]; exact hlen)
  rw [hopen] at hnext
  exact ⟨_, hclosed.of_withStamp, hnext⟩

end State.LastTally

/-! ### The entries as the rules write them (R148, R149) -/

/-- R123: an entry of an evaluation of step `k`. -/
def State.evaluationEntry (s : State) (k : Nat) (kind : HoldKind) (origin : HoldOrigin) (detail : HoldDetail) : HoldEntry :=
  { kind := kind, origin := origin, raisedAt := s.part.clock, stepIndex := k, occurrences := 1, detail := detail }

theorem lossDetail_entries (p : GateProfile) (r : StepRec) (entry : HoldDetail → HoldEntry) :
    ((lossDetail p r).map entry).toList = if r.input < r.tested then [entry (.surplus (r.tested - r.input))]
      else if r.tested + p.lossLimit < r.input then [entry (.loss (r.input - r.tested))] else [] := by
  unfold lossDetail
  by_cases hs : r.input < r.tested
  · rw [if_pos hs, if_pos hs]
    rfl
  · rw [if_neg hs, if_neg hs]
    by_cases hloss : r.tested + p.lossLimit < r.input
    · rw [if_pos hloss, if_pos (by omega)]
      rfl
    · rw [if_neg hloss, if_neg (by omega)]
      rfl

theorem binDetail_entries (p : GateProfile) (r : StepRec) (entry : HoldDetail → HoldEntry) :
    ((binDetail p r).map entry).toList = if r.waivers.bin = false ∧ 0 < r.tested then
      (((List.finRange 16).filter fun b : BinNo => decide (p.goodBins.getLsbD b.val = false ∧ p.ceilings[b] < 10000
        ∧ p.ceilings[b] * r.tested < r.bins[b] * 10000)).take 1).map fun b => entry (.bin b) else [] := by
  have hfails : binFails p r = fun b : BinNo => decide (p.goodBins.getLsbD b.val = false ∧ p.ceilings[b] < 10000
      ∧ p.ceilings[b] * r.tested < r.bins[b] * 10000) := by
    funext b
    unfold binFails inBins
    simp only [Bool.decide_and, Bool.decide_eq_false]
  unfold binDetail failingBin
  split
  · rw [List.take_one, List.head?_filter, hfails]
    cases (List.finRange 16).find? _ <;> rfl
  · rfl

theorem yieldDetail_entries (p : GateProfile) (r : StepRec) (entry : HoldDetail → HoldEntry) :
    ((yieldDetail p r).map entry).toList = if r.waivers.yield = false ∧ 0 < r.tested ∧ 0 < p.yieldFloor
        ∧ r.good * 10000 < p.yieldFloor * r.tested then
      [entry (.yield r.tested r.good (r.good * 10000 / r.tested))] else [] := by
  unfold yieldDetail yieldFails reportedYield
  simp only [decide_eq_true_eq]
  split
  · next h =>
    rw [if_neg (show ¬r.tested = 0 by omega)]
    rfl
  · rfl

/-- R51: the lots of a queue that a lot has joined. -/
theorem State.mem_placed {s : State} {q : List LotNo} {h h' : LotNo} {l : LotRec} : h' ∈ s.placed q h l ↔ h' = h ∨ h' ∈ q := by
  have hsplit := List.takeWhile_append_dropWhile (p := fun h' => queuedBefore (s.bay.lot h') h' l h) (l := q.filter (· ≠ h))
  have hmem : h' ∈ q.filter (· ≠ h) ↔ h' ∈ q ∧ h' ≠ h := by simp
  unfold State.placed
  dsimp only
  rw [← hsplit, List.mem_append] at hmem
  rw [List.mem_append, List.mem_cons]
  tauto

/-- Settles O38: something raised; nothing raised, the last step or one that follows; a lot that is HELD already. -/
theorem lastTallyEvaluatesStep : Obligations.LastTallyEvaluatesStep := by
  intro c lot bins returned missing a k rec s ht r l p hst ha hk hag hstep hopen hrec hcut hlast hcount hun ho drop r' takes entry count bad
    bin yield holds rec' out both
  have hf : s.LastTally c bins a k rec := ⟨ht, hst, ha, hk, hag, hstep, hopen, hrec, hcut, hlast, hcount, hun⟩
  have hholds : evaluatedHolds s.ctx l p rec = holds := by
    have hindex : l.openIndex = a.step := by
      show l.stepIndex.getD 0 = a.step
      rw [hopen]
      rfl
    unfold evaluatedHolds raisedEntry
    rw [hindex, lossDetail_entries, binDetail_entries, yieldDetail_entries]
  have hraises : closingRaises p rec = [] ↔ holds = [] := hholds ▸ closingRaises_eq_nil (x := s.ctx) (l := l)
  refine ⟨fun hl _ hh => ⟨fun hne hrest => ?_, fun hnil => ⟨fun hlen hrest => ?_, ?_⟩⟩, fun hl hsaved hnil hrest => ?_⟩
  · obtain ⟨b, he⟩ := hf.evaluates missing (.inl hl)
    obtain ⟨hbare, hn⟩ := hf.held he hl hh fun h => hne (hraises.1 h)
    rw [hholds] at hbare
    refine hf.takes he hbare (fun hi h hm => ⟨fun hh => absurd hh (of_decide_eq_true (List.mem_filter.1 hm).2),
      fun _ => hrest.fitsNot hi hm rfl rfl rfl⟩) (List.forall_mem_singleton.2 hn) lot returned
  · obtain ⟨b, he⟩ := hf.evaluates missing (.inl hl)
    obtain ⟨b', heval, hb'⟩ := hf.advances he hl (hraises.2 hnil)
    have hdone := hf.advance_last hb' hlen
    rw [← heval] at hdone
    have hst := hdone.stamped_of_ne fun hsame => by
      have hs : LotState.complete = l.state := congrArg Prod.fst hsame
      rw [hl] at hs
      cases hs
    exact hf.takes he (hdone.bare_stamped hst) (fun hi h hm => ⟨fun hh => by
      subst hh
      exact hrest.fitsNot hi hm rfl rfl rfl, fun _ => hrest.fitsNot hi hm rfl rfl rfl⟩) (List.forall_mem_singleton.2 (hdone.owed hst)) lot
      returned
  · intro next n hnext hn input opened
    obtain ⟨hlt, _⟩ := List.getElem?_eq_some_iff.1 hnext
    obtain ⟨b, he⟩ := hf.evaluates missing (.inl hl)
    obtain ⟨b', heval, hb'⟩ := hf.advances he hl (hraises.2 hnil)
    obtain ⟨b'', hb'', hadvance⟩ := hf.advance_next hb' hlt
    rw [hadvance] at heval
    have hstepne : a.step - 1 ≠ a.step := by omega
    have hn' : (State.LastTally.closedLot s a rec missing).steps[a.step + 1 - 1]? = some n := by
      show (l.steps.set (a.step - 1) _)[a.step]? = some n
      rw [List.getElem?_set_ne hstepne, hn]
    have hinput : s.ctx.stepInput (State.LastTally.closedLot s a rec missing) (a.step + 1) = input := by
      have hclosedRec : (State.LastTally.closedLot s a rec missing).steps[a.step - 1]?
          = some { rec' with state := .closed, loss := (rec.input : Int) - rec.tested, waivers := {} } := by
        obtain ⟨hlt, _⟩ := List.getElem?_eq_some_iff.1 hrec
        exact List.getElem?_set_self hlt
      exact (State.stepInput_eq hstep hclosedRec hnext).trans rfl
    have hnextstep (m : LotRec) (hm : m.route = l.route) : m.routeStep (a.step + 1) = next := by
      unfold LotRec.routeStep
      rw [hm, List.getD_eq_getElem?_getD, Nat.add_sub_cancel, hnext]
      rfl
    have hopened : (b''.opened s.ctx a.lot (a.step + 1)).Follows (State.LastTally.closedBay s c a k) a.lot l opened := by
      have := hb''.opened (s := s) (a.step + 1)
      rw [hinput, LotRec.openStep_eq_set hn'] at this
      exact this
    have hst := hopened.stamped_of_ne fun hsame => by
      have hs : LotState.active = l.state := congrArg Prod.fst hsame
      rw [hl] at hs
      cases hs
    refine ⟨?_, ?_, ?_⟩
    · rintro hpos ⟨e, hcat⟩ hni hrest hown l'
      rw [hb''.openStep_input 5 (by rw [hinput]; exact hpos)] at heval
      refine hf.takes (l' := l') (q := s.placed s.bay.queue a.lot l') he ?_ (fun hi h hm => ⟨fun _ => (hown hi).of_lot rfl rfl rfl, fun hne => ?_⟩)
        (List.forall_mem_singleton.2 ?_) lot returned
      · have hfit : (b''.opened s.ctx a.lot (a.step + 1)).NoFit s.ctx a.lot := fun c' hc' => by
          rw [hopened.lot]
          rw [Bay.cell, hopened.cells] at hc' ⊢
          by_cases he : c = c'
          · subst he
            have hself : (State.LastTally.closedBay s c a k).cell c = (s.bay.cell c).tallyClosed s.tables a k := Bay.cell_setCell_self ..
            rw [Bay.cell] at hself
            rw [hself] at hc' ⊢
            exact (hown hc').of_lot rfl rfl rfl
          · have hother : (State.LastTally.closedBay s c a k).cell c' = s.bay.cell c' := Bay.cell_setCell_ne _ _ he
            rw [Bay.cell] at hother
            rw [hother] at hc'
            exact absurd hc' (hni c')
        rw [heval, hopened.openActive_queued (by rw [hnextstep opened rfl]; exact hcat.entryOf) (fun h' _ => rfl) hfit, if_pos hst,
          show s.placed s.bay.queue a.lot l' = s.placed s.bay.queue a.lot opened from s.placed_congr _ _ rfl rfl]
        rfl
      · refine hrest.fitsNot hi ?_ rfl rfl rfl
        exact (State.mem_placed.1 hm).resolve_left hne
      · rw [heval]
        exact (Bay.Grows.openActive ..).1 _ (hopened.owed hst)
    · intro hpos hcat hrest
      rw [hb''.openStep_input 5 (by rw [hinput]; exact hpos)] at heval
      have hheld := hopened.openActive_held (s := s) (k := a.step + 1) rfl rfl hh
        (by rw [hnextstep opened rfl]; exact Tables.entryOf_eq_none hcat)
      rw [hnextstep opened rfl, ← heval] at hheld
      have hst' : a.lot ∈ (b.evaluate s.ctx a.lot).stamped := by
        rw [heval]
        exact (Bay.Grows.openActive ..).2 _ hst
      exact hf.takes he (hheld.bare_stamped hst') (fun hi h hm => ⟨fun hh => absurd hh (of_decide_eq_true (List.mem_filter.1 hm).2),
        fun _ => hrest.fitsNot hi hm rfl rfl rfl⟩) (List.forall_mem_singleton.2 (hheld.owed hst')) lot returned
    · intro hzero hlen hnq hrest
      have hdone := hb''.openStep_empty_last (s := s) (k := a.step + 1) 5 (by rw [hinput]; exact hzero) (Nat.le_of_eq hlen)
      rw [LotRec.closedEmpty_openStep hn' _ hzero, hnextstep (State.LastTally.closedLot s a rec missing) rfl, ← heval] at hdone
      have hst' := hdone.stamped_of_ne fun hsame => by
        have hs : LotState.complete = l.state := congrArg Prod.fst hsame
        rw [hl] at hs
        cases hs
      exact hf.takes he (hdone.bare_stamped hst') (fun hi h hm => ⟨fun hh => absurd (hh ▸ hm) hnq,
        fun _ => hrest.fitsNot hi hm rfl rfl rfl⟩) (List.forall_mem_singleton.2 (hdone.owed hst')) lot returned
  · obtain ⟨b, he⟩ := hf.evaluates missing (.inr ⟨hl, hsaved⟩)
    exact hf.takes (reported := []) he (hf.heldAlready he hl (hraises.2 hnil)) (fun hi h hm => ⟨fun hh => by
      subst hh
      exact hrest.fitsNot hi hm rfl rfl rfl, fun _ => hrest.fitsNot hi hm rfl rfl rfl⟩) (by simp) lot returned

end Sys2Proof.Machine

/-!
SUPPORT. Loads that end (R83, R97 to R99): what the failure of a load leaves of the bay, on a bay that is that of a state, and what a
load leaves that starts there.
-/

namespace Sys2Proof.Machine

/-! ### A load of a cell in no list of a channel (R95) -/

theorem State.Unlisted.endsNoRound {s : State} {c : CellNo} (h : s.Unlisted c) : s.EndsNoRound c := by
  intro k hne hall _
  obtain ⟨t, ht⟩ := List.exists_mem_of_ne_nil _ hne
  exact absurd (hall t ht) ((h k).1 t ht)

/-- R95: a cell in no list of a channel leaves the load wait queue alone. -/
theorem State.Unlisted.leftBay {s : State} {c : CellNo} (h : s.Unlisted c) :
    s.leftBay c s.bay.bare = s.bay.bare.withLoads s.bay.channels (s.bay.waitQueue.filter (· ≠ c)) := by
  have hleft (k : ChanNo) : (s.bay.chan k).left s.ctx c k = s.bay.chan k := by
    obtain ⟨ht, hn⟩ := h k
    have hany : (s.bay.chan k).targets.any (·.cell = c) = false := by
      rw [List.any_eq_false]
      exact fun t hm => by simpa using ht t hm
    have ht' : (s.bay.chan k).targets.filter (·.cell ≠ c) = (s.bay.chan k).targets :=
      List.filter_eq_self.2 fun t hm => decide_eq_true (ht t hm)
    have hn' : (s.bay.chan k).nextRound.filter (·.1 ≠ c) = (s.bay.chan k).nextRound :=
      List.filter_eq_self.2 fun e hm => decide_eq_true (hn e hm)
    unfold Channel.left
    rw [hany, if_neg Bool.false_ne_true]
    unfold Channel.without
    rw [ht', hn']
  have hchannels : s.bay.leftChannels s.ctx c = s.bay.channels := Vector.ext fun i hi => by
    unfold Bay.leftChannels
    rw [Vector.getElem_ofFn]
    exact hleft ⟨i, hi⟩
  unfold State.leftBay
  rw [hchannels]
  rfl

/-- The same for a cell that does not wait either. -/
theorem State.Unlisted.leftBay_unwaiting {s : State} {c : CellNo} (h : s.Unlisted c) (hw : c ∉ s.bay.waitQueue) :
    s.leftBay c s.bay.bare = s.bay.bare := by
  rw [h.leftBay, List.filter_eq_self.2 fun c' hm => decide_eq_true (show c' ≠ c from fun he => hw (he ▸ hm))]
  rfl

/-! ### A load that starts (R83) -/

/-- R83: the bay of a state in which a load has started for cell `c`, whose record was `r`. -/
def State.startedBay (s : State) (c : CellNo) (r : CellRec) (e : CatalogueEntry) (v : SlotNo) : Bay :=
  (s.bay.bare.withLoads (s.bay.placing s.ctx c e.toImage v).2.1 (s.bay.placing s.ctx c e.toImage v).2.2).setCell c
    (r.loadingAt e v (s.bay.placing s.ctx c e.toImage v).1)

theorem State.bare_startLoad {s : State} {b : Bay} {c : CellNo} {r : CellRec} {e : CatalogueEntry} {v : SlotNo}
    (hb : b.bare = s.bay.bare.setCell c r) (hv : r.Victim e.program e.revision v) :
    (b.startLoad s.ctx c e).bare = s.startedBay c r e v ∧ (b.startLoad s.ctx c e).stamped = b.stamped := by
  have hcell : b.cell c = r := by rw [Bay.cell_of_bare hb, Bay.cell_setCell_self]
  have hplace : b.placing s.ctx c e.toImage v = s.bay.placing s.ctx c e.toImage v :=
    (congrArg (fun b : Bay => b.placing s.ctx c e.toImage v) hb :)
  obtain ⟨hbare, hst⟩ := Bay.bare_startLoad (x := s.ctx) (b := b) (e := e) (v := v) (by rw [hcell]; exact hv)
  rw [hplace, hcell, hb] at hbare
  refine ⟨hbare.trans ?_, hst⟩
  exact Bay.setCell_setCell (s.bay.bare.withLoads (s.bay.placing s.ctx c e.toImage v).2.1 (s.bay.placing s.ctx c e.toImage v).2.2) c _ _

theorem State.records_startedBay (s : State) (c : CellNo) {r : CellRec} {a : Assignment} (ha : r.assignment = some a) (e : CatalogueEntry)
    (v : SlotNo) : ({ s with bay := s.startedBay c r e v } : State).records = s.loadStarted c r a e v := by
  unfold State.loadStarted
  dsimp only
  rw [State.loadPlaced_eq]
  unfold State.startedBay CellRec.loadingAt
  rw [ha]
  rfl

/-! ### The failed-cell set (R99) -/

theorem LotRec.failedOn_member {l : LotRec} {k : Nat} {c : CellNo} (h : c ∈ (l.stepRec k).failedCells) : l.failedOn k c = l := by
  unfold LotRec.failedOn
  cases hr : l.steps[k - 1]? with
  | none =>
    unfold LotRec.stepRec at h
    rw [List.getD_eq_getElem?_getD, hr] at h
    cases h
  | some r =>
    rw [LotRec.stepRec_eq hr] at h
    rw [List.modify_eq_set_of_getElem? hr, if_pos h]
    obtain ⟨hlt, hget⟩ := List.getElem?_eq_some_iff.1 hr
    have hsame : l.steps.set (k - 1) r = l.steps := by
      rw [← hget]
      exact List.set_getElem_self ..
    exact congrArg (fun steps => { l with steps := steps }) hsame

theorem LotRec.failedOn_joins {l : LotRec} {k : Nat} {c : CellNo} (h : c ∉ (l.stepRec k).failedCells) :
    l.modStep k (fun r => { r with failedCells := r.failedCells ++ [c] }) = l.failedOn k c := by
  unfold LotRec.failedOn LotRec.modStep
  cases hr : l.steps[k - 1]? with
  | none =>
    rw [List.modify_eq_self (List.getElem?_eq_none_iff.1 hr), List.modify_eq_self (List.getElem?_eq_none_iff.1 hr)]
  | some r =>
    rw [LotRec.stepRec_eq hr] at h
    rw [List.modify_eq_set_of_getElem? hr, List.modify_eq_set_of_getElem? hr, if_neg h]

/-- R99: a cell that joins a set of fewer than two, or is a member. -/
theorem Bay.addFailedCell_few {x : Ctx} {b : Bay} {h : LotNo} {k : Nat} {c : CellNo} (hf : (b.lot h).FewFailed k c) :
    b.addFailedCell x h k c = b.setLot h ((b.lot h).failedOn k c) := by
  unfold Bay.addFailedCell
  dsimp only
  by_cases hm : c ∈ ((b.lot h).stepRec k).failedCells
  · rw [if_pos hm, LotRec.failedOn_member hm, Bay.setLot_self]
  · have hlen := hf.resolve_left hm
    rw [if_neg hm, if_neg (by omega), Bay.modLot_same rfl, LotRec.failedOn_joins hm]

/-- R99: a third member. -/
theorem Bay.addFailedCell_third {x : Ctx} {b : Bay} {h : LotNo} {k : Nat} {c : CellNo} (hm : c ∉ ((b.lot h).stepRec k).failedCells)
    (hlen : 2 ≤ ((b.lot h).stepRec k).failedCells.length) :
    b.addFailedCell x h k c = (b.setLot h ((b.lot h).failedOn k c)).raise x h .program .program
      (.program ((b.lot h).routeStep k).program none) := by
  unfold Bay.addFailedCell
  dsimp only
  rw [if_neg hm, if_pos (by omega), Bay.modLot_same rfl, LotRec.failedOn_joins hm, Bay.lot_setLot_self]
  rfl

/-- R73: the return of an amount leaves the records of the steps. -/
theorem State.steps_returned (s : State) (h : LotNo) (amount : Nat) : (s.returned h amount).1.steps = (s.bay.lot h).steps := by
  unfold State.returned
  dsimp only
  split
  · split <;> rfl
  · split <;> rfl
  · split <;> rfl
  · rfl

/-! ### A load that fails (R98) -/

/-- R98: a bay in which the load of a cell has ended and its failure is counted. -/
def Bay.loadFailed (x : Ctx) (b : Bay) (c : CellNo) : Bay :=
  (b.abandonLoad x c).modCell c fun r => { r with loadFailures := min (r.loadFailures + 1) 2 }

/-- R98: the record of a cell whose load has failed, `n` failures in a row counted. -/
def CellRec.failedAs (r : CellRec) (ld : LoadRec) (n : Nat) : CellRec := { r.unloaded ld with loadFailures := n }

theorem Bay.loadFails_unassigned {x : Ctx} {b : Bay} {c : CellNo} {ld : LoadRec} (hl : (b.cell c).load = some ld)
    (ha : (b.cell c).assignment = none) : b.loadFails x c = (b.loadFailed x c).afterFailure x c := by
  unfold Bay.loadFails
  rw [hl]
  dsimp only
  rw [ha]
  rfl

theorem Bay.loadFails_assigned {x : Ctx} {b : Bay} {c : CellNo} {ld : LoadRec} {a : Assignment} (hl : (b.cell c).load = some ld)
    (ha : (b.cell c).assignment = some a) :
    b.loadFails x c = ((b.loadFailed x c).afterFailure x c).addFailedCell x a.lot a.step c := by
  unfold Bay.loadFails
  rw [hl]
  dsimp only
  rw [ha]
  rfl

/-- A bay that is that of a state, in an event that has changed nothing of its lots. -/
structure State.Shows (s : State) (b : Bay) : Prop where
  bare : b.bare = s.bay.bare
  stamped : b.stamped = []

theorem State.Shows.newEvent (s : State) : s.Shows s.newEvent.bay := ⟨rfl, rfl⟩

namespace State.Shows

variable {s : State} {b : Bay} {c : CellNo} {ld : LoadRec} {n : Nat}

theorem cell (hb : s.Shows b) (c : CellNo) : b.cell c = s.bay.cell c := Bay.cell_of_bare hb.bare c

theorem lot (hb : s.Shows b) (h : LotNo) : b.lot h = s.bay.lot h := Bay.lot_of_bare hb.bare h

theorem bayMatches (hb : s.Shows b) : b.Matches s :=
  ⟨(congrArg Bay.lots hb.bare :), (congrArg Bay.queue hb.bare :), (congrArg Bay.channels hb.bare :), (congrArg Bay.waitQueue hb.bare :),
    hb.stamped⟩

/-- R83, R98: the bay as a failure has been counted. -/
structure Fails (s : State) (b : Bay) (c : CellNo) (r : CellRec) : Prop where
  bare : b.bare = (s.leftBay c s.bay.bare).setCell c r
  stamped : b.stamped = []
  owed : .cellState c ∈ b.notices

theorem fails (hb : s.Shows b) (hl : (s.bay.cell c).load = some ld) (he : s.EndsNoRound c) (hn : (s.bay.cell c).loadFailures = n)
    (hlt : n < 2) : Fails s (b.loadFailed s.ctx c) c ((s.bay.cell c).failedAs ld (n + 1)) := by
  have hbare := Bay.bare_abandonLoad (s := s) (b := b) (by rw [hb.cell]; exact hl) hb.bayMatches he
  have hst := Bay.stamped_abandonLoad s.ctx b c
  unfold Bay.loadFailed
  generalize b.abandonLoad s.ctx c = b' at hbare hst
  have hcell : b'.cell c = (s.bay.cell c).unloaded ld := by rw [Bay.cell_of_bare hbare, Bay.cell_setCell_self, hb.cell]
  have hcount : min ((b'.cell c).loadFailures + 1) 2 = n + 1 := by
    rw [hcell, show ((s.bay.cell c).unloaded ld).loadFailures = n from hn]
    omega
  refine ⟨?_, (Bay.stamped_modCell ..).trans (hst.trans hb.stamped), Bay.owed_modCell fun hsame => ?_⟩
  · rw [Bay.bare_modCell, hcount, hcell, hbare, hb.bare, Bay.setCell_setCell]
    rfl
  · have hf : min ((b'.cell c).loadFailures + 1) 2 = (b'.cell c).loadFailures := congrArg CellView.loadFailures hsame
    rw [hcount, hcell, show ((s.bay.cell c).unloaded ld).loadFailures = n from hn] at hf
    omega

namespace Fails

variable {r : CellRec}

theorem cell (hf : Fails s b c r) : b.cell c = r := by rw [Bay.cell_of_bare hf.bare, Bay.cell_setCell_self]

theorem cell_ne (hf : Fails s b c r) {c' : CellNo} (hne : c ≠ c') : b.cell c' = s.bay.cell c' := by
  rw [Bay.cell_of_bare hf.bare, Bay.cell_setCell_ne _ _ hne]
  rfl

theorem lot (hf : Fails s b c r) (h : LotNo) : b.lot h = s.bay.lot h := by
  rw [Bay.lot_of_bare hf.bare]
  rfl

theorem queue (hf : Fails s b c r) : b.queue = s.bay.queue := (congrArg Bay.queue hf.bare :)

/-- R98: the first failure of a cell without an assignment, no lot being queued. -/
theorem after_first_unassigned (hf : Fails s b c r) (hn : r.loadFailures = 1) (ha : r.assignment = none) (hq : s.bay.queue = []) :
    (b.afterFailure s.ctx c).bare = (s.leftBay c s.bay.bare).setCell c { r with state := .idle }
      ∧ b.Grows (b.afterFailure s.ctx c) := by
  have heq : b.afterFailure s.ctx c = b.modCell c fun r => { r with state := .idle } := by
    unfold Bay.afterFailure
    dsimp only
    rw [hf.cell, if_neg (by omega), ha]
    dsimp only
    exact Bay.matchCell_empty (by rw [Bay.queue_modCell, hf.queue, hq])
  rw [heq]
  refine ⟨?_, .modCell ..⟩
  rw [Bay.bare_modCell, hf.cell, hf.bare, Bay.setCell_setCell]

/-- R98: the second failure in a row. -/
theorem after_second (hf : Fails s b c r) (hn : r.loadFailures = 2) :
    b.afterFailure s.ctx c = (b.modCell c fun r => { r with state := .faulted }).returnSublot s.ctx c := by
  unfold Bay.afterFailure
  dsimp only
  rw [hf.cell, if_pos (by omega)]

theorem after_second_unassigned (hf : Fails s b c r) (hn : r.loadFailures = 2) (ha : r.assignment = none) :
    (b.afterFailure s.ctx c).bare = (s.leftBay c s.bay.bare).setCell c { r with state := .faulted }
      ∧ b.Grows (b.afterFailure s.ctx c) := by
  have heq : b.afterFailure s.ctx c = b.modCell c fun r => { r with state := .faulted } := by
    rw [hf.after_second hn]
    unfold Bay.returnSublot
    rw [Bay.cell_modCell_self, hf.cell]
    dsimp only
    rw [ha]
  rw [heq]
  refine ⟨?_, .modCell ..⟩
  rw [Bay.bare_modCell, hf.cell, hf.bare, Bay.setCell_setCell]

theorem after_second_assigned (hf : Fails s b c r) (hn : r.loadFailures = 2) {a : Assignment} (ha : r.assignment = some a)
    (hni : s.NoIdle) (hk : s.KeepsOpen a.lot a.qty) :
    (b.afterFailure s.ctx c).bare
        = (((s.leftBay c s.bay.bare).withQueue (s.returned a.lot a.qty).2).setLot a.lot (s.returned a.lot a.qty).1).setCell c
            { r with state := .faulted, assignment := none }
      ∧ b.Grows (b.afterFailure s.ctx c) := by
  rw [hf.after_second hn]
  refine ⟨?_, (Bay.Grows.modCell ..).trans (.returnSublot ..)⟩
  have hcell : (b.modCell c fun r => { r with state := .faulted }).cell c = { r with state := .faulted } := by
    rw [Bay.cell_modCell_self, hf.cell]
  have hbare : (b.modCell c fun r => { r with state := .faulted }).bare
      = (s.leftBay c s.bay.bare).setCell c { r with state := .faulted } := by
    rw [Bay.bare_modCell, hf.cell, hf.bare, Bay.setCell_setCell]
  rw [Bay.bare_returnSublot (s := s) (a := a) (by rw [hcell]; exact ha) ((Bay.lots_of_bare hbare :).trans rfl)
    ((Bay.queue_of_bare hbare :).trans rfl) (by rw [Bay.stamped_modCell, hf.stamped]; exact List.not_mem_nil) hk, hcell]
  · unfold State.returnedBay
    rw [hbare, Bay.withQueue_setCell, Bay.setLot_setCell, Bay.setCell_setCell]
  · intro c' hi
    by_cases hc : c = c'
    · subst hc
      rw [hcell] at hi
      cases hi
    · rw [Bay.cell_of_bare hbare, Bay.cell_setCell_ne _ _ hc] at hi
      exact absurd hi (hni c')

/-- R98: the first failure of a cell with an assignment: the load starts again. -/
theorem after_first_assigned (hf : Fails s b c r) (hn : r.loadFailures = 1) {a : Assignment} (ha : r.assignment = some a)
    {e : CatalogueEntry} (he : s.Catalogued ((s.bay.lot a.lot).routeStep a.step).program e) :
    b.afterFailure s.ctx c = b.startLoad s.ctx c e := by
  unfold Bay.afterFailure
  dsimp only
  rw [hf.cell, if_neg (by omega), ha]
  dsimp only
  unfold Bay.reload
  rw [hf.lot, show s.ctx.tables.entryOf ((s.bay.lot a.lot).routeStep a.step).program = some e from he.entryOf]

end Fails

/-- R98: the second failure in a row of a cell without an assignment. -/
theorem fails_second_unassigned (hb : s.Shows b) (hl : (s.bay.cell c).load = some ld) (he : s.EndsNoRound c)
    (hn : (s.bay.cell c).loadFailures = 1) (ha : (s.bay.cell c).assignment = none) :
    (b.loadFails s.ctx c).bare = (s.leftBay c s.bay.bare).setCell c ((s.bay.cell c).faultedBy ld)
      ∧ .cellState c ∈ (b.loadFails s.ctx c).notices := by
  have hf := hb.fails hl he hn (by omega)
  obtain ⟨hbare, hg⟩ := hf.after_second_unassigned rfl ha
  rw [Bay.loadFails_unassigned (by rw [hb.cell]; exact hl) (by rw [hb.cell]; exact ha)]
  exact ⟨hbare, hg.1 _ hf.owed⟩

/-- R98: the first failure in a row of a cell without an assignment, no lot being queued. -/
theorem fails_first_unassigned (hb : s.Shows b) (hl : (s.bay.cell c).load = some ld) (he : s.EndsNoRound c)
    (hn : (s.bay.cell c).loadFailures = 0) (ha : (s.bay.cell c).assignment = none) (hq : s.bay.queue = []) :
    (b.loadFails s.ctx c).bare
        = (s.leftBay c s.bay.bare).setCell c { (s.bay.cell c).faultedBy ld with state := .idle, loadFailures := 1 }
      ∧ .cellState c ∈ (b.loadFails s.ctx c).notices := by
  have hf := hb.fails hl he hn (by omega)
  obtain ⟨hbare, hg⟩ := hf.after_first_unassigned rfl ha hq
  rw [Bay.loadFails_unassigned (by rw [hb.cell]; exact hl) (by rw [hb.cell]; exact ha)]
  exact ⟨hbare, hg.1 _ hf.owed⟩

/-- R98, R99: the second failure in a row under an assignment. -/
theorem fails_second_assigned (hb : s.Shows b) (hl : (s.bay.cell c).load = some ld) (hu : s.Unlisted c) (hw : c ∉ s.bay.waitQueue)
    (hn : (s.bay.cell c).loadFailures = 1) {a : Assignment} (ha : (s.bay.cell c).assignment = some a)
    (hfew : (s.bay.lot a.lot).FewFailed a.step c) (hni : s.NoIdle) (hk : s.KeepsOpen a.lot a.qty) :
    ({ s with bay := (b.loadFails s.ctx c).bare } : State).records = s.failedTwice c ld a
      ∧ .cellState c ∈ (b.loadFails s.ctx c).notices ∧ (b.loadFails s.ctx c).channels = s.bay.channels := by
  have hf := hb.fails hl hu.endsNoRound hn (by omega)
  obtain ⟨hbare, hg⟩ := hf.after_second_assigned (a := a) rfl ha hni hk
  rw [hu.leftBay_unwaiting hw] at hbare
  rw [Bay.loadFails_assigned (by rw [hb.cell]; exact hl) (by rw [hb.cell]; exact ha)]
  generalize (b.loadFailed s.ctx c).afterFailure s.ctx c = b' at hbare hg
  have hlot : b'.lot a.lot = (s.returned a.lot a.qty).1 := by rw [Bay.lot_of_bare hbare, Bay.lot_setCell, Bay.lot_setLot_self]
  have hfew' : (b'.lot a.lot).FewFailed a.step c := by
    have hsteps : (b'.lot a.lot).steps = (s.bay.lot a.lot).steps := by rw [hlot, s.steps_returned]
    unfold LotRec.FewFailed LotRec.stepRec at hfew ⊢
    rw [hsteps]
    exact hfew
  have hchannels : b'.channels = s.bay.channels := (congrArg Bay.channels hbare :)
  rw [Bay.addFailedCell_few hfew', hlot, Bay.bare_setLot, hbare, Bay.setLot_setCell, Bay.setLot_setLot]
  refine ⟨?_, hg.1 _ hf.owed, hchannels⟩
  unfold State.failedTwice State.afterReturn Records.setLot
  simp only [Vector.set_set]
  rfl

/-- R98, R99: the first failure in a row under an assignment, up to the failed-cell set. -/
theorem fails_first_assigned (hb : s.Shows b) (hl : (s.bay.cell c).load = some ld) (hu : s.Unlisted c) (hw : c ∉ s.bay.waitQueue)
    (hn : (s.bay.cell c).loadFailures = 0) {a : Assignment} (ha : (s.bay.cell c).assignment = some a) {e : CatalogueEntry} {v : SlotNo}
    (he : s.Catalogued ((s.bay.lot a.lot).routeStep a.step).program e)
    (hv : ((s.bay.cell c).unloaded ld).Victim e.program e.revision v) :
    ∃ b' : Bay, b.loadFails s.ctx c = b'.addFailedCell s.ctx a.lot a.step c
      ∧ b'.bare = s.startedBay c ((s.bay.cell c).failedAs ld 1) e v ∧ b'.stamped = [] ∧ .cellState c ∈ b'.notices := by
  have hf := hb.fails hl hu.endsNoRound hn (by omega)
  have hbare := hf.bare
  rw [hu.leftBay_unwaiting hw] at hbare
  obtain ⟨hstart, hst⟩ := State.bare_startLoad (e := e) (v := v) hbare hv
  refine ⟨(b.loadFailed s.ctx c).startLoad s.ctx c e, ?_, hstart, hst.trans hf.stamped, (Bay.Grows.startLoad ..).1 _ hf.owed⟩
  rw [Bay.loadFails_assigned (by rw [hb.cell]; exact hl) (by rw [hb.cell]; exact ha), hf.after_first_assigned rfl ha he]

theorem fails_first_retried (hb : s.Shows b) (hl : (s.bay.cell c).load = some ld) (hu : s.Unlisted c) (hw : c ∉ s.bay.waitQueue)
    (hn : (s.bay.cell c).loadFailures = 0) {a : Assignment} (ha : (s.bay.cell c).assignment = some a) {e : CatalogueEntry} {v : SlotNo}
    (he : s.Catalogued ((s.bay.lot a.lot).routeStep a.step).program e)
    (hv : ((s.bay.cell c).unloaded ld).Victim e.program e.revision v) (hfew : (s.bay.lot a.lot).FewFailed a.step c) :
    ({ s with bay := (b.loadFails s.ctx c).bare } : State).records = s.retried c ld a e v
      ∧ .cellState c ∈ (b.loadFails s.ctx c).notices
      ∧ (b.loadFails s.ctx c).channels = (s.bay.placing s.ctx c e.toImage v).2.1 := by
  obtain ⟨b', heq, hbare, _, hn⟩ := hb.fails_first_assigned hl hu hw hn ha he hv
  have hlot : b'.lot a.lot = s.bay.lot a.lot := by rw [Bay.lot_of_bare hbare]; rfl
  rw [heq, Bay.addFailedCell_few (by rw [hlot]; exact hfew), Bay.bare_setLot, hlot, hbare]
  refine ⟨?_, hn, (congrArg Bay.channels hbare :)⟩
  have hrecords := s.records_startedBay c (r := (s.bay.cell c).failedAs ld 1) ha e v
  exact congrArg (fun r : Records => r.setLot a.lot ((s.bay.lot a.lot).failedOn a.step c)) hrecords

end State.Shows

end Sys2Proof.Machine

/-!
PROOF. LOADED for a load that awaits it (section 4.8).
-/

namespace Sys2Proof.Machine

/-! ### A good load (R96, R97) -/

/-- R96: the record of a cell whose load has been good, its slot in a state. -/
def CellRec.loadedAs (r : CellRec) (ld : LoadRec) (st : SlotState) (clock : Nat) : CellRec :=
  { r with
    loadFailures := 0, load := none
    slots := r.slots.set ld.slot { r.slots[ld.slot] with state := st, lastUse := clock } }

/-- R96: a bay in which a load has been good. -/
def Bay.loadDone (x : Ctx) (b : Bay) (c : CellNo) (ld : LoadRec) (st : SlotState) : Bay :=
  (b.leaveLists x c).modCell c fun r => r.loadedAs ld st x.clock

/-- R97: whether an image is that of the catalogue's entry of its program. -/
def Ctx.isCurrent (x : Ctx) (im : Image) : Bool := (x.tables.entryOf im.program).any (·.revision = im.revision)

/-- R75: the entry that a program has is one of the catalogue's. -/
theorem Tables.of_entryOf {t : Tables} {p : Half} {e : CatalogueEntry} (h : t.entryOf p = some e) :
    (∃ j : Fin 128, t.catalogue[j] = some e) ∧ e.program = p := by
  unfold Tables.entryOf at h
  refine ⟨?_, by simpa using List.find?_some h⟩
  obtain ⟨o, ho, hoe⟩ := List.mem_filterMap.1 (List.mem_of_find?_eq_some h)
  obtain ⟨j, hj, rfl⟩ := List.mem_iff_getElem.1 ho
  have hj' : j < 128 := by simpa using hj
  exact ⟨⟨j, hj'⟩, by simpa using hoe⟩

theorem State.isCurrent_of {s : State} {im : Image} (h : ∃ e, s.Catalogued im.program e ∧ e.revision = im.revision) :
    s.ctx.isCurrent im = true := by
  obtain ⟨e, he, hr⟩ := h
  unfold Ctx.isCurrent
  rw [show s.ctx.tables.entryOf im.program = some e from he.entryOf]
  exact decide_eq_true hr

theorem State.not_isCurrent_of {s : State} {im : Image}
    (h : ∀ (j : Fin 128) (e : CatalogueEntry), s.tables.catalogue[j] = some e → e.program ≠ im.program ∨ e.revision ≠ im.revision) :
    s.ctx.isCurrent im = false := by
  unfold Ctx.isCurrent
  cases he : s.ctx.tables.entryOf im.program with
  | none => rfl
  | some e =>
    obtain ⟨⟨j, hj⟩, hp⟩ := Tables.of_entryOf he
    exact decide_eq_false ((h j e hj).resolve_left (not_not_intro hp))

theorem Bay.loadedFrame_matched {x : Ctx} {b : Bay} {c : CellNo} {ld : LoadRec} {result : Byte} (hst : (b.cell c).state = .loading)
    (hl : (b.cell c).load = some ld) (hp : ld.place = .awaiting) :
    b.loadedFrame x c ld.image.program ld.image.revision (BitVec.ofNat 8 ld.slot.val) result
      = if result = 0#8 then b.loadGood x c else b.loadFails x c := by
  have hslot : (BitVec.ofNat 8 ld.slot.val).toNat = ld.slot.val := by
    have := ld.slot.isLt
    rw [BitVec.toNat_ofNat]
    omega
  have hok : loadOk result = true ↔ result = 0#8 := by
    unfold loadOk
    rw [decide_eq_true_eq]
    exact ⟨fun h => BitVec.eq_of_toNat_eq h, fun h => by rw [h]; rfl⟩
  unfold Bay.loadedFrame
  dsimp only
  rw [hl]
  dsimp only
  rw [if_neg (not_not_intro hst), if_neg (by rw [hslot]; simp)]
  simp only [hp, true_and, hok]

theorem Bay.loadGood_assigned {x : Ctx} {b : Bay} {c : CellNo} {ld : LoadRec} {a : Assignment} {st : SlotState}
    (hl : (b.cell c).load = some ld) (hst : st = if x.isCurrent ld.image then .resident else .stale)
    (ha : ((b.loadDone x c ld st).cell c).assignment = some a) :
    b.loadGood x c = if x.isCurrent ld.image then (b.loadDone x c ld st).makeOffer x c ld.slot
      else (b.loadDone x c ld st).reload x c (((b.loadDone x c ld st).lot a.lot).routeStep a.step).program := by
  subst hst
  unfold Bay.loadGood
  rw [hl]
  dsimp only
  unfold Bay.loadDone CellRec.loadedAs Ctx.isCurrent at ha ⊢
  rw [ha]

theorem Bay.loadGood_unassigned {x : Ctx} {b : Bay} {c : CellNo} {ld : LoadRec} {st : SlotState} (hl : (b.cell c).load = some ld)
    (hst : st = if x.isCurrent ld.image then .resident else .stale) (ha : ((b.loadDone x c ld st).cell c).assignment = none) :
    b.loadGood x c = ((b.loadDone x c ld st).modCell c fun r => { r with state := .idle }).matchCell x c := by
  subst hst
  unfold Bay.loadGood
  rw [hl]
  dsimp only
  unfold Bay.loadDone CellRec.loadedAs Ctx.isCurrent at ha ⊢
  rw [ha]

/-! ### What a good load leaves -/

variable {s : State} {c : CellNo} {ld : LoadRec}

/-- R95: the bay of a state from whose load wait queue a cell has gone. -/
def State.unwaitedBay (s : State) (c : CellNo) : Bay := s.bay.bare.withLoads s.bay.channels (s.bay.waitQueue.filter (· ≠ c))

theorem State.records_unwaitedBay (s : State) (c : CellNo) (r : CellRec) :
    ({ s with bay := (s.unwaitedBay c).setCell c r } : State).records
      = { s.records.setCell c r with waitQueue := s.bay.waitQueue.filter (· ≠ c) } := rfl

theorem Bay.bare_loadDone (hu : s.Unlisted c) (ld : LoadRec) (st : SlotState) :
    (s.newEvent.bay.loadDone s.ctx c ld st).bare = (s.unwaitedBay c).setCell c ((s.bay.cell c).loadedAs ld st s.part.clock)
      ∧ (s.newEvent.bay.loadDone s.ctx c ld st).stamped = [] := by
  have hbare : (s.newEvent.bay.leaveLists s.ctx c).bare = s.unwaitedBay c := by
    rw [Bay.leaveLists_of_endsNoRound (b := s.newEvent.bay) hu.endsNoRound rfl rfl]
    exact hu.leftBay
  unfold Bay.loadDone
  refine ⟨?_, (Bay.stamped_modCell ..).trans (Bay.Reloads.leaveLists ..).stamped⟩
  rw [Bay.bare_modCell, hbare, Bay.cell_of_bare hbare]
  rfl

theorem Bay.cell_loadDone (hu : s.Unlisted c) (ld : LoadRec) (st : SlotState) :
    (s.newEvent.bay.loadDone s.ctx c ld st).cell c = (s.bay.cell c).loadedAs ld st s.part.clock := by
  rw [Bay.cell_of_bare (Bay.bare_loadDone hu ld st).1, Bay.cell_setCell_self]

theorem Bay.lot_loadDone (hu : s.Unlisted c) (ld : LoadRec) (st : SlotState) (h : LotNo) :
    (s.newEvent.bay.loadDone s.ctx c ld st).lot h = s.bay.lot h := by
  rw [Bay.lot_of_bare (Bay.bare_loadDone hu ld st).1]
  rfl

/-- A write of a new state for the LOADING cell whose load has been good. -/
theorem Bay.modCell_loadDone (hu : s.Unlisted c) (hst : (s.bay.cell c).state = .loading) (st : SlotState) (f : CellRec → CellRec)
    (hf : ∀ r : CellRec, (f r).state ≠ .loading) :
    ((s.newEvent.bay.loadDone s.ctx c ld st).modCell c f).bare
        = (s.unwaitedBay c).setCell c (f ((s.bay.cell c).loadedAs ld st s.part.clock))
      ∧ .cellState c ∈ ((s.newEvent.bay.loadDone s.ctx c ld st).modCell c f).notices := by
  have hcell := Bay.cell_loadDone hu ld st
  refine ⟨?_, Bay.owed_modCell (CellRec.noticed_ne_of_state fun h => ?_)⟩
  · rw [Bay.bare_modCell, hcell, (Bay.bare_loadDone hu ld st).1, Bay.setCell_setCell]
  · rw [hcell] at h
    exact hf _ (h.trans hst)

/-- R96, R97: the cell of a good load without an assignment, no lot being queued. -/
theorem Bay.bare_loadGood_idle (hu : s.Unlisted c) (hst : (s.bay.cell c).state = .loading) (hl : (s.bay.cell c).load = some ld)
    (ha : (s.bay.cell c).assignment = none) (hq : s.bay.queue = []) {st : SlotState}
    (hcur : st = if s.ctx.isCurrent ld.image then .resident else .stale) :
    (s.newEvent.bay.loadGood s.ctx c).bare
        = (s.unwaitedBay c).setCell c { (s.bay.cell c).loadedAs ld st s.part.clock with state := .idle }
      ∧ .cellState c ∈ (s.newEvent.bay.loadGood s.ctx c).notices := by
  obtain ⟨hbare, hn⟩ := Bay.modCell_loadDone (ld := ld) hu hst st (fun r => { r with state := .idle }) (fun _ h => by cases h)
  rw [Bay.loadGood_unassigned (b := s.newEvent.bay) hl hcur (by rw [Bay.cell_loadDone hu]; exact ha),
    Bay.matchCell_empty ((Bay.queue_of_bare hbare :).trans hq)]
  exact ⟨hbare, hn⟩

/-- R66, R97: the offer of a good load. -/
theorem Bay.bare_loadGood_offered (hu : s.Unlisted c) (hst : (s.bay.cell c).state = .loading) (hl : (s.bay.cell c).load = some ld)
    {a : Assignment} (ha : (s.bay.cell c).assignment = some a) (hcur : s.ctx.isCurrent ld.image = true)
    {im : Half × Byte} (him : (s.bay.cell c).slots[ld.slot].image = some im) :
    (s.newEvent.bay.loadGood s.ctx c).bare
        = (s.unwaitedBay c).setCell c
            (s.ctx.offered ((s.bay.cell c).loadedAs ld .resident s.part.clock) a ld.slot ((s.bay.lot a.lot).routeStep a.step) im.2
              (s.ctx.soak c (s.bay.cell c).temp ((s.bay.lot a.lot).routeStep a.step)))
      ∧ .cellState c ∈ (s.newEvent.bay.loadGood s.ctx c).notices := by
  have hcell := Bay.cell_loadDone hu ld .resident
  have hasg : ((s.newEvent.bay.loadDone s.ctx c ld .resident).cell c).assignment = some a := by rw [hcell]; exact ha
  have hslot : ((s.bay.cell c).loadedAs ld .resident s.part.clock).slots[ld.slot].image = some im := by
    unfold CellRec.loadedAs
    simpa using him
  rw [Bay.loadGood_assigned (b := s.newEvent.bay) (st := .resident) hl (by rw [if_pos hcur]) hasg, if_pos hcur,
    Bay.makeOffer_eq hasg (by rw [hcell]; exact hslot), Bay.lot_loadDone hu]
  exact Bay.modCell_loadDone hu hst .resident _ fun _ h => by cases h

/-- R97: a load at a revision that is no longer current starts again under the assignment. -/
theorem Bay.bare_loadGood_again (hu : s.Unlisted c) (hw : c ∉ s.bay.waitQueue) (hl : (s.bay.cell c).load = some ld)
    {a : Assignment} (ha : (s.bay.cell c).assignment = some a) (hcur : s.ctx.isCurrent ld.image = false)
    {e : CatalogueEntry} {v : SlotNo} (he : s.Catalogued ((s.bay.lot a.lot).routeStep a.step).program e)
    (hv : ((s.bay.cell c).loadedAs ld .stale s.part.clock).Victim e.program e.revision v) :
    (s.newEvent.bay.loadGood s.ctx c).bare = s.startedBay c ((s.bay.cell c).loadedAs ld .stale s.part.clock) e v := by
  have hcur' : ¬s.ctx.isCurrent ld.image = true := by rw [hcur]; exact Bool.false_ne_true
  have hbare := (Bay.bare_loadDone hu ld .stale).1
  have hplain : s.unwaitedBay c = s.bay.bare := hu.leftBay.symm.trans (hu.leftBay_unwaiting hw)
  rw [hplain] at hbare
  rw [Bay.loadGood_assigned (b := s.newEvent.bay) (st := .stale) hl (by rw [if_neg hcur'])
    (by rw [Bay.cell_loadDone hu]; exact ha), if_neg hcur', Bay.lot_loadDone hu]
  unfold Bay.reload
  rw [show s.ctx.tables.entryOf ((s.bay.lot a.lot).routeStep a.step).program = some e from he.entryOf]
  exact (State.bare_startLoad hbare hv).1

/-! ### The third failed cell of a step (R99, R126) -/

/-- R126, R127: a raise on a lot whose one cell is LOADING. -/
theorem Bay.bare_raise_loading {x : Ctx} {b : Bay} {a : Assignment} (hl : (b.lot a.lot).state ∈ [.active, .closing, .complete])
    (hs : b.stamped = []) (ha : (b.cell c).assignment = some a) (ho : b.Only a.lot c)
    (hpos : (b.lot a.lot).state = .closing → 0 < (b.lot a.lot).remaining + a.qty) (kind : HoldKind) (origin : HoldOrigin)
    (detail : HoldDetail) (hst : (b.cell c).state = .loading) :
    (b.raise x a.lot kind origin detail).bare
        = ((b.bare.withQueue (b.queue.filter (· ≠ a.lot))).setLot a.lot (b.raisedReturn x a kind origin detail)).setCell c
            { b.cell c with assignment := none }
      ∧ .lotState a.lot ∈ (b.raise x a.lot kind origin detail).notices := by
  have hold : (b.lot a.lot).state.holdable = true := LotState.holdable_iff.2 (by
    simp only [List.mem_cons, List.not_mem_nil, or_false] at hl ⊢
    tauto)
  obtain ⟨hentry, hstamp, hnlot⟩ := Bay.bare_raiseEntry_first (x := x) hl (by rw [hs]; exact List.not_mem_nil) kind origin detail
  have hraise (b1 : Bay) (fr : List CellNo) :=
    Bay.raise_at_one (x := x) (b := b) (b1 := b1) (fr := fr) (h := a.lot) (c := c) (kind := kind) (origin := origin) (detail := detail)
      hold
  generalize b.raiseEntry x a.lot kind origin detail = b' at hentry hstamp hnlot hraise
  have hlot : b'.lot a.lot = (b.lot a.lot).heldWith (raiseIn (b.lot a.lot).holds (raisedEntry x (b.lot a.lot) kind origin detail)) := by
    rw [Bay.lot_of_bare hentry, Bay.lot_setLot_self]
  have hcell (c' : CellNo) : b'.cell c' = b.cell c' := by rw [Bay.cell_of_bare hentry]; rfl
  have hasg : (b'.cell c).assignment = some a := by rw [hcell]; exact ha
  have hnamed : Option.any (fun x : Assignment => decide (x.lot = a.lot)) (b'.cell c).assignment = true := by rw [hasg]; simp
  have honly : b'.Only a.lot c := fun c' hn => ho c' (by rw [← hcell]; exact hn)
  have hstep : Bay.holdCell x a.lot (b', []) c = (b'.returnSublot x c, []) := by
    unfold Bay.holdCell
    dsimp only
    rw [if_pos hnamed, hcell, hst]
  have hret := Bay.bare_returnSublot_of (x := x) hasg
    (Bay.givesBack_held (by rw [hlot]; rfl) hstamp (by rw [hlot]; exact fun h => hpos (LotRec.saved_heldWith_closing h)))
  rw [hcell, hentry, hlot, Bay.setLot_setLot] at hret
  have honly' : (b'.returnSublot x c).Only a.lot c := by
    intro c' hn
    by_contra hcc
    rw [Bay.cell_of_bare hret, Bay.cell_setCell_ne _ _ (Ne.symm hcc)] at hn
    exact hcc (ho c' hn)
  rw [hraise _ _ honly hstep honly']
  exact ⟨hret, (Bay.Grows.returnSublot ..).1 _ hnlot⟩

/-- R96: a LOADED frame that matches its load is taken as the load being good, or failing. -/
theorem takes_loaded {lot : Half} {result : Byte} (ht : s.TakesFrame c .loaded) (hst : (s.bay.cell c).state = .loading)
    (hl : (s.bay.cell c).load = some ld) (hp : ld.place = .awaiting) {b : Bay} {rec : Records} {reported : List Notice}
    (hb : (if result = 0#8 then s.newEvent.bay.loadGood s.ctx c else s.newEvent.bay.loadFails s.ctx c) = b)
    (hr : ({ s with bay := b.bare } : State).records = rec) (hn : ∀ n ∈ reported, n ∈ b.notices) :
    Takes s c .tester lot (.loaded ld.image.program ld.image.revision (BitVec.ofNat 8 ld.slot.val) result) rec reported := by
  have hframe := Bay.loadedFrame_matched (x := s.ctx) (b := s.newEvent.bay) (result := result) hst hl hp
  exact takes_of_effect (m := .loaded ld.image.program ld.image.revision (BitVec.ofNat 8 ld.slot.val) result) ht (hframe.trans hb)
    (records_of_bare rfl hr) hn

/-- R99, R127: the lot of a step that a third cell has failed, that cell's quantity returned. -/
def State.heldThird (s : State) (c : CellNo) (a : Assignment) : LotRec :=
  { ((s.bay.lot a.lot).failedOn a.step c).heldWith
      [{ kind := .program, origin := .program, raisedAt := s.part.clock, stepIndex := (s.bay.lot a.lot).stepIndex.getD 0
         occurrences := 1, detail := .program ((s.bay.lot a.lot).routeStep a.step).program none }] with
    remaining := (s.bay.lot a.lot).remaining + a.qty, openSublots := (s.bay.lot a.lot).openSublots - 1 }

theorem State.raisedReturn_third {b : Bay} {a : Assignment} (hlot : b.lot a.lot = (s.bay.lot a.lot).failedOn a.step c)
    (hla : (s.bay.lot a.lot).state = .active) (hh : (s.bay.lot a.lot).holds = []) (v : SlotNo) :
    b.raisedReturn s.ctx { a with slot := some v } .program .program (.program ((s.bay.lot a.lot).routeStep a.step).program none)
      = s.heldThird c a := by
  have hstate : ((s.bay.lot a.lot).failedOn a.step c).state = .active := hla
  unfold Bay.raisedReturn State.heldThird
  dsimp only
  rw [hlot, LotRec.heldWith_returned (.inl hstate), show ((s.bay.lot a.lot).failedOn a.step c).holds = [] from hh]
  unfold LotRec.heldWith
  rw [if_pos hstate]
  rfl

/-- What a write of a queue, a lot and a cell leaves of the records of a bay. -/
theorem State.records_written {b : Bay} {rec : Records} (h : ({ s with bay := b } : State).records = rec) (q : List LotNo) (i : LotNo)
    (l l' : LotRec) :
    ({ s with bay := ((b.withQueue q).setLot i l).setCell c { b.cell c with assignment := none } } : State).records
      = { ((rec.setLot i l').setLot i l).setCell c { (rec.setLot i l').cells[c] with assignment := none } with queue := q } := by
  subst h
  unfold Records.setLot
  simp only [Vector.set_set]
  rfl

/-- R99: what a step's third failed cell leaves: its lot HELD, the quantity of the cell returned. -/
theorem Bay.loadFails_third (hu : s.Unlisted c) (hw : c ∉ s.bay.waitQueue) (hl : (s.bay.cell c).load = some ld)
    (hn : (s.bay.cell c).loadFailures = 0) {a : Assignment} (ha : (s.bay.cell c).assignment = some a) {e : CatalogueEntry} {v : SlotNo}
    (he : s.Catalogued ((s.bay.lot a.lot).routeStep a.step).program e)
    (hv : ((s.bay.cell c).unloaded ld).Victim e.program e.revision v)
    (hm : c ∉ ((s.bay.lot a.lot).stepRec a.step).failedCells) (hlen : 2 ≤ ((s.bay.lot a.lot).stepRec a.step).failedCells.length)
    (hla : (s.bay.lot a.lot).state = .active) (hh : (s.bay.lot a.lot).holds = []) (ho : ∀ c', s.NamedBy a.lot c' → c' = c) :
    (s.newEvent.bay.loadFails s.ctx c).bare
        = (((s.startedBay c ((s.bay.cell c).failedAs ld 1) e v).withQueue (s.bay.queue.filter (· ≠ a.lot))).setLot a.lot
            (s.heldThird c a)).setCell c
            { (s.startedBay c ((s.bay.cell c).failedAs ld 1) e v).cell c with assignment := none }
      ∧ .lotState a.lot ∈ (s.newEvent.bay.loadFails s.ctx c).notices
      ∧ .cellState c ∈ (s.newEvent.bay.loadFails s.ctx c).notices := by
  obtain ⟨b, heq, hbare, hst, hn⟩ := (State.Shows.newEvent s).fails_first_assigned hl hu hw hn ha he hv
  have hstarted : (s.startedBay c ((s.bay.cell c).failedAs ld 1) e v).cell c
      = ((s.bay.cell c).failedAs ld 1).loadingAt e v (s.bay.placing s.ctx c e.toImage v).1 := Bay.cell_setCell_self ..
  have hlot : b.lot a.lot = s.bay.lot a.lot := by rw [Bay.lot_of_bare hbare]; rfl
  have hcell (c' : CellNo) : (b.setLot a.lot ((b.lot a.lot).failedOn a.step c)).cell c'
      = (s.startedBay c ((s.bay.cell c).failedAs ld 1) e v).cell c' := Bay.cell_of_bare hbare c'
  have hlot' : (b.setLot a.lot ((b.lot a.lot).failedOn a.step c)).lot a.lot = (s.bay.lot a.lot).failedOn a.step c := by
    rw [Bay.lot_setLot_self, hlot]
  have hasg : ((b.setLot a.lot ((b.lot a.lot).failedOn a.step c)).cell c).assignment = some { a with slot := some v } := by
    rw [hcell, hstarted]
    unfold CellRec.loadingAt CellRec.failedAs CellRec.unloaded
    dsimp only
    rw [ha]
    rfl
  have hstate : ((s.bay.lot a.lot).failedOn a.step c).state = .active := hla
  have honly : (b.setLot a.lot ((b.lot a.lot).failedOn a.step c)).Only a.lot c := by
    intro c' hn
    by_contra hne
    rw [hcell] at hn
    unfold State.startedBay at hn
    rw [Bay.cell_setCell_ne _ _ (Ne.symm hne)] at hn
    exact hne (State.only_of ho rfl c' hn)
  have hqueue : b.queue = s.bay.queue := (congrArg Bay.queue hbare :)
  obtain ⟨hraise, hnl⟩ := Bay.bare_raise_loading (x := s.ctx) (b := b.setLot a.lot ((b.lot a.lot).failedOn a.step c))
    (a := { a with slot := some v }) (by rw [hlot', hstate]; decide) hst hasg honly (by rw [hlot', hstate]; nofun) .program .program
    (.program ((s.bay.lot a.lot).routeStep a.step).program none) (by rw [hcell, hstarted]; rfl)
  rw [heq, Bay.addFailedCell_third (by rw [hlot]; exact hm) (by rw [hlot]; exact hlen), hlot]
  rw [hlot] at hraise hnl
  refine ⟨hraise.trans ?_, hnl, (Bay.Grows.raise ..).1 _ hn⟩
  rw [hlot] at hlot' hcell
  rw [State.raisedReturn_third hlot' hla hh, hcell, Bay.bare_setLot, hbare,
    show (b.setLot a.lot ((s.bay.lot a.lot).failedOn a.step c)).queue = s.bay.queue from hqueue]
  exact congrArg (Bay.setCell · c _) (Bay.setLot_setLot
    ((s.startedBay c ((s.bay.cell c).failedAs ld 1) e v).withQueue (s.bay.queue.filter (· ≠ a.lot))) a.lot
    ((s.bay.lot a.lot).failedOn a.step c) (s.heldThird c a))

/-- Settles O40: good with and without an assignment, current and gone; failed first, second, and as a third member. -/
theorem loadedEndsLoad : Obligations.LoadedEndsLoad := by
  intro c lot result ld s ht r program revision ends takes good current gone hst hl hp hu
  have hgood (st : SlotState) : good st = r.loadedAs ld st s.part.clock := rfl
  have hleft := hu.leftBay
  have hstart {r' : CellRec} {a : Assignment} (ha : r'.assignment = some a) (e : CatalogueEntry) (v : SlotNo) :=
    s.records_startedBay c ha e v
  have hgone (h : gone) : s.ctx.isCurrent ld.image = false := State.not_isCurrent_of h
  refine ⟨fun hr hcur => ⟨fun a ha him => ?_, fun ha hq => ?_⟩, fun hr ha hq hgo => ?_, fun hr ha hn => ?_, fun hr ha hn hq => ?_,
    fun a ha hw => ⟨fun e v he => ⟨fun hr hgo hv => ?_, fun hr hn hv => ⟨fun hfew => ?_, fun hm hlen hla hh ho => ?_⟩⟩,
      fun hr hn hni hk hfew => ?_⟩⟩
  · obtain ⟨hb, hn⟩ := Bay.bare_loadGood_offered hu hst hl ha (State.isCurrent_of hcur) him
    exact takes_loaded ht hst hl hp (if_pos hr) (by rw [hb]; rfl) (List.forall_mem_singleton.2 hn)
  · obtain ⟨hb, hn⟩ := Bay.bare_loadGood_idle hu hst hl ha hq (st := .resident) (by rw [if_pos (State.isCurrent_of hcur)])
    exact takes_loaded ht hst hl hp (if_pos hr) (by rw [hb]; rfl) (List.forall_mem_singleton.2 hn)
  · obtain ⟨hb, hn⟩ := Bay.bare_loadGood_idle hu hst hl ha hq (st := .stale)
      (by rw [if_neg (by rw [hgone hgo]; exact Bool.false_ne_true)])
    exact takes_loaded ht hst hl hp (if_pos hr) (by rw [hb]; rfl) (List.forall_mem_singleton.2 hn)
  · obtain ⟨hb, hn⟩ := (State.Shows.newEvent s).fails_second_unassigned hl hu.endsNoRound hn ha
    rw [hleft] at hb
    exact takes_loaded ht hst hl hp (if_neg hr) (by rw [hb]; rfl) (List.forall_mem_singleton.2 hn)
  · obtain ⟨hb, hn⟩ := (State.Shows.newEvent s).fails_first_unassigned hl hu.endsNoRound hn ha hq
    rw [hleft] at hb
    exact takes_loaded ht hst hl hp (if_neg hr) (by rw [hb]; rfl) (List.forall_mem_singleton.2 hn)
  · have hb := Bay.bare_loadGood_again hu hw hl ha (hgone hgo) he hv
    exact takes_loaded ht hst hl hp (if_pos hr) (by rw [hb]; exact hstart (r' := good .stale) ha e v) nofun
  · obtain ⟨hb, hn, _⟩ := (State.Shows.newEvent s).fails_first_retried hl hu hw hn ha he hv hfew
    exact takes_loaded ht hst hl hp (if_neg hr) hb (List.forall_mem_singleton.2 hn)
  · obtain ⟨hb, hn1, hn2⟩ := Bay.loadFails_third hu hw hl hn ha he hv hm hlen hla hh ho
    refine takes_loaded ht hst hl hp (if_neg hr) ?_ (forall_mem_pair hn1 hn2)
    rw [hb]
    exact State.records_written (hstart (r' := r.failedAs ld 1) ha e v) ..
  · obtain ⟨hb, hn, _⟩ := (State.Shows.newEvent s).fails_second_assigned hl hu hw hn ha hfew hni hk
    exact takes_loaded ht hst hl hp (if_neg hr) hb (List.forall_mem_singleton.2 hn)

end Sys2Proof.Machine

/-!
PROOF. TSTATE and the LOADED frames without effect (sections 4.3 and 4.8).
-/

namespace Sys2Proof.Machine

/-! ### The frames of the tester and what they do -/

theorem Bay.loadedFrame_idle {x : Ctx} {b : Bay} {c : CellNo} (h : (b.cell c).state ≠ .loading) (program : Half)
    (revision slot result : Byte) : b.loadedFrame x c program revision slot result = b := by
  unfold Bay.loadedFrame
  dsimp only
  cases (b.cell c).load with
  | none => rfl
  | some ld => exact if_pos h

theorem Bay.tstateFrame_altered (x : Ctx) (b : Bay) (c : CellNo) {slot : Byte} {k : SlotNo} (h : slot.toNat = k.val) :
    b.tstateFrame x c 2#8 slot = b.altered x c k := by
  have hidx : indexOf 4 slot = some k := by
    unfold indexOf
    rw [dif_pos (show slot.toNat < 4 from by have := k.isLt; omega)]
    exact congrArg some (Fin.ext h)
  show (match indexOf 4 slot with
    | some k => b.altered x c k
    | none => b.protocolError c) = _
  rw [hidx]

theorem Bay.tstateFrame_memoryLost (x : Ctx) (b : Bay) (c : CellNo) (slot : Byte) : b.tstateFrame x c 1#8 slot = b.memoryLost x c := rfl

theorem Bay.failDelivering_none {x : Ctx} {b : Bay} {c : CellNo}
    (h : (b.cell c).state = .loading → ∀ ld, (b.cell c).load = some ld → ld.place = .waiting ∨ ld.place = .nextRound) :
    b.failDelivering x c = b := by
  unfold Bay.failDelivering
  refine if_neg fun ⟨hst, hd⟩ => ?_
  cases hl : (b.cell c).load with
  | none => rw [hl] at hd; cases hd
  | some ld =>
    rw [hl] at hd
    rcases h hst ld hl with hp | hp <;> simp [LoadRec.delivering, hp] at hd

theorem Bay.failDelivering_fails {x : Ctx} {b : Bay} {c : CellNo} {ld : LoadRec} (hst : (b.cell c).state = .loading)
    (hl : (b.cell c).load = some ld) (hp : ld.place = .target ∨ ld.place = .awaiting) : b.failDelivering x c = b.loadFails x c := by
  unfold Bay.failDelivering
  refine if_pos ⟨hst, ?_⟩
  rw [hl]
  rcases hp with hp | hp <;> simp [LoadRec.delivering, hp]

/-- R81: no sublot of the cell is OFFERED or RUNNING. -/
theorem Bay.slotLost_none {x : Ctx} {b : Bay} {c : CellNo} (h : (b.cell c).state ∉ [.offered, .running]) (program : Half) :
    b.slotLost x c program = b := by
  unfold Bay.slotLost
  dsimp only
  cases ha : (b.cell c).assignment with
  | none => rfl
  | some a => cases hst : (b.cell c).state <;> simp_all

theorem Bay.slotLost_running {x : Ctx} {b : Bay} {c : CellNo} {a : Assignment} (ha : (b.cell c).assignment = some a)
    (hst : (b.cell c).state = .running) (program : Half) :
    b.slotLost x c program = b.raise x a.lot .program .program (.program program (some c)) := by
  unfold Bay.slotLost
  dsimp only
  rw [ha]
  dsimp only
  rw [hst]

theorem Bay.slotLost_offered {x : Ctx} {b : Bay} {c : CellNo} {a : Assignment} (ha : (b.cell c).assignment = some a)
    (hst : (b.cell c).state = .offered) (program : Half) :
    b.slotLost x c program = (b.withdrawOffer x c .idle).matchCell x c := by
  unfold Bay.slotLost
  dsimp only
  rw [ha]
  dsimp only
  rw [hst]

/-- R80: the slots of a cell, one of which is ALTERED. -/
def CellRec.alteredAt (r : CellRec) (k : SlotNo) : CellRec := { r with slots := r.slots.set k { r.slots[k] with state := .altered } }

theorem Bay.altered_slot {x : Ctx} {b : Bay} {c : CellNo} {k : SlotNo} (hk : (b.cell c).slots[k].state ∈ [.resident, .stale]) :
    b.altered x c k = if (b.cell c).assignment.any (·.slot = some k)
      then (b.modCell c (·.alteredAt k)).slotLost x c (((b.cell c).slots[k].image.map (·.1)).getD 0#16)
      else b.modCell c (·.alteredAt k) := by
  unfold Bay.altered
  dsimp only
  simp only [List.mem_cons, List.not_mem_nil, or_false] at hk
  rcases hk with hk | hk <;> rw [hk] <;> rfl

theorem Bay.altered_nothing {x : Ctx} {b : Bay} {c : CellNo} {k : SlotNo}
    (h : (b.cell c).slots[k].state ∈ [.empty, .altered]) : b.altered x c k = b := by
  unfold Bay.altered
  dsimp only
  simp only [List.mem_cons, List.not_mem_nil, or_false] at h
  rcases h with h | h <;> rw [h]

theorem Bay.altered_loading {x : Ctx} {b : Bay} {c : CellNo} {k : SlotNo} (h : (b.cell c).slots[k].state = .loading) :
    b.altered x c k = b.failDelivering x c := by
  unfold Bay.altered
  dsimp only
  rw [h]

/-- R79: a cell whose slots that hold a program are EMPTY. -/
def CellRec.cleared (r : CellRec) : CellRec := { r with slots := r.slots.map fun s => if s.held then s.emptied else s }

/-- R79: the slot that MEMORY_LOST takes from an assignment. -/
def CellRec.lostSlot (r : CellRec) : Option SlotNo := (r.assignment.bind (·.slot)).filter fun k => r.slots[k].held

theorem CellRec.lostSlot_eq_none {r : CellRec} (h : ∀ a k, r.assignment = some a → a.slot = some k → r.slots[k].held = false) :
    r.lostSlot = none := by
  unfold CellRec.lostSlot
  rw [Option.filter_eq_none_iff]
  intro k hk
  obtain ⟨a, ha, hs⟩ := Option.bind_eq_some_iff.1 hk
  rw [h a k ha hs]
  exact Bool.false_ne_true

theorem CellRec.lostSlot_eq_some {r : CellRec} {a : Assignment} {k : SlotNo} (ha : r.assignment = some a) (hk : a.slot = some k)
    (h : r.slots[k].held = true) : r.lostSlot = some k := by
  unfold CellRec.lostSlot
  rw [ha, Option.bind_some, hk]
  exact (Option.filter_some_pos h)

/-- R79: MEMORY_LOST on a bay whose load, if it was being delivered, has failed. -/
theorem Bay.memoryLost_none {x : Ctx} {b : Bay} {c : CellNo} (h : ((b.failDelivering x c).cell c).lostSlot = none) :
    b.memoryLost x c = (b.failDelivering x c).modCell c CellRec.cleared := by
  unfold Bay.memoryLost
  dsimp only
  unfold CellRec.lostSlot at h
  rw [h]
  rfl

theorem Bay.memoryLost_some {x : Ctx} {b : Bay} {c : CellNo} {k : SlotNo} (h : ((b.failDelivering x c).cell c).lostSlot = some k) :
    b.memoryLost x c = ((b.failDelivering x c).modCell c CellRec.cleared).slotLost x c
      ((((b.failDelivering x c).cell c).slots[k].image.map (·.1)).getD 0#16) := by
  unfold Bay.memoryLost
  dsimp only
  unfold CellRec.lostSlot at h
  rw [h]
  rfl

/-! ### A slot lost under an assignment (R81) -/

variable {s : State} {c : CellNo} {a : Assignment}

/-- A bay that is that of a state but for the slots of one cell. -/
structure State.Slotted (s : State) (b : Bay) (c : CellNo) (slots : Vector Slot 4) : Prop where
  bare : b.bare = s.bay.bare.setCell c { s.bay.cell c with slots := slots }
  stamped : b.stamped = []

theorem State.Slotted.cell {b : Bay} {slots : Vector Slot 4} (h : s.Slotted b c slots) :
    b.cell c = { s.bay.cell c with slots := slots } := by rw [Bay.cell_of_bare h.bare, Bay.cell_setCell_self]

theorem State.Slotted.lot {b : Bay} {slots : Vector Slot 4} (h : s.Slotted b c slots) (i : LotNo) : b.lot i = s.bay.lot i := by
  rw [Bay.lot_of_bare h.bare]
  rfl

/-- R81: the lot of a running sublot is held. -/
theorem State.Slotted.bare_running {b : Bay} {slots : Vector Slot 4} (h : s.Slotted b c slots)
    (ha : (s.bay.cell c).assignment = some a) (hst : (s.bay.cell c).state = .running) (hp : (s.bay.cell c).pause = .none)
    (hl : (s.bay.lot a.lot).state = .active) (hh : (s.bay.lot a.lot).holds = []) (ho : ∀ c', s.NamedBy a.lot c' → c' = c)
    (program : Half) :
    (b.slotLost s.ctx c program).bare
        = ((s.bay.bare.withQueue (s.bay.queue.filter (· ≠ a.lot))).setLot a.lot
            ((s.bay.lot a.lot).heldWith [raisedEntry s.ctx (s.bay.lot a.lot) .program .program (.program program (some c))])).setCell c
            (CellRec.pausedFor { s.bay.cell c with slots := slots } a.lot)
      ∧ .lotState a.lot ∈ (b.slotLost s.ctx c program).notices
      ∧ .cellState c ∈ (b.slotLost s.ctx c program).notices := by
  have hcell := h.cell
  have hlot := h.lot a.lot
  have honly : b.Only a.lot c := by
    intro c' hn
    by_contra hne
    rw [Bay.cell_of_bare h.bare, Bay.cell_setCell_ne _ _ (Ne.symm hne)] at hn
    exact hne (State.only_of ho rfl c' hn)
  rw [Bay.slotLost_running (by rw [hcell]; exact ha) (by rw [hcell]; exact hst)]
  obtain ⟨hb, _, hn1, hn2⟩ := Bay.bare_raise_one (x := s.ctx) (b := b) (c := c) (a := a) (by rw [hlot]; exact hl)
    (by rw [hlot]; exact hh) h.stamped (by rw [hcell]; exact hst) (by rw [hcell]; exact ha) (by rw [hcell]; exact hp) honly .program
    .program (.program program (some c))
  refine ⟨hb.trans ?_, hn1, hn2⟩
  rw [hcell, hlot, h.bare, show b.queue = s.bay.queue from (congrArg Bay.queue h.bare :),
    CellRec.pausedFor_of_unpaused (r := { s.bay.cell c with slots := slots }) ha hp, Bay.withQueue_setCell, Bay.setLot_setCell,
    Bay.setCell_setCell]

/-- R52, R73: the return of a quantity queues its lot alone. -/
theorem State.mem_returned {i h : LotNo} {amount : Nat} (hi : i ∈ (s.returned h amount).2) : i ∈ h :: s.bay.queue := by
  have hkeep (hi : i ∈ s.bay.queue) : i ∈ h :: s.bay.queue := List.mem_cons_of_mem _ hi
  unfold State.returned at hi
  dsimp only at hi
  split at hi
  · split at hi
    · exact List.mem_cons.2 (State.mem_placed.1 hi)
    · exact hkeep hi
  · split at hi <;> exact hkeep hi
  · exact hkeep hi
  · exact hkeep hi

theorem State.returned_kept (s : State) (h : LotNo) (amount : Nat) :
    (s.returned h amount).1.route = (s.bay.lot h).route ∧ (s.returned h amount).1.stepIndex = (s.bay.lot h).stepIndex
      ∧ (s.returned h amount).1.cls = (s.bay.lot h).cls := by
  rw [State.returned_eq]
  exact s.givenTo_kept h _

/-- R72, R81: the offer is withdrawn, and its cell, IDLE, is cut nothing. -/
theorem State.Slotted.bare_offered {b : Bay} {slots : Vector Slot 4} (h : s.Slotted b c slots)
    (ha : (s.bay.cell c).assignment = some a) (hst : (s.bay.cell c).state = .offered) (hni : s.NoIdle)
    (hk : s.KeepsOpen a.lot a.qty) (hfit : s.FitsNone c (a.lot :: s.bay.queue)) (program : Half) :
    (b.slotLost s.ctx c program).bare
        = (s.returnedBay b a.lot a.qty).setCell c (CellRec.offerGone { s.bay.cell c with slots := slots } a .idle)
      ∧ .cellState c ∈ (b.slotLost s.ctx c program).notices := by
  have hcell := h.cell
  have hasg : (b.cell c).assignment = some a := by rw [hcell]; exact ha
  have hown (i : LotNo) (l : LotRec) (hi : (s.bay.cell c).FitsNot s.tables l i) : (b.cell c).FitsNot s.tables l i := by
    rw [hcell]
    exact hi
  rw [Bay.slotLost_offered hasg (by rw [hcell]; exact hst)]
  have hwith := Bay.bare_withdrawOffer (s := s) (after := .idle) hasg ((congrArg Bay.lots h.bare :).trans rfl)
    ((congrArg Bay.queue h.bare :).trans rfl) (by rw [h.stamped]; exact List.not_mem_nil) hk
    (fun c' hne hi => by
      rw [Bay.cell_of_bare h.bare, Bay.cell_setCell_ne _ _ hne.symm] at hi
      exact absurd hi (hni c'))
    fun _ => hown _ _ (hfit a.lot List.mem_cons_self)
  have hnotice := Bay.owed_withdrawOffer (x := s.ctx) (b := b) (c := c) (after := .idle) (by rw [hcell, hst]; decide)
  generalize b.withdrawOffer s.ctx c .idle = b' at hwith hnotice
  have hqueue : b'.queue = (s.returned a.lot a.qty).2 := (congrArg Bay.queue hwith :)
  have hlot (i : LotNo) : b'.lot i = ((s.returnedBay b a.lot a.qty).setCell c ((b.cell c).offerGone a .idle)).lot i := by
    rw [Bay.lot_of_bare hwith]
  rw [Bay.matchCell_noFit fun i hi _ => ?_]
  · rw [hwith, hcell]
    exact ⟨rfl, hnotice⟩
  · have hgone : (b'.cell c).FitsNot s.tables (s.bay.lot i) i := by
      rw [Bay.cell_of_bare hwith, Bay.cell_setCell_self]
      exact CellRec.fitsNot_withdrawn (hown _ _ (hfit i (State.mem_returned (hqueue ▸ hi))))
    by_cases hh : a.lot = i
    · subst hh
      obtain ⟨h1, h2, h3⟩ := s.returned_kept a.lot a.qty
      have hl : b'.lot a.lot = (s.returned a.lot a.qty).1 := (hlot a.lot).trans (Bay.lot_setLot_self ..)
      exact hgone.of_lot (by rw [hl, h1]) (by rw [hl, h2]) (by rw [hl, h3])
    · have hl : b'.lot i = s.bay.lot i := (hlot i).trans ((Bay.lot_setLot_ne _ _ hh).trans (h.lot i))
      exact hgone.of_lot (by rw [hl]) (by rw [hl]) (by rw [hl])

/-- A TSTATE frame is taken. -/
theorem takes_tstate {lot : Half} {code slot : Byte} {b : Bay} {rec : Records} {reported : List Notice} (ht : s.TakesFrame c .tstate)
    (hb : s.newEvent.bay.tstateFrame s.ctx c code slot = b) (hr : ({ s with bay := b.bare } : State).records = rec)
    (hn : ∀ n ∈ reported, n ∈ b.notices) : Takes s c .tester lot (.tstate code slot) rec reported :=
  takes_of_effect (m := .tstate code slot) ht hb (records_of_bare rfl hr) hn

/-- The slots of a cell that MEMORY_LOST finds. -/
theorem Slot.held_eq (x : Slot) : decide (x.state ∈ [SlotState.resident, .stale, .altered]) = x.held := by
  unfold Slot.held
  cases x.state <;> rfl

/-- R81: the slot that an assignment names is lost, by either frame. -/
theorem takes_lost {lot : Half} {code slot : Byte} {b : Bay} {slots : Vector Slot 4} {program : Half} (ht : s.TakesFrame c .tstate)
    (hb : s.newEvent.bay.tstateFrame s.ctx c code slot = b.slotLost s.ctx c program) (h : s.Slotted b c slots)
    (ha : (s.bay.cell c).assignment = some a) :
    ((s.bay.cell c).state = .running → (s.bay.cell c).pause = .none → (s.bay.lot a.lot).state = .active →
      (s.bay.lot a.lot).holds = [] → (∀ c', s.NamedBy a.lot c' → c' = c) →
      Takes s c .tester lot (.tstate code slot)
        { (s.records.setLot a.lot
              ((s.bay.lot a.lot).heldWith [raisedEntry s.ctx (s.bay.lot a.lot) .program .program (.program program (some c))])).setCell c
            (CellRec.pausedFor { s.bay.cell c with slots := slots } a.lot) with queue := s.bay.queue.filter (· ≠ a.lot) }
        [.lotState a.lot, .cellState c])
    ∧ ((s.bay.cell c).state = .offered → s.NoIdle → s.KeepsOpen a.lot a.qty → s.FitsNone c (a.lot :: s.bay.queue) →
      Takes s c .tester lot (.tstate code slot)
        ((s.afterReturn a.lot a.qty).setCell c (CellRec.offerGone { s.bay.cell c with slots := slots } a .idle)) [.cellState c]) := by
  refine ⟨fun hst hp hl hh ho => ?_, fun hst hni hk hfit => ?_⟩
  · obtain ⟨hbare, hn1, hn2⟩ := h.bare_running ha hst hp hl hh ho program
    exact takes_tstate ht hb (by rw [hbare]; rfl) (forall_mem_pair hn1 hn2)
  · obtain ⟨hbare, hn⟩ := h.bare_offered ha hst hni hk hfit program
    exact takes_tstate ht hb (by rw [hbare]; exact records_returnedBay s b c _ _ _ (.inr ⟨_, h.bare⟩)) (List.forall_mem_singleton.2 hn)

theorem State.slotted_modCell {f : CellRec → CellRec} {slots : Vector Slot 4}
    (hf : f (s.bay.cell c) = { s.bay.cell c with slots := slots }) : s.Slotted (s.newEvent.bay.modCell c f) c slots := by
  refine ⟨?_, Bay.stamped_modCell ..⟩
  rw [Bay.bare_modCell]
  exact congrArg (s.bay.bare.setCell c) hf

/-- R80: a slot that holds a program is ALTERED. -/
theorem takes_altered {lot : Half} {k : SlotNo} (ht : s.TakesFrame c .tstate) (hk : (s.bay.cell c).slots[k].state ∈ [.resident, .stale])
    (h : (∀ a, (s.bay.cell c).assignment = some a → a.slot ≠ some k) ∨ (s.bay.cell c).state ∉ [.offered, .running]) :
    Takes s c .tester lot (.tstate 2#8 (BitVec.ofNat 8 k.val)) (s.records.setCell c ((s.bay.cell c).alteredAt k)) := by
  have hframe := Bay.tstateFrame_altered s.ctx s.newEvent.bay c (slot := BitVec.ofNat 8 k.val) (k := k) (by
    have := k.isLt
    rw [BitVec.toNat_ofNat]
    omega)
  have hslotted := State.slotted_modCell (s := s) (c := c) (f := (·.alteredAt k)) rfl
  refine takes_tstate (b := s.newEvent.bay.modCell c (·.alteredAt k)) ht ((hframe.trans (Bay.altered_slot hk)).trans ?_)
    (by rw [hslotted.bare]; rfl) nofun
  split
  · next hany =>
    rcases h with h | h
    · obtain ⟨a, ha, hs⟩ := (Option.any_eq_true _ _).1 hany
      exact absurd (of_decide_eq_true hs) (h a ha)
    · exact Bay.slotLost_none (by rw [hslotted.cell]; exact h) _
  · rfl

/-- R79: MEMORY_LOST on a cell that is not LOADING takes no slot of a sublot. -/
theorem takes_memoryLost {lot : Half} {slot : Byte} (ht : s.TakesFrame c .tstate) (hst : (s.bay.cell c).state ≠ .loading)
    (h : (∀ a k, (s.bay.cell c).assignment = some a → a.slot = some k → (s.bay.cell c).slots[k].held = false)
      ∨ (s.bay.cell c).state ∉ [.offered, .running]) :
    Takes s c .tester lot (.tstate 1#8 slot) (s.records.setCell c (s.bay.cell c).cleared) := by
  have hfail := Bay.failDelivering_none (x := s.ctx) (b := s.newEvent.bay) (c := c) fun h => absurd h hst
  have hslotted := State.slotted_modCell (s := s) (c := c) (f := CellRec.cleared) rfl
  refine takes_tstate (b := s.newEvent.bay.modCell c CellRec.cleared) ht ?_ (by rw [hslotted.bare]; rfl) nofun
  rw [Bay.tstateFrame_memoryLost]
  cases hlost : (s.bay.cell c).lostSlot with
  | none => rw [Bay.memoryLost_none (by rw [hfail]; exact hlost), hfail]
  | some k =>
    rw [Bay.memoryLost_some (by rw [hfail]; exact hlost), hfail]
    rcases h with h | h
    · rw [CellRec.lostSlot_eq_none h] at hlost
      cases hlost
    · exact Bay.slotLost_none (by rw [hslotted.cell]; exact h) _

/-- R79, R80, R98: a load that is being delivered fails. -/
theorem State.failsDelivering {ld : LoadRec} (hst : (s.bay.cell c).state = .loading) (hl : (s.bay.cell c).load = some ld)
    (hp : ld.place = .target ∨ ld.place = .awaiting) (ha : (s.bay.cell c).assignment = none) (hn : (s.bay.cell c).loadFailures = 1)
    (he : s.EndsNoRound c) :
    (s.newEvent.bay.failDelivering s.ctx c).bare = (s.leftBay c s.bay.bare).setCell c ((s.bay.cell c).faultedBy ld)
      ∧ .cellState c ∈ (s.newEvent.bay.failDelivering s.ctx c).notices := by
  rw [Bay.failDelivering_fails (b := s.newEvent.bay) hst hl hp]
  exact (State.Shows.newEvent s).fails_second_unassigned hl he hn ha

theorem CellRec.offerGone_slots (r : CellRec) (a : Assignment) (slots : Vector Slot 4) :
    CellRec.offerGone { r with slots := slots } a .idle
      = { r.withdrawn a.id (some a.lot) with slots := slots, state := .idle, offerDeadline := none, assignment := none } := by
  unfold CellRec.offerGone CellRec.withdrawn
  dsimp only
  split <;> rfl

theorem CellRec.cleared_empty {r : CellRec} (h : ∀ k : SlotNo, r.slots[k].state = .empty) : r.cleared = r := by
  have hslots : r.slots.map (fun s => if s.held then s.emptied else s) = r.slots := by
    refine Vector.ext fun i hi => ?_
    have hs : r.slots[i].held = false := by
      unfold Slot.held
      rw [show r.slots[i].state = .empty from h ⟨i, hi⟩]
      rfl
    rw [Vector.getElem_map, if_neg (by rw [hs]; exact Bool.false_ne_true)]
  unfold CellRec.cleared
  rw [hslots]

theorem State.setCell_self (s : State) (c : CellNo) : s.records.setCell c (s.bay.cell c) = s.records :=
  congrArg (fun b : Bay => ({ s with bay := b } : State).records) (Bay.setCell_self s.bay c)

/-- Settles O29: frames without effect; ALTERED, MEMORY_LOST and the slot lost by them; a load that fails by either. -/
theorem testerFrames : Obligations.TesterFrames := by
  refine ⟨?_, ?_⟩
  · intro c lot s r
    refine ⟨fun program revision slot result ht hst => ?_, fun ht => ⟨fun slot k hk h => ?_, fun slot hst hempty => ?_⟩⟩
    · exact takes_of_effect (m := .loaded program revision slot result) ht
        (Bay.loadedFrame_idle (b := s.newEvent.bay) hst program revision slot result) rfl nofun
    · refine takes_tstate ht ((Bay.tstateFrame_altered s.ctx s.newEvent.bay c hk).trans ?_) (b := s.newEvent.bay) rfl nofun
      rcases h with h | ⟨h, hw⟩
      · exact Bay.altered_nothing h
      · rw [Bay.altered_loading (b := s.newEvent.bay) h]
        exact Bay.failDelivering_none fun _ => hw
    · have htakes := takes_memoryLost (lot := lot) (slot := slot) ht hst (.inl fun a k _ _ => by
        unfold Slot.held
        rw [hempty k]
        rfl)
      rw [CellRec.cleared_empty hempty, s.setCell_self] at htakes
      exact htakes
  · intro c lot s ht r keeps cleared lost
    have hheld (x : Slot) : keeps x = x.held := x.held_eq
    have hcleared : cleared = fun slots => slots.map fun s => if s.held then s.emptied else s := by
      funext slots
      refine congrArg (slots.map ·) (funext fun x => ?_)
      rw [hheld]
      rfl
    have hlost (code slot : Byte) (slots : Vector Slot 4) (k : SlotNo) (b : Bay) (h : s.Slotted b c slots)
        (hb : ∀ a, r.assignment = some a → a.slot = some k → s.newEvent.bay.tstateFrame s.ctx c code slot
          = b.slotLost s.ctx c ((r.slots[k].image.map (·.1)).getD 0#16)) : lost (.tstate code slot) k slots := by
      intro a program revision ha hk him
      have hframe := hb a ha hk
      rw [him] at hframe
      obtain ⟨hrun, hoff⟩ := takes_lost (lot := lot) ht hframe h ha
      refine ⟨hrun, fun hst hni hkeep hfit => ?_⟩
      rw [← CellRec.offerGone_slots]
      exact hoff hst hni hkeep hfit
    refine ⟨fun k hk => ⟨fun h => takes_altered ht hk h, ?_⟩, fun slot hst => ⟨fun h => ?_, fun k hk => ?_⟩,
      fun ld hst hl hp ha hn he => ?_⟩
    · refine hlost 2#8 (BitVec.ofNat 8 k.val) _ k (s.newEvent.bay.modCell c (·.alteredAt k)) (State.slotted_modCell rfl) fun a ha hs => ?_
      rw [Bay.tstateFrame_altered s.ctx s.newEvent.bay c (k := k) (by have := k.isLt; rw [BitVec.toNat_ofNat]; omega),
        Bay.altered_slot (b := s.newEvent.bay) hk]
      exact if_pos ((Option.any_eq_true _ _).2 ⟨a, ha, decide_eq_true hs⟩)
    · rw [hcleared]
      exact takes_memoryLost ht hst (h.imp_left fun h a k ha hs => (hheld _).symm.trans (h a k ha hs))
    · have hfail := Bay.failDelivering_none (x := s.ctx) (b := s.newEvent.bay) (c := c) fun h => absurd h hst
      rw [hcleared]
      refine hlost 1#8 slot _ k (s.newEvent.bay.modCell c CellRec.cleared) (State.slotted_modCell rfl) fun a ha hs => ?_
      rw [Bay.tstateFrame_memoryLost, Bay.memoryLost_some (k := k), hfail]
      · rfl
      · rw [hfail]
        exact CellRec.lostSlot_eq_some (r := s.bay.cell c) ha hs ((hheld _).symm.trans hk)
    · obtain ⟨hbare, hnotice⟩ := s.failsDelivering hst hl hp ha hn he
      intro failed
      refine ⟨fun k hk => ?_, fun slot => ?_⟩
      · refine takes_tstate ht ((Bay.tstateFrame_altered s.ctx s.newEvent.bay c (k := k) (by
          have := k.isLt; rw [BitVec.toNat_ofNat]; omega)).trans (Bay.altered_loading (b := s.newEvent.bay) hk))
          (by rw [hbare]; exact s.records_leftBay_cell c _) (List.forall_mem_singleton.2 hnotice)
      · have hcell : (s.newEvent.bay.failDelivering s.ctx c).cell c = r.faultedBy ld := by
          rw [Bay.cell_of_bare hbare, Bay.cell_setCell_self]
        have hframe := Bay.memoryLost_none (x := s.ctx) (b := s.newEvent.bay) (c := c) (by
          rw [hcell]
          exact CellRec.lostSlot_eq_none fun a k h _ => absurd (ha.symm.trans h) nofun)
        refine takes_tstate ht hframe ?_ (List.forall_mem_singleton.2 ((Bay.Grows.modCell ..).1 _ hnotice))
        rw [Bay.bare_modCell, hbare, hcell, Bay.setCell_setCell, hcleared]
        exact s.records_leftBay_cell c _

end Sys2Proof.Machine

/-!
SUPPORT. The channels: what the claims of an event leave of one, the end of a round (R93), and a fault (R94).
-/

namespace Sys2Proof.Machine

/-! ### A channel after the claims of an event (R88 to R90) -/

theorem State.chan_buildNotice (s : State) (n : Notice) (k : ChanNo) : (s.buildNotice n).bay.chan k = s.bay.chan k := by cases n <;> rfl

theorem State.chan_issuePull (s : State) (j k : ChanNo) :
    (s.issuePull j).bay.chan k = s.bay.chan k ∨ (j = k ∧ (s.issuePull j).bay.chan k = s.pulledChan k) := by
  cases him : (s.bay.chan j).image with
  | none => exact .inl (by rw [State.issuePull_none him])
  | some im =>
    rw [State.issuePull_some him]
    by_cases h : j = k
    · subst h
      exact .inr ⟨rfl, Vector.getElem_set_self ..⟩
    · exact .inl (Bay.chan_modChan_ne _ _ h)

/-- A channel that a claim may issue a pull for. -/
def Channel.Pulls (ch : Channel) : Prop := (ch.state = .gathering ∨ ch.state = .pulling) ∧ ch.pull = none

theorem pulls_of_nextReissue {s : State} {k : ChanNo} (h : s.nextReissue = some k) : (s.bay.chan k).Pulls := by
  have hk := List.find?_some h
  simp only [Bool.and_eq_true, decide_eq_true_eq] at hk
  obtain ⟨⟨⟨⟨⟨hst, _⟩, _⟩, _⟩, _⟩, _⟩ := hk
  exact ⟨.inr hst, (of_nextReissue h).1⟩

theorem pulls_of_nextGrant {s : State} {k : ChanNo} (h : s.nextGrant = some k) : (s.bay.chan k).Pulls := by
  refine ⟨?_, (of_nextGrant h).1⟩
  unfold State.nextGrant at h
  split at h
  · have hk := List.find?_some h
    simp only [Channel.waitingForGrant, Bool.and_eq_true, Bool.or_eq_true, decide_eq_true_eq] at hk
    obtain ⟨⟨⟨⟨⟨hst, _⟩, _⟩, _⟩, _⟩, _⟩ := hk
    exact hst
  · cases h

/-- A property of one channel that its pulls keep is kept by the claims of an event. -/
theorem State.claims_chan {u : State} (hq : u.Quiet) {k : ChanNo} {Q : Channel → Prop} (h : Q (u.bay.chan k))
    (hpull : ∀ t : State, t.records = u.records → t.free ≤ u.free → Q (t.bay.chan k) → (t.bay.chan k).Pulls → 1 ≤ t.pullSize k →
      Q (t.pulledChan k)) : Q ((u.serveClaims {}).eventEnd.bay.chan k) := by
  have hissue (t : State) (j : ChanNo) (hr : t.records = u.records) (hf : t.free ≤ u.free) (ht : Q (t.bay.chan k))
      (hp : (t.bay.chan j).Pulls) (hn : 1 ≤ t.pullSize j) : Q ((t.issuePull j).bay.chan k) := by
    rcases t.chan_issuePull j k with he | ⟨rfl, he⟩
    · rw [he]
      exact ht
    · rw [he]
      exact hpull t hr hf ht hp hn
  refine (settle_blocked (P := fun t => t.Quiet ∧ t.records = u.records ∧ t.free ≤ u.free ∧ Q (t.bay.chan k))
    (fun t ht => ⟨nextRequest_quiet ht.1, nextPort_quiet ht.1, nextHeld_quiet ht.1⟩) ?notice ?reissue ?grant u.claimBound u
    ⟨hq, rfl, le_rfl, h⟩).2.2.2
  case notice =>
    rintro t n ⟨hq, hr, hf, ht⟩ -
    exact ⟨quiet_buildNotice hq n, (records_buildNotice t n).trans hr, (t.free_buildNotice_le n).trans hf,
      by rw [t.chan_buildNotice]; exact ht⟩
  case reissue =>
    rintro t j ⟨hq, hr, hf, ht⟩ hj
    obtain ⟨hp, hn⟩ := of_nextReissue hj
    exact ⟨quiet_issuePull hq j, (records_issuePull t j).trans hr, (State.free_issuePull_le hp).trans hf,
      hissue t j hr hf ht (pulls_of_nextReissue hj) hn⟩
  case grant =>
    rintro t j ⟨hq, hr, hf, ht⟩ hj
    obtain ⟨hp, hn⟩ := of_nextGrant hj
    exact ⟨quiet_grantPull hq j, (records_grantPull t j).trans hr, (State.free_grantPull_le hp).trans hf,
      hissue t j hr hf ht (pulls_of_nextGrant hj) hn⟩

theorem Channel.AtRest.not_pulls {ch : Channel} (h : ch.AtRest) : ¬ch.Pulls := by
  rintro ⟨hst | hst, _⟩ <;> exact nomatch h.1.symm.trans hst

/-- R88: a channel at rest is granted nothing. -/
theorem State.atRest_claims {u : State} (hq : u.Quiet) {k : ChanNo} (h : (u.bay.chan k).AtRest) :
    ((u.serveClaims {}).eventEnd.bay.chan k).AtRest :=
  State.claims_chan (Q := Channel.AtRest) hq h fun _ _ _ ht hp _ => absurd hp ht.not_pulls

/-- The same for a channel that is at rest unless it has targets. -/
theorem State.restsUntargeted_claims {u : State} (hq : u.Quiet) {k : ChanNo} (h : (u.bay.chan k).targets = [] → (u.bay.chan k).AtRest)
    (ht : ((u.serveClaims {}).eventEnd.bay.chan k).targets = []) : ((u.serveClaims {}).eventEnd.bay.chan k).AtRest :=
  State.claims_chan (Q := fun ch => ch.targets = [] → ch.AtRest) hq h (fun _ _ _ h hp _ ht => absurd hp (h ht).not_pulls) ht

/-- R93: a channel that pulls its image anew goes on doing so. -/
theorem State.roundEnded_claims {u : State} (hq : u.Quiet) {k : ChanNo} {ch : Channel} (h : ch.RoundEnded (u.bay.chan k)) :
    ch.RoundEnded ((u.serveClaims {}).eventEnd.bay.chan k) := by
  refine ⟨fun hn => State.atRest_claims hq (h.1 hn), fun hn => ?_⟩
  refine State.claims_chan (Q := fun n => n.state = .pulling ∧ n.current + (n.pull.map (·.n)).getD 0 = ch.base) hq (h.2 hn) ?_
  rintro t - - ⟨hst, hsum⟩ ⟨_, hp⟩ -
  rw [hp] at hsum
  have hsize : t.pullSize k ≤ (t.bay.chan k).current := (Nat.min_le_right ..).trans (Nat.min_le_left ..)
  refine ⟨?_, ?_⟩
  · unfold State.pulledChan
    dsimp only
    rw [if_neg (by rw [hst]; decide), hst]
  · show (t.bay.chan k).current - t.pullSize k + t.pullSize k = ch.base
    rw [Nat.sub_add_cancel hsize]
    exact hsum

/-! ### An event of the bay, with a property of a channel -/

theorem LeavesAnd.of_leaves {i : Instr} {s : State} {r : Records} {reported : List Notice} (h : Leaves i s r reported) :
    LeavesAnd i s r reported fun _ => True := by
  obtain ⟨t, he, hr, ht, hs, hn⟩ := h
  exact ⟨t, he, hr, ht, hs, hn, trivial⟩

/-- As `leaves_of_event`, with a property of the state that the claims leave. -/
theorem leavesAnd_of_event {i : Instr} {s u : State} {r : Records} {reported : List Notice} {also : State → Prop}
    (he : exec i s = .next ((u.serveClaims {}).eventEnd)) (hq : u.Quiet) (hr : u.records = r) (ht : u.traffic = s.traffic)
    (hn : ∀ n ∈ reported, u.Reported n) (hu : also (u.serveClaims {}).eventEnd) : LeavesAnd i s r reported also :=
  ⟨_, he, (event_quiet hq).1.trans hr, (event_quiet hq).2.1.trans (ht.trans (List.append_nil _).symm), settled_event hq,
    fun n h => reported_event hq (hn n h), hu⟩

/-- As `leaves_of_expiry`, with a property of the state that the claims leave. -/
theorem leavesAnd_of_expiry {ι : Type} {i : Instr} {s : State} {ds : Bay → List (ι × Nat)} {take : Ctx → Bay → ι → Bay} {j : ι}
    {r : Records} {b : Bay} {reported : List Notice} {also : State → Prop}
    (he : exec i s = .next (runEvent (fun s => s.expire ds take) s)) (hq : s.Quiet)
    (hdue : firstDue s.part.clock (ds s.newEvent.bay) = some j) (hb : take s.ctx s.newEvent.bay j = b)
    (hr : { s with bay := b }.records = r) (hn : ∀ n ∈ reported, n ∈ b.notices)
    (hu : also ((({ s with bay := b } : State).serveClaims {}).eventEnd)) : LeavesAnd i s r reported also := by
  have hf : s.newEvent.expire ds take = { s with bay := b } := by
    unfold State.expire
    rw [State.part_newEvent, hdue]
    exact congrArg (fun b => { s with bay := b }) hb
  refine leavesAnd_of_event (u := { s with bay := b }) ?_ hq hr rfl (fun n hm => .inl (hn n hm)) hu
  rw [he, runEvent, hf]

/-! ### The end of a round (R93) -/

theorem Bay.bare_modChan (b : Bay) (k : ChanNo) (f : Channel → Channel) : (b.modChan k f).bare = b.bare.modChan k f := rfl

/-- R83: a cell whose load, if it has one, has another place. -/
def CellRec.movedTo (r : CellRec) (p : LoadPlace) : CellRec := { r with load := r.load.map fun x => { x with place := p } }

/-- R93: the places of loads that a channel takes from its next-round list. -/
theorem Bay.bare_foldl_setPlace (p : LoadPlace) : ∀ (next : List (CellNo × SlotNo)) (b : Bay),
    (next.foldl (fun b e => b.setPlace e.1 p) b).bare
        = b.bare.withCells (Vector.ofFn fun c => if c ∈ next.map (·.1) then (b.cell c).movedTo p else b.cell c)
  | [], b => by
    refine (Bay.withCells_self fun c => ?_).symm
    rw [Fin.getElem_fin, Vector.getElem_ofFn]
    exact if_neg List.not_mem_nil
  | e :: next, b => by
    have hset : (b.setPlace e.1 p).bare = b.bare.setCell e.1 ((b.cell e.1).movedTo p) := Bay.bare_modCell ..
    have hcell (c : CellNo) : (b.setPlace e.1 p).cell c = if e.1 = c then (b.cell c).movedTo p else b.cell c := by
      rw [Bay.cell_of_bare hset]
      split
      · next h => subst h; exact Bay.cell_setCell_self ..
      · next h => exact Bay.cell_setCell_ne _ _ h
    have htwice (r : CellRec) : (r.movedTo p).movedTo p = r.movedTo p := by
      unfold CellRec.movedTo
      cases r.load <;> rfl
    rw [List.foldl_cons, Bay.bare_foldl_setPlace p next, hset, Bay.withCells_setCell]
    refine congrArg _ (Vector.ext fun i hi => ?_)
    rw [Vector.getElem_ofFn, Vector.getElem_ofFn, hcell, List.map_cons]
    by_cases h1 : e.1 = ⟨i, hi⟩
    · rw [if_pos h1, htwice, if_pos (List.mem_cons.2 (.inl h1.symm)), ite_self]
    · have hmem : (⟨i, hi⟩ : CellNo) ∈ e.1 :: next.map (·.1) ↔ ⟨i, hi⟩ ∈ next.map (·.1) := by
        rw [List.mem_cons]
        exact or_iff_right fun h => h1 h.symm
      rw [if_neg h1]
      simp only [hmem]

/-- R93: a channel that starts its next round. -/
def Channel.nextStarted (ch : Channel) : Channel :=
  { ch with
    state := .pulling, current := ch.base, targets := ch.nextRound.map fun e => { cell := e.1, slot := e.2 }
    nextRound := [], segs := [], pull := none, slotHeld := false }

/-- R93: the cells whose loads become targets as a round ends. -/
def Bay.nextCells (b : Bay) (k : ChanNo) : Vector CellRec 32 :=
  Vector.ofFn fun c => if c ∈ (b.chan k).nextRound.map (·.1) then (b.cell c).movedTo .target else b.cell c

theorem Bay.bare_roundEnd {x : Ctx} {b : Bay} {k : ChanNo} (hw : b.waitQueue = []) :
    (b.roundEnd x k).bare = if (b.chan k).nextRound = [] then b.bare.modChan k (Channel.idled x k)
      else (b.bare.modChan k Channel.nextStarted).withCells (b.nextCells k) := by
  split
  · next hn =>
    rw [Bay.roundEnd_nil hn hw]
    rfl
  · next hn =>
    unfold Bay.roundEnd
    cases hnext : (b.chan k).nextRound with
    | nil => exact absurd hnext hn
    | cons e next =>
      dsimp only
      rw [Bay.bare_foldl_setPlace]
      unfold Bay.nextCells Bay.modChan Channel.nextStarted
      rw [show b.bare.chan k = b.chan k from rfl, hnext]
      rfl

/-- What the end of a round takes of a channel's record, with a mode in force. -/
structure Channel.EndsAs (n ch : Channel) (mode : ChannelMode) : Prop where
  mode : n.modeInForce = mode
  next : n.nextRound = ch.nextRound
  image : n.image = ch.image
  base : n.base = ch.base
  faults : n.faults = ch.faults
  lastFault : n.lastFault = ch.lastFault

variable {s : State} {b : Bay} {k : ChanNo} {n : Channel} {mode : ChannelMode}

theorem Channel.EndsAs.view_idled (h : n.EndsAs (s.bay.chan k) mode) : (n.idled s.ctx k).view = s.idleView k := by
  unfold Channel.idled Channel.view State.idleView
  dsimp only
  rw [h.faults, h.lastFault]

theorem Channel.roundEnded_idled (hn : (s.bay.chan k).nextRound = []) (n : Channel) :
    (s.bay.chan k).RoundEnded (n.idled s.ctx k) := ⟨fun _ => ⟨rfl, rfl, rfl, rfl⟩, fun h => absurd hn h⟩

theorem Channel.EndsAs.roundEnded_next (h : n.EndsAs (s.bay.chan k) mode) (hn : (s.bay.chan k).nextRound ≠ []) :
    (s.bay.chan k).RoundEnded n.nextStarted := ⟨fun h => absurd h hn, fun _ => ⟨rfl, h.base⟩⟩

theorem Channel.EndsAs.view_next (h : n.EndsAs (s.bay.chan k) mode) :
    n.nextStarted.view
      = { (s.bay.chan k).view with
          modeInForce := mode, targets := (s.bay.chan k).nextRound.map fun e => { cell := e.1, slot := e.2 }, nextRound := []
          segs := [] } := by
  unfold Channel.nextStarted Channel.view
  dsimp only
  rw [h.mode, h.next, h.image, h.base, h.faults, h.lastFault]

/-- A change of one channel alone. -/
theorem State.records_modChan (s : State) (k : ChanNo) (f : Channel → Channel) :
    ({ s with bay := s.bay.bare.modChan k f } : State).records
      = { s.records with channels := s.records.channels.set k (f (s.bay.chan k)).view } :=
  congrArg (fun v => { s.records with channels := v }) (Vector.map_set ..)

/-- A change of one channel and of the cells. -/
theorem State.records_modChan_withCells (s : State) (k : ChanNo) (f : Channel → Channel) (v : Vector CellRec 32) :
    ({ s with bay := (s.bay.bare.modChan k f).withCells v } : State).records
      = { s.records with channels := s.records.channels.set k (f (s.bay.chan k)).view, cells := v } :=
  congrArg (fun w => { s.records with channels := w, cells := v }) (Vector.map_set ..)

/-- R93: what the end of a round leaves, on a bay that is that of a state but for the channel. -/
theorem State.roundEnd_of_bare (hb : b.bare = s.bay.bare.modChan k fun _ => n) (h : n.EndsAs (s.bay.chan k) mode)
    (hw : s.bay.waitQueue = []) :
    ({ s with bay := (b.roundEnd s.ctx k).bare } : State).records = s.roundEnded k mode
      ∧ (s.bay.chan k).RoundEnded ((b.roundEnd s.ctx k).chan k) := by
  have hchan : b.chan k = n := (congrArg (Bay.chan · k) hb).trans (Bay.chan_modChan_self ..)
  have hcells (c : CellNo) : b.cell c = s.bay.cell c := by rw [Bay.cell_of_bare hb]; rfl
  have hend := Bay.bare_roundEnd (x := s.ctx) (b := b) (k := k) ((congrArg Bay.waitQueue hb :).trans hw)
  have hafter : (b.roundEnd s.ctx k).chan k = (b.roundEnd s.ctx k).bare.chan k := rfl
  rw [hchan, h.next] at hend
  unfold State.roundEnded
  dsimp only
  split at hend
  · next hn =>
    rw [if_pos hn, hafter, hend, hb, Bay.modChan_modChan]
    refine ⟨?_, ?_⟩
    · exact (s.records_modChan k fun _ => n.idled s.ctx k).trans (by rw [h.view_idled])
    · rw [Bay.chan_modChan_self]
      exact Channel.roundEnded_idled hn n
  · next hn =>
    rw [if_neg hn, hafter, hend, hb, Bay.modChan_modChan]
    refine ⟨?_, ?_⟩
    · refine (s.records_modChan_withCells k (fun _ => n.nextStarted) (b.nextCells k)).trans ?_
      rw [h.view_next]
      unfold Bay.nextCells
      simp only [hchan, h.next, hcells]
      rfl
    · show (s.bay.chan k).RoundEnded ((s.bay.bare.modChan k fun _ => n.nextStarted).chan k)
      rw [Bay.chan_modChan_self]
      exact h.roundEnded_next hn

end Sys2Proof.Machine

/-!
PROOF. The faults of a channel (R94), and the load and the pull expiry (section 10.4).
-/

namespace Sys2Proof.Machine

/-! ### A channel that faults with one target (R94) -/

variable {s : State} {k : ChanNo} {c : CellNo} {ld : LoadRec} {cause : FaultCause}

theorem Bay.channelFault_single {x : Ctx} {b : Bay} {t : Target} (ht : (b.chan k).targets = [t]) (hn : (b.chan k).nextRound = [])
    (cause : FaultCause) : b.channelFault x k cause = ((b.modChan k (Channel.faulted cause)).goIdle x k).loadFails x t.cell := by
  unfold Bay.channelFault
  dsimp only
  rw [ht, hn]
  rfl

/-- R94: the bay as a channel has faulted and is IDLE, no load waiting. -/
theorem State.shows_faulted (hw : s.bay.waitQueue = []) (k : ChanNo) (cause : FaultCause) :
    (s.faultedChannel k cause).Shows ((s.newEvent.bay.modChan k (Channel.faulted cause)).goIdle s.ctx k) := by
  rw [Bay.goIdle_nil (b := s.newEvent.bay.modChan k (Channel.faulted cause)) hw, Bay.modChan_modChan]
  exact ⟨rfl, rfl⟩

theorem State.chan_faulted (s : State) (k : ChanNo) (cause : FaultCause) : ((s.faultedChannel k cause).bay.chan k).AtRest := by
  have hchan : (s.faultedChannel k cause).bay.chan k = _ := Vector.getElem_set_self ..
  rw [hchan]
  exact ⟨rfl, rfl, rfl, rfl⟩

/-- R94: the cell that the one target was is in no list of a channel. -/
theorem State.unlisted_faulted (cause : FaultCause)
    (h : ∀ k', k' ≠ k → (∀ x ∈ (s.bay.chan k').targets, x.cell ≠ c) ∧ ∀ e ∈ (s.bay.chan k').nextRound, e.1 ≠ c) :
    (s.faultedChannel k cause).Unlisted c := by
  intro k'
  by_cases hk : k = k'
  · subst hk
    have hchan : (s.faultedChannel k cause).bay.chan k = _ := Vector.getElem_set_self ..
    rw [hchan]
    exact ⟨nofun, nofun⟩
  · have hchan : (s.faultedChannel k cause).bay.chan k' = s.bay.chan k' := Vector.getElem_set_ne k.isLt k'.isLt fun he => hk (Fin.ext he)
    rw [hchan]
    exact h k' (Ne.symm hk)

/-- R84: a channel at rest stays so unless a load starts it. -/
theorem Bay.placing_atRest {x : Ctx} {b : Bay} (h : (b.chan k).AtRest) (c : CellNo) (im : Image) (v : SlotNo)
    (ht : ((b.placing x c im v).2.1[k]).targets = []) : ((b.placing x c im v).2.1[k]).AtRest := by
  have hset (j : ChanNo) (ch : Channel) (hj : j = k → ch.targets ≠ []) (ht : ((b.channels.set j ch)[k]).targets = []) :
      ((b.channels.set j ch)[k]).AtRest := by
    by_cases hjk : j = k
    · subst hjk
      rw [show (b.channels.set j ch)[j] = ch from Vector.getElem_set_self ..] at ht
      exact absurd ht (hj rfl)
    · rw [show (b.channels.set j ch)[k] = b.chan k from Vector.getElem_set_ne j.isLt k.isLt fun he => hjk (Fin.ext he)]
      exact h
  revert ht
  unfold Bay.placing
  cases allChans.find? fun k =>
    b.carries x im k && (b.chan k).state = .gathering && decide ((b.chan k).targets.length < 8) with
  | some j => exact hset _ _ fun _ => by simp
  | none =>
    cases hf : allChans.find? fun k =>
      b.carries x im k && (x.channel k).round = .rolling && (b.chan k).state = .pulling
        && decide ((b.chan k).nextRound.length < 8) with
    | some j =>
      refine hset _ _ fun hj => ?_
      subst hj
      have hstate := List.find?_some hf
      simp only [Bool.and_eq_true, decide_eq_true_eq] at hstate
      obtain ⟨⟨_, hpulling⟩, _⟩ := hstate
      exact nomatch h.1.symm.trans hpulling
    | none =>
      cases allChans.find? fun k => (x.channel k).enabled && (b.chan k).state = .idle with
      | some j => exact hset _ _ fun _ => by simp [Ctx.started]
      | none => exact fun _ => h

/-! ### A load that fails in an event (R98, R99) -/

/-- R98, R99: what an event of `s` leaves in which the load of a cell fails, `u` being the state as it does. -/
def State.FailureLeaves (i : Instr) (s u : State) (c : CellNo) (ld : LoadRec) (ends retries : State → Prop) : Prop :=
  ((u.bay.cell c).assignment = none → (u.bay.cell c).loadFailures = 1 →
    LeavesAnd i s (u.records.setCell c ((u.bay.cell c).faultedBy ld)) [.cellState c] ends)
  ∧ ∀ a, (u.bay.cell c).assignment = some a → (u.bay.lot a.lot).FewFailed a.step c →
    ((u.bay.cell c).loadFailures = 1 → u.NoIdle → u.KeepsOpen a.lot a.qty →
      LeavesAnd i s (u.failedTwice c ld a) [.cellState c] ends)
    ∧ ((u.bay.cell c).loadFailures = 0 → ∀ (e : CatalogueEntry) (v : SlotNo),
      u.Catalogued ((u.bay.lot a.lot).routeStep a.step).program e →
      ((u.bay.cell c).unloaded ld).Victim e.program e.revision v →
      LeavesAnd i s (u.retried c ld a e v) [.cellState c] retries)

/-- The failure of a load as the last that an event does to the bay. -/
theorem State.Shows.failureLeaves {i : Instr} {u : State} {b : Bay} {ends retries : State → Prop} (hb : u.Shows b)
    (hl : (u.bay.cell c).load = some ld) (hu : u.Unlisted c) (hw : u.bay.waitQueue = [])
    (hev : ∀ (rec : Records) (also : State → Prop), ({ u with bay := (b.loadFails u.ctx c).bare } : State).records = rec →
      .cellState c ∈ (b.loadFails u.ctx c).notices →
      also ((({ s with bay := b.loadFails u.ctx c } : State).serveClaims {}).eventEnd) → LeavesAnd i s rec [.cellState c] also)
    (hends : ∀ b' : Bay, b'.channels = u.bay.channels → ends ((({ s with bay := b' } : State).serveClaims {}).eventEnd))
    (hretries : ∀ (b' : Bay) (im : Image) (v : SlotNo), b'.channels = (u.bay.placing u.ctx c im v).2.1 →
      retries ((({ s with bay := b' } : State).serveClaims {}).eventEnd)) : s.FailureLeaves i u c ld ends retries := by
  have hw' : c ∉ u.bay.waitQueue := by rw [hw]; exact List.not_mem_nil
  refine ⟨fun ha hn => ?_, fun a ha hfew => ⟨fun hn hni hk => ?_, fun hn e v he hv => ?_⟩⟩
  · obtain ⟨hbare, hnotice⟩ := hb.fails_second_unassigned hl hu.endsNoRound hn ha
    rw [hu.leftBay_unwaiting hw'] at hbare
    exact hev _ _ (by rw [hbare]; rfl) hnotice (hends _ (congrArg Bay.channels hbare :))
  · obtain ⟨hrec, hnotice, hchannels⟩ := hb.fails_second_assigned hl hu hw' hn ha hfew hni hk
    exact hev _ _ hrec hnotice (hends _ hchannels)
  · obtain ⟨hrec, hnotice, hchannels⟩ := hb.fails_first_retried hl hu hw' hn ha he hv hfew
    exact hev _ _ hrec hnotice (hretries _ _ _ hchannels)

/-- R94, R98, R99: the fault of a channel with one target, as the last that an event does to the bay. -/
theorem State.faultLeaves {i : Instr} {t : Target} (hq : s.Quiet) (hw : s.bay.waitQueue = []) (ht : (s.bay.chan k).targets = [t])
    (hc : t.cell = c) (hn : (s.bay.chan k).nextRound = []) (hl : (s.bay.cell c).load = some ld)
    (hu : ∀ k', k' ≠ k → (∀ x ∈ (s.bay.chan k').targets, x.cell ≠ c) ∧ ∀ e ∈ (s.bay.chan k').nextRound, e.1 ≠ c)
    (hev : ∀ (rec : Records) (also : State → Prop),
      ({ s with bay := (s.newEvent.bay.channelFault s.ctx k cause).bare } : State).records = rec →
      .cellState c ∈ (s.newEvent.bay.channelFault s.ctx k cause).notices →
      also ((({ s with bay := s.newEvent.bay.channelFault s.ctx k cause } : State).serveClaims {}).eventEnd) →
      LeavesAnd i s rec [.cellState c] also) :
    s.FailureLeaves i (s.faultedChannel k cause) c ld (fun t => (t.bay.chan k).AtRest)
      fun t => (t.bay.chan k).targets = [] → (t.bay.chan k).AtRest := by
  rw [Bay.channelFault_single (b := s.newEvent.bay) ht hn, hc] at hev
  refine (State.shows_faulted hw k cause).failureLeaves (s := s) hl (State.unlisted_faulted cause hu) hw hev ?_ ?_
  · intro b' hb'
    refine State.atRest_claims (u := { s with bay := b' }) hq ?_
    rw [show ({ s with bay := b' } : State).bay.chan k = (s.faultedChannel k cause).bay.chan k from
      congrArg (fun v : Vector Channel 8 => v[k]) hb']
    exact s.chan_faulted k cause
  · intro b' im v hb'
    refine State.restsUntargeted_claims (u := { s with bay := b' }) hq ?_
    rw [show ({ s with bay := b' } : State).bay.chan k = ((s.faultedChannel k cause).bay.placing s.ctx c im v).2.1[k] from
      congrArg (fun v : Vector Channel 8 => v[k]) hb']
    exact Bay.placing_atRest (s.chan_faulted k cause) c im v

/-! ### The expiries -/

/-- R95: the pull of a DRAINING channel whose deadline has expired is gone. -/
def Channel.pullDropped (ch : Channel) : Channel := { ch with pull := none, slotHeld := false }

theorem Bay.pullExpiry_draining {x : Ctx} {b : Bay} (h : (b.chan k).state = .draining) :
    b.pullExpiry x k = (b.modChan k Channel.pullDropped).roundEnd x k := if_pos h

theorem Bay.pullExpiry_fault {x : Ctx} {b : Bay} (h : (b.chan k).state ≠ .draining) : b.pullExpiry x k = b.channelFault x k .timeout :=
  if_neg h

/-- Settles O49: a load fails; a channel ends its draining, or faults. -/
theorem loadAndPullExpiries : Obligations.LoadAndPullExpiries := by
  intro c ld d s hq hd hw r fails
  refine ⟨?_, ?_⟩
  · intro hl hdl hu hfirst
    have hnext : firstDue s.part.clock s.newEvent.bay.loadDeadlines = some c := by
      refine firstDue_cells (f := fun r => r.load.bind (·.deadline)) (d := d) (by rw [show (s.bay.cell c).load = some ld from hl]; exact hdl)
        hd fun c' d' h => ?_
      obtain ⟨x, hx, hxd⟩ := Option.bind_eq_some_iff.1 h
      exact hfirst c' x d' hx hxd
    refine (State.Shows.newEvent s).failureLeaves (s := s) hl hu hw ?_ (fun _ _ => trivial) fun _ _ _ _ => trivial
    intro rec also hr hnotice halso
    exact leavesAnd_of_expiry rfl hq hnext rfl (records_of_bare rfl hr) (List.forall_mem_singleton.2 hnotice) halso
  · intro k p hp hpd hfirst ch
    have hnext : firstDue s.part.clock s.newEvent.bay.pullDeadlines = some k := by
      rw [Bay.pullDeadlines_eq]
      refine firstDue_filterMap (f := fun k => (s.newEvent.bay.chan k).pull.map (·.deadline)) (d := d) (by rw [show (s.newEvent.bay.chan k).pull = some p from hp]; exact congrArg some hpd) hd
        fun k' d' h => ?_
      obtain ⟨p', hp', rfl⟩ := Option.map_eq_some_iff.1 h
      exact hfirst k' p' hp'
    refine ⟨fun hst => ?_, fun hst hn t ht hc hl hu => ?_⟩
    · obtain ⟨hr, hend⟩ := State.roundEnd_of_bare (s := s) (b := s.newEvent.bay.modChan k Channel.pullDropped)
        (n := (s.bay.chan k).pullDropped) (mode := ch.modeInForce) rfl ⟨rfl, rfl, rfl, rfl, rfl, rfl⟩ hw
      exact leavesAnd_of_expiry rfl hq hnext (Bay.pullExpiry_draining (b := s.newEvent.bay) hst) (records_of_bare rfl hr) nofun
        (State.roundEnded_claims
          (u := { s with bay := (s.newEvent.bay.modChan k Channel.pullDropped).roundEnd s.ctx k }) hq hend)
    · refine State.faultLeaves hq hw ht hc hn hl hu fun rec also hr hnotice halso => ?_
      exact leavesAnd_of_expiry rfl hq hnext (Bay.pullExpiry_fault (b := s.newEvent.bay) hst) (records_of_bare rfl hr)
        (List.forall_mem_singleton.2 hnotice) halso

end Sys2Proof.Machine

/-!
PROOF. SEGMENT (sections 4.5 to 4.8).
-/

namespace Sys2Proof.Machine

variable {s : State} {k : ChanNo} {p : Pull}

/-- An event of the uplink port that is no request, with a property of the state that the claims leave. -/
theorem leavesAnd_of_uplink {i : Instr} {u : State} {r : Records} {reported : List Notice} {also : State → Prop}
    (he : exec i s = .next (runUplink i s)) (h : s.TakesUplink) (hi : isRequest i = false) (hs : serveUplink i s.newEvent = u)
    (hq : u.Quiet) (hr : u.records = r) (ht : u.traffic = s.traffic) (hn : ∀ n ∈ reported, u.Reported n)
    (hu : also (u.serveClaims {}).eventEnd) : LeavesAnd i s r reported also := by
  refine leavesAnd_of_event (u := u) ?_ hq hr ht hn hu
  rw [he, runUplink_eq h.1 h.2 (fun hreq => absurd hreq (by rw [hi]; decide)), hs]

/-- A SEGMENT that reaches its channel. -/
theorem serveSegment_eq {lot program : Half} {revision : Byte} {number : Half} {image : List Byte} (hne : image ≠ [])
    (hlen : image.length ≤ 1024) (k : ChanNo) (s : State) :
    serveSegment lot (BitVec.ofNat 8 k.val) program revision number image s = s.segmentFor k lot program revision number image := by
  have hk : (BitVec.ofNat 8 k.val).toNat = k.val := by
    have := k.isLt
    rw [BitVec.toNat_ofNat]
    omega
  have hidx : indexOf 8 (BitVec.ofNat 8 k.val) = some k := by
    rw [indexOf_toNat (by rw [hk]; exact k.isLt)]
    exact congrArg some (Fin.ext hk)
  unfold serveSegment
  rw [if_neg (by omega), if_neg hne, hidx]

theorem State.segmentFor_expected {lot : Half} {number : Half} {image : List Byte} {im : Image} (hp : (s.bay.chan k).pull = some p)
    (him : (s.bay.chan k).image = some im) (hn : number.toNat = p.first + p.arrived) :
    s.segmentFor k lot im.program im.revision number image
      = { s with bay := s.bay.takeSegment s.ctx k p { number := number.toNat, lot := lot, image := image } } := by
  unfold State.segmentFor
  dsimp only
  rw [hp, him]
  dsimp only
  rw [if_neg (by simp), if_pos hn]
  rfl

theorem State.segmentFor_wrong {lot : Half} {number : Half} {image : List Byte} {im : Image} (hp : (s.bay.chan k).pull = some p)
    (him : (s.bay.chan k).image = some im) (hn : number.toNat ≠ p.first + p.arrived) (hst : (s.bay.chan k).state ≠ .draining) :
    s.segmentFor k lot im.program im.revision number image = { s with bay := s.bay.channelFault s.ctx k .sequence } := by
  unfold State.segmentFor
  dsimp only
  rw [hp, him]
  dsimp only
  rw [if_neg (by simp), if_neg hn, if_neg hst]
  rfl

/-! ### The segment that is taken (R90, R91) -/

/-- R91: a channel that has taken an expected segment. -/
def Channel.arrived (p : Pull) (sg : SegBuf) (ch : Channel) : Channel :=
  { ch with
    segs := if ch.state = .draining then ch.segs else ch.segs ++ [sg]
    pull := some { p with arrived := p.arrived + 1 } }

/-- R86, R90: a channel whose pull is complete, with the written mode in force. -/
def Channel.completed (mode : ChannelMode) (ch : Channel) : Channel :=
  { ch with
    modeInForce := mode, pull := none
    slotHeld := ch.slotHeld && !decide (ch.state = .draining) && mode = .whole && decide (0 < ch.current) }

theorem Bay.takeSegment_open {x : Ctx} {b : Bay} (h : p.arrived + 1 < p.n) (sg : SegBuf) :
    b.takeSegment x k p sg = b.modChan k (Channel.arrived p sg) := if_neg (by omega)

theorem Bay.takeSegment_last {x : Ctx} {b : Bay} (h : p.arrived + 1 = p.n) (sg : SegBuf) :
    b.takeSegment x k p sg = (b.modChan k (Channel.arrived p sg)).pullComplete x k := if_pos h

theorem Bay.pullComplete_draining {x : Ctx} {b : Bay} (h : (b.chan k).state = .draining) :
    b.pullComplete x k = (b.modChan k (Channel.completed (x.channel k).mode)).roundEnd x k := by
  have hmod : (b.modChan k fun ch =>
      { ch with
        modeInForce := (x.channel k).mode, pull := none
        slotHeld := ch.slotHeld && !decide ((b.chan k).state = .draining) && (x.channel k).mode = .whole && decide (0 < ch.current) })
      = b.modChan k (Channel.completed (x.channel k).mode) := rfl
  unfold Bay.pullComplete
  dsimp only
  rw [hmod]
  exact if_pos h

theorem Bay.pullComplete_targets {x : Ctx} {b : Bay} (h : (b.chan k).state ≠ .draining) (ht : (b.chan k).targets ≠ []) :
    b.pullComplete x k = b.modChan k (Channel.completed (x.channel k).mode) := by
  have hmod : (b.modChan k fun ch =>
      { ch with
        modeInForce := (x.channel k).mode, pull := none
        slotHeld := ch.slotHeld && !decide ((b.chan k).state = .draining) && (x.channel k).mode = .whole && decide (0 < ch.current) })
      = b.modChan k (Channel.completed (x.channel k).mode) := rfl
  unfold Bay.pullComplete
  dsimp only
  rw [hmod, if_neg (by simpa using h)]
  unfold Bay.endIfDone
  rw [if_neg]
  rintro ⟨_, _, _, htargets⟩
  rw [Bay.chan_modChan_self] at htargets
  exact ht htargets

/-- R161: a segment that arrives takes the buffer that was reserved for it. -/
theorem State.free_segmentTaken {n : Channel} (hn : n.taken = (s.bay.chan k).taken) :
    ({ s with bay := s.bay.modChan k fun _ => n } : State).free = s.free := by
  have hsum := sum_map_set s.bay.channels k n Channel.taken
  rw [hn] at hsum
  rw [State.free_eq, State.free_eq]
  have hk : s.bay.channels[k].taken = (s.bay.chan k).taken := rfl
  simp only [State.used, Bay.channels_modChan]
  omega

/-- R88: a channel that has nothing to ask for, or no room for it, is granted nothing. -/
theorem State.chan_claims_unpulled {u : State} (hq : u.Quiet)
    (h : (u.bay.chan k).current = 0 ∨ u.free ≤ u.tables.settings.loadWatermark) :
    (u.serveClaims {}).eventEnd.bay.chan k = u.bay.chan k := by
  refine State.claims_chan (Q := (· = u.bay.chan k)) hq rfl fun t hr hf ht _ hn => absurd hn ?_
  have htables : t.tables = u.tables := congrArg Records.tables hr
  unfold State.pullSize
  rw [ht, htables]
  omega

/-- A channel whose pull is outstanding is granted nothing. -/
theorem State.chan_claims_pulled {u : State} (hq : u.Quiet) (h : (u.bay.chan k).pull ≠ none) :
    (u.serveClaims {}).eventEnd.bay.chan k = u.bay.chan k :=
  State.claims_chan (Q := (· = u.bay.chan k)) hq rfl fun _ _ _ ht hp _ => absurd (ht ▸ hp.2) h

/-! ### The expected segment, by what it leaves of its pull -/

/-- An expected segment reaches its channel `k`, whose pull is `p`, as the command `i`. -/
structure State.Expects (s : State) (k : ChanNo) (p : Pull) (sg : SegBuf) (i : Instr) : Prop where
  taken : s.TakesUplink
  pull : (s.bay.chan k).pull = some p
  exec : exec i s = .next (runUplink i s)
  request : isRequest i = false
  serve : serveUplink i s.newEvent = { s with bay := s.newEvent.bay.takeSegment s.ctx k p sg }

variable {sg : SegBuf} {i : Instr}

theorem State.expects_segment {lot : Half} {slot : Byte} {number : Half} {image : List Byte} {im : Image} (ht : s.TakesUplink)
    (hne : image ≠ []) (hlen : image.length ≤ 1024) (him : (s.bay.chan k).image = some im) (hp : (s.bay.chan k).pull = some p)
    (hn : number.toNat = p.first + p.arrived) :
    s.Expects k p { number := number.toNat, lot := lot, image := image }
      (.segment lot (BitVec.ofNat 8 k.val) slot im.program im.revision number image) :=
  ⟨ht, hp, rfl, rfl, (serveSegment_eq hne hlen k s.newEvent).trans (State.segmentFor_expected (s := s.newEvent) hp him hn)⟩

theorem State.Expects.leavesAnd (h : s.Expects k p sg i) {b : Bay} (hb : s.newEvent.bay.takeSegment s.ctx k p sg = b) {rec : Records}
    {also : State → Prop} (hr : ({ s with bay := b.bare } : State).records = rec)
    (hu : also ((({ s with bay := b } : State).serveClaims {}).eventEnd)) : LeavesAnd i s rec [] also := by
  subst hb
  exact leavesAnd_of_uplink h.exec h.taken h.request h.serve h.taken.1 (records_of_bare rfl hr) rfl nofun hu

/-- R91: more segments of the pull are to come. -/
theorem State.Expects.open (h : s.Expects k p sg i) (hopen : p.arrived + 1 < p.n) :
    LeavesAnd i s { s.records with channels := s.records.channels.set k (Channel.arrived p sg (s.bay.chan k)).view } [] fun t =>
      t.bay.chan k = Channel.arrived p sg (s.bay.chan k) := by
  have hself : (s.newEvent.bay.modChan k (Channel.arrived p sg)).chan k = Channel.arrived p sg (s.bay.chan k) := Bay.chan_modChan_self ..
  refine h.leavesAnd (Bay.takeSegment_open hopen sg) (s.records_modChan k (Channel.arrived p sg)) ?_
  rw [State.chan_claims_pulled (u := { s with bay := s.newEvent.bay.modChan k (Channel.arrived p sg) }) h.taken.1 (by rw [hself]; exact nofun)]
  exact hself

/-- R86, R90: a channel that has taken the last segment of its pull. -/
def Channel.arrivedLast (p : Pull) (sg : SegBuf) (mode : ChannelMode) (ch : Channel) : Channel := (ch.arrived p sg).completed mode

theorem Bay.arrivedLast_modChan (b : Bay) (k : ChanNo) (p : Pull) (sg : SegBuf) (mode : ChannelMode) :
    (b.modChan k (Channel.arrived p sg)).modChan k (Channel.completed mode) = b.modChan k (Channel.arrivedLast p sg mode) :=
  Bay.modChan_modChan ..

/-- R86, R90: the pull is complete, its channel not DRAINING. -/
theorem State.Expects.last (h : s.Expects k p sg i) (hlast : p.arrived + 1 = p.n) (hst : (s.bay.chan k).state ≠ .draining)
    (ht : (s.bay.chan k).targets ≠ []) :
    LeavesAnd i s
      { s.records with
        channels := s.records.channels.set k (Channel.arrivedLast p sg s.tables.channels[k].mode (s.bay.chan k)).view } [] fun t =>
      (s.bay.chan k).current = 0 ∨ s.free ≤ s.tables.settings.loadWatermark →
        t.bay.chan k = Channel.arrivedLast p sg s.tables.channels[k].mode (s.bay.chan k) := by
  have hself : (s.newEvent.bay.modChan k (Channel.arrivedLast p sg s.tables.channels[k].mode)).chan k
      = Channel.arrivedLast p sg s.tables.channels[k].mode (s.bay.chan k) := Bay.chan_modChan_self ..
  refine h.leavesAnd ((Bay.takeSegment_last hlast sg).trans ((Bay.pullComplete_targets (by rw [Bay.chan_modChan_self]; exact hst)
    (by rw [Bay.chan_modChan_self]; exact ht)).trans (Bay.arrivedLast_modChan ..)))
    (s.records_modChan k (Channel.arrivedLast p sg s.tables.channels[k].mode)) fun hroom => ?_
  have hfree : ({ s with bay := s.newEvent.bay.modChan k (Channel.arrivedLast p sg s.tables.channels[k].mode) } : State).free = s.free := by
    refine State.free_segmentTaken (s := s.newEvent) ?_
    have hreserved : (s.bay.chan k).reserved = p.n - p.arrived := by
      unfold Channel.reserved
      rw [h.pull]
    show (if (s.bay.chan k).state = .draining then (s.bay.chan k).segs else (s.bay.chan k).segs ++ [sg]).length + 0
      = (s.bay.chan k).segs.length + (s.bay.chan k).reserved
    rw [if_neg hst, hreserved, List.length_append, List.length_singleton]
    omega
  refine (State.chan_claims_unpulled (k := k)
    (u := { s with bay := s.newEvent.bay.modChan k (Channel.arrivedLast p sg s.tables.channels[k].mode) }) h.taken.1 ?_).trans hself
  rw [hself, hfree]
  exact hroom

/-- R90, R93: the pull of a DRAINING channel is complete, and ends its round. -/
theorem State.Expects.drained (h : s.Expects k p sg i) (hlast : p.arrived + 1 = p.n) (hst : (s.bay.chan k).state = .draining)
    (hw : s.bay.waitQueue = []) :
    LeavesAnd i s (s.roundEnded k s.tables.channels[k].mode) [] fun t => (s.bay.chan k).RoundEnded (t.bay.chan k) := by
  obtain ⟨hr, hend⟩ := State.roundEnd_of_bare (s := s)
    (b := s.newEvent.bay.modChan k (Channel.arrivedLast p sg s.tables.channels[k].mode))
    (n := Channel.arrivedLast p sg s.tables.channels[k].mode (s.bay.chan k))
    (mode := s.tables.channels[k].mode) rfl ⟨rfl, rfl, rfl, rfl, rfl, rfl⟩ hw
  refine h.leavesAnd ((Bay.takeSegment_last hlast sg).trans ((Bay.pullComplete_draining (by rw [Bay.chan_modChan_self]; exact hst)).trans
    ?_)) hr (State.roundEnded_claims (u := { s with bay := Bay.roundEnd _ _ _ }) h.taken.1 hend)
  exact congrArg (Bay.roundEnd s.ctx · k) (Bay.arrivedLast_modChan ..)

/-- Settles O42: the segment that is expected, by what it leaves of its pull; the one of wrong number, a fault. -/
theorem segmentTakenOrChannelFaulted : Obligations.SegmentTakenOrChannelFaulted := by
  refine ⟨?_, ?_⟩
  · intro k lot slot number image im p s ht hne hlen ch him hp hn i v channels kept
    have hexpects := State.expects_segment (lot := lot) (slot := slot) ht hne hlen him hp hn
    refine ⟨fun hopen => ?_, fun hlast hst htargets => ?_, fun hlast hst hw => hexpects.drained hlast hst hw⟩
    · obtain ⟨t, he, hr, htr, _, _, hchan⟩ := hexpects.open hopen
      refine ⟨t, he, hr.trans ?_, htr.trans (List.append_nil _), by rw [hchan]; rfl, by rw [hchan]; rfl⟩
      unfold Channel.arrived
      split <;> rfl
    · obtain ⟨t, he, hr, htr, hset, hrep, hchan⟩ := hexpects.last hlast hst htargets
      refine ⟨t, he, hr.trans ?_, htr, hset, hrep, fun hroom => ?_⟩
      · unfold Channel.arrivedLast Channel.arrived
        rw [if_neg hst]
        rfl
      · rw [hchan hroom]
        refine ⟨rfl, rfl, rfl, ?_⟩
        show (ch.slotHeld && !decide (ch.state = .draining) && decide (s.tables.channels[k].mode = .whole) && decide (0 < ch.current))
          = kept
        rw [decide_eq_false hst, Bool.not_false, Bool.and_true, Bool.and_assoc, ← Bool.decide_and, Bool.and_comm]
  · intro k c lot slot number image im p t ld s ht hne hlen ch r him hp hn hst htargets hc hnext hw hl hu i u rests
    refine State.faultLeaves ht.1 hw htargets hc hnext hl hu fun rec also hr hnotice halso => ?_
    exact leavesAnd_of_uplink rfl ht rfl
      ((serveSegment_eq hne hlen k s.newEvent).trans (State.segmentFor_wrong (s := s.newEvent) hp him hn hst)) ht.1
      (records_of_bare rfl hr) rfl (List.forall_mem_singleton.2 (.inl hnotice)) halso

end Sys2Proof.Machine

/-!
PROOF. The ends of sendings (sections 4.6, 8.4 and 9.5).
-/

namespace Sys2Proof.Machine

/-! ### The uplink and the downlink queues (R165, R170) -/

theorem endUplinkSending_up {s : State} (h : s.link.uplinkUp = true) :
    endUplinkSending s = { s with link := { s.link with uplink := s.link.uplink.tail } } := if_pos h

theorem endUplinkSending_down {s : State} (h : s.link.uplinkUp = false) : endUplinkSending s = s :=
  if_neg (by rw [h]; exact Bool.false_ne_true)

theorem endDownlinkCopy_sending {s : State} {c : CellNo} (h : s.link.ports[c].tx.copy = true) :
    endDownlinkCopy c s = s.modPort c fun p => { p with downlink := p.downlink.tail, tx := {} } := if_pos h

theorem endDownlinkCopy_none {s : State} {c : CellNo} (h : s.link.ports[c].tx.copy = false) : endDownlinkCopy c s = s :=
  if_neg (by rw [h]; exact Bool.false_ne_true)

/-- R165, R170: the end of a sending of the uplink queue's head, and of a downlink copy. -/
theorem sendings_end (c : CellNo) (s : State) (hq : s.Quiet) :
    (s.link.uplinkUp = true →
      ∃ t, exec .uplinkSendingEnd s = .next t ∧ t.records = s.records
        ∧ t.traffic = s.link.uplink.tail.filter UpEntry.traffic ∧ s.UplinkKept s.link.uplink.tail t ∧ t.Settled)
    ∧ (s.link.uplinkUp = false → LeavesAnd .uplinkSendingEnd s s.records [] (s.UplinkKept s.link.uplink))
    ∧ (s.link.ports[c].tx.copy = true →
      LeavesAnd (.downlinkCopySent c) s
        { s.records with ports := s.records.ports.set c { s.link.ports[c].view with downlink := s.link.ports[c].downlink.tail } } []
        (s.UplinkKept s.link.uplink))
    ∧ (s.link.ports[c].tx.copy = false → LeavesAnd (.downlinkCopySent c) s s.records [] (s.UplinkKept s.link.uplink)) := by
  refine ⟨fun hup => ?_, fun hup => ?_, fun hcopy => ?_, fun hcopy => ?_⟩
  · have hend := endUplinkSending_up (s := s.newEvent) hup
    have hquiet : ({ s.newEvent with link := { s.newEvent.link with uplink := s.newEvent.link.uplink.tail } } : State).Quiet := hq
    refine ⟨_, rfl, ?_⟩
    unfold runEvent
    rw [hend]
    exact ⟨(event_quiet hquiet).1, (event_quiet hquiet).2.1, State.uplinkKept_event hquiet rfl id, settled_event hquiet⟩
  · have hend := endUplinkSending_down (s := s.newEvent) hup
    refine leavesAnd_uplinkKept (f := endUplinkSending) rfl ?_ ?_ ?_ ?_ ?_ <;> rw [hend]
    exacts [hq, rfl, rfl, rfl, id]
  · have hend := endDownlinkCopy_sending (s := s.newEvent) hcopy
    refine leavesAnd_uplinkKept (f := endDownlinkCopy c) rfl ?_ ?_ ?_ ?_ ?_ <;> rw [hend]
    exacts [State.quiet_modPort (s := s.newEvent) hq (hq.2 c), State.records_modPort s.newEvent c _, rfl, rfl, id]
  · have hend := endDownlinkCopy_none (s := s.newEvent) hcopy
    refine leavesAnd_uplinkKept (f := endDownlinkCopy c) rfl ?_ ?_ ?_ ?_ ?_ <;> rw [hend]
    exacts [hq, rfl, rfl, rfl, id]

/-! ### The end of a segment copy (R92) -/

variable {s : State} {c : CellNo} {g : SegmentCopy}

/-- R92: a channel whose target, that a cell is, has moved on. -/
def Channel.movedOn (c : CellNo) (ch : Channel) : Channel :=
  { ch with targets := ch.targets.map fun t => if t.cell = c then { t with pos := t.pos + 1 } else t }

/-- R92: a channel from which the segments that every target has passed are gone. -/
def Channel.freed (ch : Channel) : Channel := { ch with segs := ch.unpassed }

/-- R92: a channel whose target, that a cell is, has been sent the last segment. -/
def Channel.fullySent (c : CellNo) (ch : Channel) : Channel :=
  { ch.movedOn c with targets := (ch.movedOn c).targets.filter (·.cell ≠ c) }

/-- R92: the record of a cell whose load waits for its LOADED. -/
def CellRec.awaiting (x : Ctx) (r : CellRec) : CellRec :=
  { r with
    load := r.load.map fun ld =>
      { ld with place := .awaiting, deadline := some (deadlineAfter x.clock (seconds x.tables.settings.loadTimeout)) } }

/-- R92: what the end of a copy does, by whether the target has been sent the last segment. -/
theorem Bay.delivered_eq (x : Ctx) (b : Bay) (k : ChanNo) (c : CellNo) :
    b.delivered x k c
      = ((if ((b.chan k).movedOn c).targets.any (fun t => t.cell = c && decide (t.pos = (b.chan k).base)) then
          (b.modChan k (Channel.fullySent c)).modCell c (CellRec.awaiting x)
        else b.modChan k (Channel.movedOn c)).modChan k Channel.freed).endIfDone x k := by
  have hchan : (b.modChan k (Channel.movedOn c)).chan k = (b.chan k).movedOn c := Bay.chan_modChan_self ..
  have hsent : (b.modChan k (Channel.movedOn c)).deliveryComplete x k c
      = (b.modChan k (Channel.fullySent c)).modCell c (CellRec.awaiting x) :=
    congrArg (Bay.modCell · c (CellRec.awaiting x)) (Bay.modChan_modChan ..)
  have hdelivered : b.delivered x k c
      = ((if ((b.modChan k (Channel.movedOn c)).chan k).targets.any
            (fun t => t.cell = c && decide (t.pos = ((b.modChan k (Channel.movedOn c)).chan k).base)) then
          (b.modChan k (Channel.movedOn c)).deliveryComplete x k c
        else b.modChan k (Channel.movedOn c)).modChan k Channel.freed).endIfDone x k := rfl
  rw [hdelivered, hchan, hsent]
  rfl

theorem Bay.endIfDone_targets {x : Ctx} {b : Bay} {k : ChanNo} (h : (b.chan k).targets ≠ []) : b.endIfDone x k = b :=
  if_neg fun ⟨_, _, _, ht⟩ => h ht

theorem Bay.delivered_moved {x : Ctx} {b : Bay} {k : ChanNo} (hne : ((b.chan k).movedOn c).targets ≠ [])
    (h : ∀ t ∈ ((b.chan k).movedOn c).targets, t.cell = c → t.pos ≠ (b.chan k).base) :
    b.delivered x k c = b.modChan k fun ch => (ch.movedOn c).freed := by
  have hany : ¬((b.chan k).movedOn c).targets.any (fun t => t.cell = c && decide (t.pos = (b.chan k).base)) = true := by
    rw [List.any_eq_true]
    rintro ⟨t, ht, hp⟩
    simp only [Bool.and_eq_true, decide_eq_true_eq] at hp
    exact h t ht hp.1 hp.2
  rw [Bay.delivered_eq, if_neg hany, Bay.modChan_modChan]
  exact Bay.endIfDone_targets (by rw [Bay.chan_modChan_self]; exact hne)

theorem Bay.delivered_sent {x : Ctx} {b : Bay} {k : ChanNo}
    (h : ∃ t ∈ ((b.chan k).movedOn c).targets, t.cell = c ∧ t.pos = (b.chan k).base) :
    ∃ b' : Bay, b.delivered x k c = b'.endIfDone x k
      ∧ b'.bare = (b.bare.modChan k fun _ => ((b.chan k).fullySent c).freed).setCell c ((b.cell c).awaiting x) := by
  obtain ⟨t, ht, hp⟩ := h
  have hany : ((b.chan k).movedOn c).targets.any (fun t => t.cell = c && decide (t.pos = (b.chan k).base)) = true :=
    List.any_eq_true.2 ⟨t, ht, by simpa using hp⟩
  refine ⟨_, by rw [Bay.delivered_eq, if_pos hany], ?_⟩
  have hsent : (b.bare.modChan k (Channel.fullySent c)).modChan k Channel.freed
      = b.bare.modChan k fun _ => ((b.chan k).fullySent c).freed := Bay.modChan_modChan ..
  rw [Bay.bare_modChan, Bay.bare_modCell, ← hsent]
  rfl

/-- The end of a segment copy, as an event of the bay. -/
theorem leavesAnd_segmentCopySent (hq : s.Quiet) (hg : s.link.ports[c].tx.segment = some g) (hlive : g.live = true) {b : Bay}
    (hb : s.newEvent.bay.delivered s.ctx g.chan c = b) {rec : Records} {also : State → Prop}
    (hr : ({ s with bay := b.bare } : State).records = rec)
    (hu : ∀ u : State, u.Quiet → u.bay = b → also (u.serveClaims {}).eventEnd) :
    LeavesAnd (.segmentCopySent c) s rec [] also := by
  have hend : endSegmentCopy c s.newEvent
      = { s.newEvent.modPort c fun p => { p with tx := {} } with bay := b } := by
    unfold endSegmentCopy
    rw [State.link_newEvent, hg]
    dsimp only
    rw [if_pos hlive, ← hb]
    rfl
  have hquiet : (s.newEvent.modPort c fun p => { p with tx := {} }).Quiet := State.quiet_modPort (s := s.newEvent) hq (hq.2 c)
  refine leavesAnd_of_event (u := { s.newEvent.modPort c fun p => { p with tx := {} } with bay := b }) ?_ hquiet ?_ rfl nofun
    (hu _ hquiet rfl)
  · rw [← hend]
    rfl
  · rw [← hr]
    exact State.records_modPort_same (s := { s with bay := b }) (c := c) (f := fun p => { p with tx := {} }) rfl

theorem LeavesAnd.leaves {i : Instr} {s : State} {r r' : Records} {reported : List Notice} {also : State → Prop}
    (h : LeavesAnd i s r reported also) (hr : r = r') : Leaves i s r' reported := by
  obtain ⟨t, he, hrec, ht, hs, hn, _⟩ := h
  exact ⟨t, he, hrec.trans hr, ht, hs, hn⟩

/-- A change of one channel and of one cell. -/
theorem State.records_modChan_setCell (s : State) (k : ChanNo) (n : Channel) (c : CellNo) (r : CellRec) :
    ({ s with bay := (s.bay.bare.modChan k fun _ => n).setCell c r } : State).records
      = { s.records.setCell c r with channels := s.records.channels.set k n.view } :=
  congrArg (fun v => { s.records.setCell c r with channels := v }) (Vector.map_set ..)

theorem Bay.modChan_setCell_self (b : Bay) (k : ChanNo) (n : Channel) (c : CellNo) :
    (b.modChan k fun _ => n).setCell c (b.cell c) = b.modChan k fun _ => n := Bay.setCell_self (b.modChan k fun _ => n) c

/-- R92: a copy of a target that has gone counts for nothing. -/
theorem leaves_segmentCopyDead (hq : s.Quiet) (hg : s.link.ports[c].tx.segment = some g) (hlive : g.live = false) :
    Leaves (.segmentCopySent c) s s.records := by
  have hend : endSegmentCopy c s.newEvent = s.newEvent.modPort c fun p => { p with tx := {} } := by
    unfold endSegmentCopy
    rw [State.link_newEvent, hg]
    dsimp only
    rw [if_neg (by rw [hlive]; exact Bool.false_ne_true)]
  refine leaves_of_event (f := endSegmentCopy c) rfl ?_ ?_ ?_ nofun <;> rw [hend]
  · exact State.quiet_modPort (s := s.newEvent) hq (hq.2 c)
  · exact State.records_modPort_same (s := s.newEvent) rfl
  · rfl

/-! ### The last segment of the last target (R93) -/

/-- What the end of a round leaves where a cell that is not in the next round has another record. -/
theorem State.roundEnd_of_bare_cell {b : Bay} {k : ChanNo} {n : Channel} {mode : ChannelMode} {r : CellRec}
    (hb : b.bare = (s.bay.bare.modChan k fun _ => n).setCell c r) (h : n.EndsAs (s.bay.chan k) mode) (hw : s.bay.waitQueue = [])
    (hc : c ∉ (s.bay.chan k).nextRound.map (·.1)) :
    ({ s with bay := (b.roundEnd s.ctx k).bare } : State).records = (s.roundEnded k mode).setCell c r
      ∧ (s.bay.chan k).RoundEnded ((b.roundEnd s.ctx k).chan k) := by
  obtain ⟨hr, hend⟩ := State.roundEnd_of_bare (s := { s with bay := s.bay.setCell c r }) hb h hw
  refine ⟨hr.trans ?_, hend⟩
  unfold State.roundEnded
  dsimp only
  by_cases hn : (s.bay.chan k).nextRound = []
  · rw [if_pos hn, if_pos (show ((s.bay.setCell c r).chan k).nextRound = [] from hn)]
    rfl
  · rw [if_neg hn, if_neg (show ((s.bay.setCell c r).chan k).nextRound ≠ [] from hn)]
    have hcells : (Vector.ofFn fun c' => if c' ∈ (s.bay.chan k).nextRound.map (·.1) then ((s.bay.setCell c r).cell c').movedTo .target
        else (s.bay.setCell c r).cell c')
        = (Vector.ofFn fun c' => if c' ∈ (s.bay.chan k).nextRound.map (·.1) then (s.bay.cell c').movedTo .target else s.bay.cell c').set c r := by
      refine Vector.ext fun i hi => ?_
      rw [Vector.getElem_ofFn, Vector.getElem_set]
      by_cases he : c.val = i
      · subst he
        rw [if_neg hc, if_pos rfl]
        exact Bay.cell_setCell_self ..
      · rw [if_neg he, Vector.getElem_ofFn, Bay.cell_setCell_ne _ _ fun h => he (congrArg Fin.val h)]
    exact congrArg (fun v : Vector CellRec 32 =>
      { s.records with
        channels := s.records.channels.set k
          { (s.bay.chan k).view with
            modeInForce := mode, targets := (s.bay.chan k).nextRound.map fun e : CellNo × SlotNo => { cell := e.1, slot := e.2 }
            nextRound := [], segs := [] }
        cells := v }) hcells

/-- Settles O50: ends of sendings of the queues; copies of targets gone, moved on, sent, and the last one. -/
theorem sendingsEnd : Obligations.SendingsEnd := by
  refine ⟨sendings_end, ?_⟩
  intro c g s hq hg ch r moved kept channels
  refine ⟨fun hlive => leaves_segmentCopyDead hq hg hlive, fun hlive => ⟨fun hne hpos => ?_, fun ld hsent hother hl => ?_,
    fun ld hsent hall hl hst hcur hp hc hw => ?_⟩⟩
  · refine (leavesAnd_segmentCopySent (also := fun _ => True) hq hg hlive (Bay.delivered_moved (b := s.newEvent.bay) hne hpos) rfl
      fun _ _ _ => trivial).leaves ?_
    have hself := s.bay.bare.modChan_setCell_self g.chan (ch.movedOn c).freed c
    exact (congrArg (fun b : Bay => ({ s with bay := b } : State).records) hself.symm).trans (s.records_modChan_setCell ..)
  all_goals
    obtain ⟨b, hb, hbare⟩ := Bay.delivered_sent (x := s.ctx) (b := s.newEvent.bay) (k := g.chan) hsent
    have hload : r.awaiting s.ctx = { r with
        load := some { ld with place := .awaiting, deadline := some (dueAt s.part.clock (s.tables.settings.loadTimeout * 1000)) } } := by
      unfold CellRec.awaiting
      rw [hl]
      rfl
    have hchan : b.chan g.chan = (ch.fullySent c).freed :=
      (congrArg (Bay.chan · g.chan) hbare).trans (Bay.chan_modChan_self s.bay.bare g.chan fun _ => (ch.fullySent c).freed)
    replace hbare : b.bare = (s.bay.bare.modChan g.chan fun _ => (ch.fullySent c).freed).setCell c (r.awaiting s.ctx) := hbare
    rw [hload] at hbare
  · have hne : (b.chan g.chan).targets ≠ [] := by
      obtain ⟨t, ht, hc⟩ := hother
      rw [hchan]
      exact List.ne_nil_of_mem (List.mem_filter.2 ⟨ht, decide_eq_true hc⟩)
    refine (leavesAnd_segmentCopySent (also := fun _ => True) hq hg hlive (hb.trans (Bay.endIfDone_targets hne)) rfl
      fun _ _ _ => trivial).leaves ?_
    rw [hbare]
    exact s.records_modChan_setCell ..
  · have hend : b.endIfDone s.ctx g.chan = b.roundEnd s.ctx g.chan := by
      refine if_pos ?_
      rw [hchan]
      exact ⟨hst, hcur, hp, List.filter_eq_nil_iff.2 fun t ht => by simpa using hall t ht⟩
    obtain ⟨hr, hround⟩ := State.roundEnd_of_bare_cell hbare (mode := ch.modeInForce) ⟨rfl, rfl, rfl, rfl, rfl, rfl⟩ hw hc
    refine leavesAnd_segmentCopySent hq hg hlive (hb.trans hend) hr fun u hu hub => State.roundEnded_claims hu ?_
    rw [hub]
    exact hround

end Sys2Proof.Machine

/-!
PROOF. TABLE.WRITE of the settings of a load channel (sections 4.4, 4.5 and 10.2).
-/

namespace Sys2Proof.Machine

/-! ### Waiting loads that join a channel (R85) -/

/-- R85: the target that a waiting load becomes. -/
def Bay.targetOf (b : Bay) (c : CellNo) : Target := { cell := c, slot := ((b.cell c).load.map (·.slot)).getD 0 }

/-- R85: the cells as the loads of a list of them have become targets. -/
def Bay.targetCells (b : Bay) (js : List CellNo) : Vector CellRec 32 :=
  Vector.ofFn fun c => if c ∈ js then (b.cell c).movedTo .target else b.cell c

/-- R85: the channels as they have, with the targets of a channel. -/
def Bay.targetChannels (b : Bay) (k : ChanNo) (js : List CellNo) : Vector Channel 8 :=
  b.channels.set k { b.chan k with targets := (b.chan k).targets ++ js.map b.targetOf }

/-- R85: a bay in which the waiting loads of a list of cells have become targets of a channel. -/
def Bay.joined (b : Bay) (k : ChanNo) (js : List CellNo) : Bay :=
  (b.withCells (b.targetCells js)).withLoads (b.targetChannels k js) (b.waitQueue.filter (· ∉ js))

variable {b d : Bay} {k : ChanNo} {c : CellNo} {js : List CellNo} {ld : LoadRec}

theorem Bay.joined_nil (b : Bay) (k : ChanNo) : b.joined k [] = b := by
  have hcells : b.targetCells [] = b.cells := Vector.ext fun i hi => by
    unfold Bay.targetCells
    rw [Vector.getElem_ofFn, if_neg List.not_mem_nil]
    rfl
  have hchannels : b.targetChannels k [] = b.channels := by
    unfold Bay.targetChannels
    rw [List.map_nil, List.append_nil]
    exact Vector.set_getElem_self ..
  have hwait : b.waitQueue.filter (· ∉ ([] : List CellNo)) = b.waitQueue := List.filter_eq_self.2 fun _ _ => decide_eq_true List.not_mem_nil
  unfold Bay.joined
  rw [hcells, hchannels, hwait]
  rfl

theorem Bay.cell_joined (b : Bay) (k : ChanNo) (js : List CellNo) (c : CellNo) :
    (b.joined k js).cell c = if c ∈ js then (b.cell c).movedTo .target else b.cell c := Vector.getElem_ofFn ..

theorem Bay.chan_joined (b : Bay) (k : ChanNo) (js : List CellNo) :
    (b.joined k js).chan k = { b.chan k with targets := (b.chan k).targets ++ js.map b.targetOf } := Vector.getElem_set_self ..

theorem CellRec.load_movedTo (r : CellRec) (p : LoadPlace) : (r.movedTo p).load = r.load.map fun x => { x with place := p } := rfl

/-- R85: a waiting load keeps its image and its slot as it joins. -/
theorem Bay.load_joined (b : Bay) (k : ChanNo) (js : List CellNo) {x : LoadRec} (hl : (b.cell c).load = some x) :
    ∃ p, ((b.joined k js).cell c).load = some { x with place := p } := by
  rw [Bay.cell_joined]
  split
  · exact ⟨.target, by rw [CellRec.load_movedTo, hl]; rfl⟩
  · exact ⟨x.place, hl⟩

theorem Bay.takeSameImage_takes {x : LoadRec} (hl : (d.cell c).load = some x) (him : (d.chan k).image = some x.image)
    (hroom : (d.chan k).targets.length < 8) :
    d.takeSameImage k c = ({ d with waitQueue := d.waitQueue.filter (· ≠ c) } : Bay).joinTargets k c x := by
  unfold Bay.takeSameImage
  rw [hl]
  exact if_pos ⟨him, hroom⟩

theorem Bay.bare_joinTargets (d : Bay) (k : ChanNo) (c : CellNo) (x : LoadRec) :
    (d.joinTargets k c x).bare
      = (d.bare.modChan k fun ch => { ch with targets := ch.targets ++ [{ cell := c, slot := x.slot }] }).setCell c
          ((d.cell c).movedTo .target) := Bay.bare_modCell ..

theorem Bay.withLoads_written (b : Bay) (w : List CellNo) (k : ChanNo) (f : Channel → Channel) (c : CellNo) (r : CellRec) :
    ((b.withLoads b.channels w).modChan k f).setCell c r
      = (b.withCells (b.cells.set c r)).withLoads (b.channels.set k (f (b.chan k))) w := rfl

theorem Bay.cells_joined (b : Bay) (k : ChanNo) (js : List CellNo) : (b.joined k js).cells = b.targetCells js := rfl

theorem Bay.channels_joined (b : Bay) (k : ChanNo) (js : List CellNo) : (b.joined k js).channels = b.targetChannels k js := rfl

theorem Bay.waitQueue_joined (b : Bay) (k : ChanNo) (js : List CellNo) : (b.joined k js).waitQueue = b.waitQueue.filter (· ∉ js) := rfl

theorem Bay.withLoads_again (b : Bay) (cells cells' : Vector CellRec 32) (v v' : Vector Channel 8) (w w' : List CellNo) :
    (((b.withCells cells).withLoads v w).withCells cells').withLoads v' w' = (b.withCells cells').withLoads v' w' := rfl

theorem Bay.joined_written (b : Bay) (k : ChanNo) (js : List CellNo) (cells : Vector CellRec 32) (v : Vector Channel 8)
    (w : List CellNo) : ((b.joined k js).withCells cells).withLoads v w = (b.withCells cells).withLoads v w := by
  unfold Bay.joined
  exact Bay.withLoads_again ..

/-- R85: one more waiting load joins. -/
theorem Bay.bare_takeSameImage (hb : d.bare = b.joined k js) (hl : (b.cell c).load = some ld) (him : (b.chan k).image = some ld.image)
    (hroom : (b.chan k).targets.length + js.length < 8) : (d.takeSameImage k c).bare = b.joined k (js ++ [c]) := by
  have hchan : d.chan k = (b.joined k js).chan k := (congrArg (Bay.chan · k) hb :)
  have hcell (c' : CellNo) : d.cell c' = (b.joined k js).cell c' := Bay.cell_of_bare hb c'
  rw [Bay.chan_joined] at hchan
  obtain ⟨p, hp⟩ := b.load_joined k js hl
  rw [← hcell] at hp
  have htake := Bay.takeSameImage_takes (k := k) hp (by rw [hchan]; exact him) (by
    rw [hchan, List.length_append, List.length_map]
    exact hroom)
  have hmoved : (d.cell c).movedTo .target = (b.cell c).movedTo .target := by
    rw [hcell, Bay.cell_joined]
    split
    · unfold CellRec.movedTo
      cases (b.cell c).load <;> rfl
    · rfl
  have htarget : b.targetOf c = { cell := c, slot := ld.slot } := by
    unfold Bay.targetOf
    rw [hl]
    rfl
  have hcells : (b.targetCells js).set c ((b.cell c).movedTo .target) = b.targetCells (js ++ [c]) := Vector.ext fun i hi => by
    unfold Bay.targetCells
    rw [Vector.getElem_set, Vector.getElem_ofFn, Vector.getElem_ofFn]
    by_cases he : c.val = i
    · subst he
      rw [if_pos rfl, if_pos (List.mem_append_right _ List.mem_cons_self)]
    · have hne : (⟨i, hi⟩ : CellNo) ≠ c := fun h => he (congrArg Fin.val h).symm
      rw [if_neg he]
      simp [hne]
  have hchannels : (b.targetChannels k js).set k
        { (b.joined k js).chan k with targets := ((b.joined k js).chan k).targets ++ [{ cell := c, slot := ld.slot }] }
      = b.targetChannels k (js ++ [c]) := by
    unfold Bay.targetChannels
    rw [Bay.chan_joined, List.map_append, List.map_singleton, htarget, Vector.set_set, ← List.append_assoc]
  have hwait : (b.waitQueue.filter (· ∉ js)).filter (· ≠ c) = b.waitQueue.filter (· ∉ js ++ [c]) := by
    rw [List.filter_filter]
    refine List.filter_congr fun w _ => ?_
    simp [Bool.and_comm]
  have hjoin := Bay.bare_joinTargets ({ d with waitQueue := d.waitQueue.filter (· ≠ c) } : Bay) k c { ld with place := p }
  have hbare : ({ d with waitQueue := d.waitQueue.filter (· ≠ c) } : Bay).bare
      = d.bare.withLoads d.bare.channels (d.bare.waitQueue.filter (· ≠ c)) := rfl
  rw [hbare, hb] at hjoin
  rw [htake, hjoin]
  rw [hmoved, Bay.withLoads_written, Bay.cells_joined, hcells, Bay.waitQueue_joined, hwait, Bay.channels_joined, hchannels,
    Bay.joined_written, Bay.joined]

/-- R85: a load of another image waits on, and every load once the list holds 8. -/
theorem Bay.takeSameImage_stays (hb : d.bare = b.joined k js)
    (h : (b.cell c).load.any (fun x => some x.image = (b.chan k).image) = false ∨ 8 ≤ (b.chan k).targets.length + js.length) :
    d.takeSameImage k c = d := by
  have hchan : d.chan k = (b.joined k js).chan k := (congrArg (Bay.chan · k) hb :)
  rw [Bay.chan_joined] at hchan
  unfold Bay.takeSameImage
  cases hl : (b.cell c).load with
  | none =>
    have hnone : (d.cell c).load = none := by
      rw [Bay.cell_of_bare hb, Bay.cell_joined]
      split
      · rw [CellRec.load_movedTo, hl]
        rfl
      · exact hl
    rw [hnone]
  | some x =>
    obtain ⟨p, hp⟩ := b.load_joined k js hl
    rw [Bay.cell_of_bare hb, hp]
    refine if_neg fun ⟨him, hroom⟩ => ?_
    rw [hchan] at him hroom
    rcases h with h | h
    · rw [hl] at h
      exact of_decide_eq_false h him.symm
    · rw [List.length_append, List.length_map] at hroom
      omega

/-- R85: of the loads that wait behind the head, those of the channel's image that become its targets. -/
def Bay.joiners (b : Bay) (k : ChanNo) (cs : List CellNo) : List CellNo :=
  (cs.filter fun w => (b.cell w).load.any fun x => some x.image = (b.chan k).image)

theorem Bay.bare_foldl_takeSameImage (k : ChanNo) : ∀ (cs : List CellNo) (d : Bay) (js : List CellNo), d.bare = b.joined k js →
    (cs.foldl (fun d c => d.takeSameImage k c) d).bare
      = b.joined k (js ++ (b.joiners k cs).take (8 - ((b.chan k).targets.length + js.length)))
  | [], d, js, hb => by
    rw [List.foldl_nil, hb]
    unfold Bay.joiners
    rw [List.filter_nil, List.take_nil, List.append_nil]
  | c :: cs, d, js, hb => by
    rw [List.foldl_cons]
    by_cases hany : (b.cell c).load.any (fun x => some x.image = (b.chan k).image) = true
    · have hjoin : b.joiners k (c :: cs) = c :: b.joiners k cs := List.filter_cons_of_pos hany
      rw [hjoin]
      by_cases hroom : (b.chan k).targets.length + js.length < 8
      · obtain ⟨ld, hl, him⟩ := (Option.any_eq_true _ _).1 hany
        have hone := Bay.bare_takeSameImage hb hl (of_decide_eq_true him).symm hroom
        rw [Bay.bare_foldl_takeSameImage k cs _ _ hone, List.length_append, List.length_singleton, List.append_assoc,
          show 8 - ((b.chan k).targets.length + js.length) = (8 - ((b.chan k).targets.length + (js.length + 1))) + 1 by omega]
        rfl
      · rw [Bay.takeSameImage_stays hb (.inr (by omega)), Bay.bare_foldl_takeSameImage k cs d js hb,
          show 8 - ((b.chan k).targets.length + js.length) = 0 by omega]
        rfl
    · have hjoin : b.joiners k (c :: cs) = b.joiners k cs := List.filter_cons_of_neg hany
      rw [Bay.takeSameImage_stays hb (.inl (Bool.eq_false_iff.2 hany)), Bay.bare_foldl_takeSameImage k cs d js hb, hjoin]

/-! ### The channel that takes them (R85, R87) -/

/-- R85, R87: a bay in which the head of the wait queue has started a channel. -/
def Bay.headStarted (x : Ctx) (b : Bay) (k : ChanNo) (first : CellNo) (rest : List CellNo) (ld : LoadRec) : Bay :=
  (b.withLoads (b.channels.set k (x.started k ld.image [{ cell := first, slot := ld.slot }] (b.chan k))) rest).setCell first
    ((b.cell first).placedAt ld .target)

theorem Bay.bare_takeWaiting {x : Ctx} {first : CellNo} {rest : List CellNo} (he : (x.channel k).enabled = true)
    (hst : (b.chan k).state = .idle) (hw : b.waitQueue = first :: rest) (hl : (b.cell first).load = some ld) :
    (b.takeWaiting x k).bare = (b.bare.headStarted x k first rest ld).joined k
      (((b.bare.headStarted x k first rest ld).joiners k rest).take 7) := by
  have hstart : (({ b with waitQueue := rest } : Bay).startChannel x k first ld).bare = b.bare.headStarted x k first rest ld :=
    (Bay.bare_setPlace (b := ({ b with waitQueue := rest } : Bay).modChan k _) hl .target).1
  have htake : b.takeWaiting x k
      = rest.foldl (fun b c => b.takeSameImage k c) (({ b with waitQueue := rest } : Bay).startChannel x k first ld) := by
    unfold Bay.takeWaiting
    rw [if_pos ⟨he, hst⟩, hw]
    dsimp only
    rw [hl]
  have hchan : (b.bare.headStarted x k first rest ld).chan k = x.started k ld.image [{ cell := first, slot := ld.slot }] (b.chan k) :=
    Vector.getElem_set_self ..
  rw [htake, Bay.bare_foldl_takeSameImage k rest _ [] (hstart.trans (Bay.joined_nil ..).symm), hchan]
  rfl

section
variable {x : Ctx} {first : CellNo} {rest : List CellNo}

theorem Bay.cell_headStarted_ne (hw : first ≠ c) : (b.headStarted x k first rest ld).cell c = b.cell c :=
  Bay.cell_setCell_ne _ _ hw

theorem Bay.cell_headStarted : (b.headStarted x k first rest ld).cell first = (b.cell first).placedAt ld .target :=
  Bay.cell_setCell_self ..

theorem Bay.chan_headStarted : (b.headStarted x k first rest ld).chan k = x.started k ld.image [{ cell := first, slot := ld.slot }] (b.chan k) :=
  Vector.getElem_set_self ..

/-- R85: the loads that join behind the head of the wait queue. -/
def Bay.followers (b : Bay) (rest : List CellNo) (ld : LoadRec) : List CellNo :=
  (rest.filter fun w => (b.cell w).load.any (·.image = ld.image)).take 7

theorem Bay.joiners_headStarted (hf : first ∉ rest) :
    ((b.headStarted x k first rest ld).joiners k rest).take 7 = b.followers rest ld := by
  unfold Bay.joiners Bay.followers
  rw [Bay.chan_headStarted]
  refine congrArg (List.take 7) (List.filter_congr fun w hw => ?_)
  have hne : first ≠ w := fun h => hf (h ▸ hw)
  rw [Bay.cell_headStarted_ne hne]
  simp [Ctx.started]

theorem Bay.mem_followers (h : c ∈ b.followers rest ld) : c ∈ rest ∧ ∃ y, (b.cell c).load = some y := by
  have hmem := List.mem_filter.1 (List.mem_of_mem_take h)
  obtain ⟨y, hy, _⟩ := (Option.any_eq_true _ _).1 hmem.2
  exact ⟨hmem.1, y, hy⟩

/-- R85: the cells as the head of the wait queue and its followers have become targets. -/
theorem Bay.targetCells_headStarted (hf : first ∉ rest) (hl : (b.cell first).load = some ld) :
    (b.headStarted x k first rest ld).targetCells (b.followers rest ld) = b.targetCells (first :: b.followers rest ld) := by
  refine Vector.ext fun i hi => ?_
  unfold Bay.targetCells
  rw [Vector.getElem_ofFn, Vector.getElem_ofFn]
  by_cases he : first = ⟨i, hi⟩
  · rw [← he, if_neg fun h => hf (Bay.mem_followers h).1, if_pos List.mem_cons_self, Bay.cell_headStarted]
    unfold CellRec.placedAt CellRec.movedTo
    rw [hl]
    rfl
  · rw [Bay.cell_headStarted_ne he]
    simp [Ne.symm he]

/-- R85: the targets that the head of the wait queue and its followers are. -/
theorem Bay.targets_headStarted (hf : first ∉ rest) (hl : (b.cell first).load = some ld) :
    [{ cell := first, slot := ld.slot }] ++ (b.followers rest ld).map (b.headStarted x k first rest ld).targetOf
      = (first :: b.followers rest ld).filterMap fun w => (b.cell w).load.map fun y => ({ cell := w, slot := y.slot } : Target) := by
  have htail : (b.followers rest ld).map (b.headStarted x k first rest ld).targetOf
      = (b.followers rest ld).filterMap fun w => (b.cell w).load.map fun y => ({ cell := w, slot := y.slot } : Target) := by
    rw [← List.filterMap_eq_map]
    refine List.filterMap_congr fun w hw => ?_
    obtain ⟨hmem, y, hy⟩ := Bay.mem_followers hw
    unfold Function.comp Bay.targetOf
    have hne : first ≠ w := fun h => hf (h ▸ hmem)
    rw [Bay.cell_headStarted_ne hne, hy]
    rfl
  rw [List.filterMap_cons_some (b := { cell := first, slot := ld.slot }) (by rw [hl]; rfl), htail]
  rfl

theorem Bay.wait_headStarted (hf : first ∉ rest) :
    rest.filter (· ∉ b.followers rest ld) = rest.filter (· ∉ first :: b.followers rest ld) := by
  refine List.filter_congr fun w hw => ?_
  have hne : w ≠ first := fun h => hf (h ▸ hw)
  simp [hne]

/-- R85: the bay as the head of the wait queue and its followers have become targets, field by field. -/
theorem Bay.joined_headStarted (hf : first ∉ rest) (hl : (b.cell first).load = some ld) :
    (b.headStarted x k first rest ld).joined k (b.followers rest ld)
      = (b.withCells (b.targetCells (first :: b.followers rest ld))).withLoads
          (b.channels.set k (x.started k ld.image
            ((first :: b.followers rest ld).filterMap fun w => (b.cell w).load.map fun y => { cell := w, slot := y.slot }) (b.chan k)))
          (rest.filter (· ∉ first :: b.followers rest ld)) := by
  have hchannels : (b.headStarted x k first rest ld).targetChannels k (b.followers rest ld)
      = b.channels.set k (x.started k ld.image
          ((first :: b.followers rest ld).filterMap fun w => (b.cell w).load.map fun y => { cell := w, slot := y.slot }) (b.chan k)) := by
    rw [← Bay.targets_headStarted (x := x) (k := k) hf hl]
    unfold Bay.targetChannels
    rw [Bay.chan_headStarted]
    exact Vector.set_set ..
  unfold Bay.joined
  rw [Bay.targetCells_headStarted hf hl, hchannels, show (b.headStarted x k first rest ld).waitQueue = rest from rfl,
    Bay.wait_headStarted hf]
  rfl

end

/-! ### The write -/

theorem channelModeOf_eq (mode : Byte) : channelModeOf mode = if mode = 0#8 then .whole else if mode = 2#8 then .paced else .burst := by
  have h0 : mode.toNat = 0 ↔ mode = 0#8 := ⟨fun h => BitVec.eq_of_toNat_eq h, fun h => by rw [h]; rfl⟩
  have h2 : mode.toNat = 2 ↔ mode = 2#8 := ⟨fun h => BitVec.eq_of_toNat_eq h, fun h => by rw [h]; rfl⟩
  unfold channelModeOf
  split
  · next h => rw [if_pos (h0.1 h)]
  · next h => rw [h2.1 h]; rfl
  · next hn0 hn2 => rw [if_neg fun h => hn0 (h0.2 h), if_neg fun h => hn2 (h2.2 h)]

theorem channelSettingsOf_eq (mode round enable : Byte) :
    channelSettingsOf mode round enable
      = { mode := if mode = 0#8 then .whole else if mode = 2#8 then .paced else .burst
          round := if round = 1#8 then .rolling else .single, enabled := decide (enable ≠ 0#8) } := by
  have h1 : round.toNat = 1 ↔ round = 1#8 := ⟨fun h => BitVec.eq_of_toNat_eq h, fun h => by rw [h]; rfl⟩
  have h0 : enable.toNat ≠ 0 ↔ enable ≠ 0#8 := not_congr ⟨fun h => BitVec.eq_of_toNat_eq h, fun h => by rw [h]; rfl⟩
  unfold channelSettingsOf channelRoundOf channelEnableOf
  rw [channelModeOf_eq]
  simp only [h1, h0]

/-- R191: the state of a part that has a channel's settings written. -/
def State.withChannel (s : State) (k : ChanNo) (e : ChannelSettings) : State :=
  { s with tables := { s.tables with channels := s.tables.channels.set k e } }

theorem serveChannelWrite_eq {tag : Half} {index mode round enable : Byte} (h : index.toNat < 8) (s : State) :
    serveChannelWrite tag index mode round enable s
      = ({ s.withChannel ⟨index.toNat, h⟩ (channelSettingsOf mode round enable) with
            bay := (s.bay.modeWritten ⟨index.toNat, h⟩ (channelSettingsOf mode round enable).mode).takeWaiting
              (s.withChannel ⟨index.toNat, h⟩ (channelSettingsOf mode round enable)).ctx ⟨index.toNat, h⟩ } : State).written tag 6#8 index := by
  unfold serveChannelWrite
  rw [indexOf_toNat h]
  rfl

/-- R86: the channel of a mode that is written. -/
def Channel.withMode (mode : ChannelMode) (ch : Channel) : Channel :=
  { ch with modeInForce := if ch.state = .idle then mode else ch.modeInForce }

theorem Bay.modeWritten_eq (b : Bay) (k : ChanNo) (mode : ChannelMode) : b.modeWritten k mode = b.modChan k (Channel.withMode mode) := by
  unfold Bay.modeWritten
  split
  · next h =>
    unfold Bay.modChan Channel.withMode
    rw [if_pos h]
  · next h =>
    have hself : Channel.withMode mode (b.chan k) = b.chan k := by
      unfold Channel.withMode
      rw [if_neg h]
    unfold Bay.modChan
    rw [hself]
    exact congrArg (fun v => { b with channels := v }) (Vector.set_getElem_self ..).symm

theorem Bay.takeWaiting_none {x : Ctx} (h : b.waitQueue = [] ∨ (b.chan k).state ≠ .idle ∨ (x.channel k).enabled = false) :
    b.takeWaiting x k = b := by
  rcases h with h | h | h
  · exact Bay.takeWaiting_nil h
  · exact if_neg fun hc => h hc.2
  · exact if_neg fun hc => by rw [h] at hc; exact Bool.false_ne_true hc.1

theorem Ctx.channel_withChannel (s : State) (k : ChanNo) (e : ChannelSettings) : (s.withChannel k e).ctx.channel k = e :=
  Vector.getElem_set_self ..

theorem entryBytes_channel {t : Tables} {index : Byte} (h : index.toNat < 8) :
    t.entryBytes 6#8 index = some (channelSettingsBytes t.channels[index.toNat]) :=
  congrArg (Option.map fun i : Fin 8 => channelSettingsBytes t.channels[i]) (indexOf_toNat h)

/-- A write of a channel's settings, by what it leaves of the bay. -/
theorem answers_channelWrite {tag : Half} {index mode round enable : Byte} {s : State} (ht : s.TakesRequests) (h : index.toNat < 8)
    {e : ChannelSettings} (he : channelSettingsOf mode round enable = e) {rec : Records}
    (hr : ({ s.withChannel ⟨index.toNat, h⟩ e with
      bay := ((s.newEvent.bay.modChan ⟨index.toNat, h⟩ (Channel.withMode e.mode)).takeWaiting (s.withChannel ⟨index.toNat, h⟩ e).ctx
        ⟨index.toNat, h⟩).bare } : State).records = rec) :
    Answers (.tableWriteLoadChannelSettings tag index mode round enable) s rec none 0x01#8 tag
      (writeDone 6#8 index (channelSettingsBytes e)) := by
  subst he
  have hserve := serveChannelWrite_eq (tag := tag) (mode := mode) (round := round) (enable := enable) h s.newEvent
  rw [Bay.modeWritten_eq] at hserve
  refine answers_of_written rfl ht hserve rfl rfl ?_ ?_
  · exact records_of_bare (s := s.newEvent.withChannel ⟨index.toNat, h⟩ (channelSettingsOf mode round enable)) rfl hr
  · rw [entryBytes_channel h]
    exact congrArg (fun e => some (channelSettingsBytes e)) (Vector.getElem_set_self ..)

/-- A change of the cells, of the channels and of the load wait queue. -/
theorem State.records_withLoads (s : State) (cells : Vector CellRec 32) (v : Vector Channel 8) (w : List CellNo) :
    ({ s with bay := (s.bay.withCells cells).withLoads v w } : State).records
      = { s.records with cells := cells, channels := v.map Channel.view, waitQueue := w } := rfl

/-- Settles O9: no such channel; nothing taken from the wait queue; its head taken with the loads of its image. -/
theorem channelSettingsWrite : Obligations.ChannelSettingsWrite := by
  intro tag index mode round enable s ht i k
  have hk := channelSettingsOf_eq mode round enable
  refine ⟨fun hidx => ?_, fun h => ?_⟩
  · refine answers_of_refused rfl ht ?_
    show serveChannelWrite tag index mode round enable s.newEvent = _
    unfold serveChannelWrite
    rw [indexOf_none hidx]
  · intro c ch written answers
    refine ⟨fun hno => ?_, fun first rest ld hw hnd hl hst hen => ?_⟩
    · refine answers_channelWrite ht h hk ?_
      rw [Bay.takeWaiting_none (b := s.newEvent.bay.modChan c (Channel.withMode k.mode))]
      · exact (s.withChannel c k).records_modChan c (Channel.withMode k.mode)
      · rw [Bay.chan_modChan_self, Ctx.channel_withChannel]
        exact hno.imp_right (.imp_right fun h0 => decide_eq_false (not_not_intro h0))
    · intro taken targets
      have hf : first ∉ rest := (List.nodup_cons.1 (hw ▸ hnd)).1
      have htake := Bay.bare_takeWaiting (x := (s.withChannel c k).ctx) (b := s.newEvent.bay.modChan c (Channel.withMode k.mode)) (k := c)
        (by rw [Ctx.channel_withChannel]; exact decide_eq_true hen) (by rw [Bay.chan_modChan_self]; exact hst) hw hl
      rw [Bay.joiners_headStarted hf] at htake
      refine answers_channelWrite ht h hk ?_
      rw [htake, Bay.joined_headStarted (b := (s.newEvent.bay.modChan c (Channel.withMode k.mode)).bare) hf hl]
      have hview : ((s.bay.channels.set c (Channel.withMode k.mode ch)).set c
            ((s.withChannel c k).ctx.started c ld.image targets ((s.newEvent.bay.modChan c (Channel.withMode k.mode)).chan c))).map Channel.view
          = s.records.channels.set c { s.startedView c ld.image targets with modeInForce := k.mode } := by
        rw [Vector.set_set, Vector.map_set, Bay.chan_modChan_self]
        refine congrArg (fun v => (s.bay.channels.map Channel.view).set c v) ?_
        unfold Ctx.started
        rw [Ctx.channel_withChannel]
        rfl
      exact (State.records_withLoads (s.withChannel c k) ..).trans
        (congrArg (fun v => { written with
          cells := s.bay.targetCells taken, channels := v, waitQueue := rest.filter (· ∉ taken) }) hview)

end Sys2Proof.Machine

/-!
PROOF. The grants and the re-issues of pulls (sections 4.5 and 8.3).
-/

namespace Sys2Proof.Machine

/-! ### Who is granted next (R88, R192) -/

theorem find?_eq_some_of_least {α : Type} {l : List α} {p : α → Bool} {place : α → Nat} {a : α}
    (hl : l.Pairwise fun x y => place x < place y) (ha : a ∈ l) (hp : p a = true) (hleast : ∀ x, p x = true → place a ≤ place x) :
    l.find? p = some a := by
  cases hf : l.find? p with
  | none => exact absurd hp (by simpa using List.find?_eq_none.1 hf a ha)
  | some x =>
    obtain ⟨hx, as, bs, rfl, has⟩ := List.find?_eq_some_iff_append.1 hf
    rcases List.mem_append.1 ha with ha | ha
    · exact absurd hp (by simpa using has a ha)
    · rcases List.mem_cons.1 ha with ha | ha
      · rw [ha]
      · have hlt := (List.pairwise_cons.1 (List.pairwise_append.1 hl).2.1).1 a ha
        exact absurd (hleast x hx) (by omega)

/-- R192: the place of a channel in the order of the arbiter. -/
def grantPlace (order : Turning) (last : Option ChanNo) (j : ChanNo) : Nat :=
  match order, last with
  | .rotating, some last => (j.val + 7 - last.val) % 8
  | _, _ => j.val

theorem State.pairwise_grantOrder (s : State) :
    s.grantOrder.Pairwise fun i j =>
      grantPlace s.tables.settings.grantOrder s.bay.lastGranted i < grantPlace s.tables.settings.grantOrder s.bay.lastGranted j := by
  have hrotated : ∀ last : ChanNo, (allChans.drop (last.val + 1) ++ allChans.take (last.val + 1)).Pairwise fun i j =>
      (i.val + 7 - last.val) % 8 < (j.val + 7 - last.val) % 8 := by decide
  have hfixed : allChans.Pairwise fun i j => i.val < j.val := by decide
  unfold State.grantOrder grantPlace
  cases s.tables.settings.grantOrder with
  | fixed => exact hfixed
  | rotating =>
    cases s.bay.lastGranted with
    | none => exact hfixed
    | some last => exact hrotated last

theorem State.mem_grantOrder (s : State) (k : ChanNo) : k ∈ s.grantOrder := by
  have hrotated : ∀ last k : ChanNo, k ∈ allChans.drop (last.val + 1) ++ allChans.take (last.val + 1) := by decide
  unfold State.grantOrder
  split
  · exact hrotated _ k
  · exact List.mem_finRange k

theorem Channel.waitingForGrant_iff {ch : Channel} :
    ch.waitingForGrant = true ↔ (ch.state = .gathering ∨ ch.state = .pulling) ∧ 0 < ch.current ∧ ch.pull = none ∧ ch.slotHeld = false
      ∧ (ch.modeInForce = .paced → ch.segs = []) := by
  unfold Channel.waitingForGrant
  simp only [Bool.and_eq_true, Bool.or_eq_true, decide_eq_true_eq, Option.isNone_iff_eq_none, Bool.not_eq_true', List.isEmpty_iff,
    ← imp_iff_not_or (a := ch.modeInForce = .paced), ne_eq]
  tauto

/-! ### The arbiter's record after the claims of an event (R88, R90) -/

/-- R88: the arbiter grants nothing: the slots are all held, or no channel waits. -/
def State.NoGrant (s : State) : Prop :=
  s.tables.settings.pullLimit ≤ s.bay.slotsHeld ∨ ∀ j : ChanNo, (s.bay.chan j).waitingForGrant = false

theorem State.NoGrant.nextGrant {s : State} (h : s.NoGrant) : s.nextGrant = none := by
  unfold State.nextGrant
  split
  · next hlt =>
    rw [List.find?_eq_none]
    intro j _ hj
    rw [(h.resolve_left (by omega)) j] at hj
    exact Bool.false_ne_true (Bool.and_eq_true_iff.1 hj).1
  · rfl

theorem countP_eq_sum_map {α : Type} (p : α → Bool) : ∀ l : List α, l.countP p = (l.map fun x => if p x then 1 else 0).sum
  | [] => rfl
  | x :: l => by
    rw [List.countP_cons, List.map_cons, List.sum_cons, countP_eq_sum_map p l, Nat.add_comm]

theorem Bay.slotsHeld_modChan (b : Bay) (k : ChanNo) (n : Channel) :
    (b.modChan k fun _ => n).slotsHeld + (if (b.chan k).slotHeld then 1 else 0) = b.slotsHeld + if n.slotHeld then 1 else 0 := by
  unfold Bay.slotsHeld
  rw [countP_eq_sum_map, countP_eq_sum_map, Bay.channels_modChan]
  exact sum_map_set b.channels k n fun ch => if ch.slotHeld then 1 else 0

/-- R88: a pull leaves the arbiter nothing more to grant. -/
theorem State.NoGrant.issuePull {s : State} (h : s.NoGrant) (k : ChanNo) : (s.issuePull k).NoGrant := by
  cases him : (s.bay.chan k).image with
  | none =>
    rw [State.issuePull_none him]
    exact h
  | some im =>
    have hbay : (s.issuePull k).bay = s.bay.modChan k fun _ => s.pulledChan k := by
      rw [State.issuePull_some him]
      rfl
    have htables : (s.issuePull k).tables = s.tables := congrArg Records.tables (records_issuePull s k)
    refine h.imp (fun hfull => ?_) fun hnone j => ?_
    · have hslots := s.bay.slotsHeld_modChan k (s.pulledChan k)
      rw [htables, hbay]
      rw [if_pos (show (s.pulledChan k).slotHeld = true from rfl)] at hslots
      split at hslots <;> omega
    · rcases s.chan_issuePull k j with he | ⟨rfl, he⟩
      · rw [he]
        exact hnone j
      · rw [he, ← Bool.not_eq_true, Channel.waitingForGrant_iff]
        rintro ⟨_, _, hp, _⟩
        cases hp

/-- R88: the last slot, or the one channel that waited, leaves the arbiter nothing more to grant. -/
theorem State.noGrant_issuePull {s : State} {k : ChanNo} {im : Image} (him : (s.bay.chan k).image = some im)
    (hheld : (s.bay.chan k).slotHeld = false)
    (h : s.bay.slotsHeld + 1 = s.tables.settings.pullLimit ∨ ∀ j : ChanNo, j ≠ k → (s.bay.chan j).waitingForGrant = false) :
    (s.issuePull k).NoGrant := by
  have hbay : (s.issuePull k).bay = s.bay.modChan k fun _ => s.pulledChan k := by
    rw [State.issuePull_some him]
    rfl
  have htables : (s.issuePull k).tables = s.tables := congrArg Records.tables (records_issuePull s k)
  refine h.imp (fun hlast => ?_) fun hnone j => ?_
  · have hslots := s.bay.slotsHeld_modChan k (s.pulledChan k)
    rw [htables, hbay, ← hlast]
    rw [if_pos (show (s.pulledChan k).slotHeld = true from rfl), if_neg (by rw [hheld]; exact Bool.false_ne_true)] at hslots
    omega
  · rw [hbay]
    by_cases hj : k = j
    · subst hj
      rw [Bay.chan_modChan_self, ← Bool.not_eq_true, Channel.waitingForGrant_iff]
      rintro ⟨_, _, hp, _⟩
      cases hp
    · rw [Bay.chan_modChan_ne _ _ hj]
      exact hnone j (Ne.symm hj)

theorem State.lastGranted_buildNotice (s : State) (n : Notice) : (s.buildNotice n).bay.lastGranted = s.bay.lastGranted := by
  cases n <;> rfl

theorem State.lastGranted_issuePull (s : State) (k : ChanNo) : (s.issuePull k).bay.lastGranted = s.bay.lastGranted := by
  unfold State.issuePull
  dsimp only
  split <;> rfl

theorem State.NoGrant.buildNotice {s : State} (h : s.NoGrant) (n : Notice) : (s.buildNotice n).NoGrant := by
  have hchannels : (s.buildNotice n).bay.channels = s.bay.channels := by cases n <;> rfl
  have htables : (s.buildNotice n).tables = s.tables := congrArg Records.tables (records_buildNotice s n)
  unfold State.NoGrant Bay.slotsHeld Bay.chan at h ⊢
  rw [hchannels, htables]
  exact h

/-- R88: where nothing is granted the arbiter's record stays. -/
theorem State.NoGrant.lastGranted_claims {u : State} (h : u.NoGrant) (hq : u.Quiet) :
    (u.serveClaims {}).eventEnd.bay.lastGranted = u.bay.lastGranted := by
  refine (settle_blocked (P := fun t => t.Quiet ∧ t.NoGrant ∧ t.bay.lastGranted = u.bay.lastGranted)
    (fun t ht => ⟨nextRequest_quiet ht.1, nextPort_quiet ht.1, nextHeld_quiet ht.1⟩) ?notice ?reissue ?grant u.claimBound u
    ⟨hq, h, rfl⟩).2.2
  case notice =>
    rintro t n ⟨hq, hn, hl⟩ -
    exact ⟨quiet_buildNotice hq n, hn.buildNotice n, (t.lastGranted_buildNotice n).trans hl⟩
  case reissue =>
    rintro t j ⟨hq, hn, hl⟩ -
    exact ⟨quiet_issuePull hq j, hn.issuePull j, (t.lastGranted_issuePull j).trans hl⟩
  case grant =>
    rintro t j ⟨_, hn, _⟩ hj
    rw [hn.nextGrant] at hj
    cases hj

/-! ### The commands -/

theorem State.uplink_claims {u : State} (hq : u.Quiet) {e : UpEntry} (h : e ∈ u.link.uplink) :
    e ∈ (u.serveClaims {}).eventEnd.link.uplink :=
  (State.uplinkKept_event (s := u) hq rfl id).1.subset h

/-- R89: the state of a channel whose pull has been issued, after the claims of the event. -/
theorem State.pulled_claims {s u : State} {k : ChanNo} {im : Image} (hq : u.Quiet) (him : (s.bay.chan k).image = some im)
    (hbay : u.bay.channels = (s.issuePull k).bay.channels) : (u.serveClaims {}).eventEnd.bay.chan k = s.pulledChan k := by
  have hchan : u.bay.chan k = s.pulledChan k := by
    rw [State.issuePull_some him] at hbay
    exact (congrArg (fun v : Vector Channel 8 => v[k]) hbay).trans (Vector.getElem_set_self ..)
  rw [State.chan_claims_pulled hq (by rw [hchan]; exact nofun), hchan]

/-- Settles O54: the channel that is first in the arbiter's order; the lowest that re-issues. -/
theorem pullsGrantedAndReissued : Obligations.PullsGrantedAndReissued := by
  refine ⟨?_, ?_⟩
  · intro k im s hq ch kept n waiting place hw hn him slots hslots hleast first
    have hnext : s.newEvent.nextGrant = some k := by
      unfold State.nextGrant
      rw [if_pos (show s.newEvent.bay.slotsHeld < s.newEvent.tables.settings.pullLimit from hslots)]
      refine find?_eq_some_of_least s.newEvent.pairwise_grantOrder (s.newEvent.mem_grantOrder k)
        (Bool.and_eq_true_iff.2 ⟨Channel.waitingForGrant_iff.2 hw, decide_eq_true hn⟩) fun j hj => ?_
      obtain ⟨hwait, hsize⟩ := Bool.and_eq_true_iff.1 hj
      exact hleast j (Channel.waitingForGrant_iff.1 hwait) (of_decide_eq_true hsize)
    have hgrant : grantNext s.newEvent = s.newEvent.grantPull k := by
      unfold grantNext
      rw [hnext]
    have hquiet : (s.newEvent.grantPull k).Quiet := quiet_grantPull (quiet_newEvent hq) k
    have hchan := State.pulled_claims (s := s.newEvent) hquiet him rfl
    refine ⟨_, rfl, ?_⟩
    unfold runEvent
    rw [hgrant]
    refine ⟨(event_quiet hquiet).1.trans (records_grantPull s.newEvent k), (event_quiet hquiet).2.1.trans
      (traffic_grantPull s.newEvent k), fun hlast => ?_, hchan.trans ?_, State.uplink_claims hquiet ?_⟩
    · have hno : (s.newEvent.issuePull k).NoGrant := State.noGrant_issuePull (s := s.newEvent) him hw.2.2.2.1
        (hlast.imp_right fun h j hj => Bool.eq_false_iff.2 fun hwait => h j hj (Channel.waitingForGrant_iff.1 hwait))
      exact State.NoGrant.lastGranted_claims (u := s.newEvent.grantPull k) hno hquiet
    · have hstate : (if ch.state = .gathering then .pulling else ch.state) = ChannelState.pulling := by
        rcases hw.1 with h | h <;> rw [h] <;> rfl
      exact congrArg (fun st => { s.newEvent.pulledChan k with state := st }) hstate
    · show _ ∈ (s.newEvent.issuePull k).link.uplink
      rw [State.issuePull_some (s := s.newEvent) him]
      exact List.mem_append_right _ List.mem_cons_self
  · intro k im s hq ch kept n keeps hk hn him hleast hfull
    have hnext : s.newEvent.nextReissue = some k := by
      have hkeeps (j : ChanNo) : ((s.bay.chan j).state = .pulling && (s.bay.chan j).modeInForce = .whole && (s.bay.chan j).slotHeld
          && (s.bay.chan j).pull.isNone && decide (0 < (s.bay.chan j).current) && decide (1 ≤ s.pullSize j)) = true
          ↔ keeps (s.bay.chan j) ∧ 1 ≤ n (s.bay.chan j) := by
        simp only [Bool.and_eq_true, decide_eq_true_eq, Option.isNone_iff_eq_none]
        exact ⟨fun ⟨⟨⟨⟨⟨h1, h2⟩, h3⟩, h4⟩, h5⟩, h6⟩ => ⟨⟨h1, h2, h3, h4, h5⟩, h6⟩,
          fun ⟨⟨h1, h2, h3, h4, h5⟩, h6⟩ => ⟨⟨⟨⟨⟨h1, h2⟩, h3⟩, h4⟩, h5⟩, h6⟩⟩
      exact find?_finRange_eq_some ((hkeeps k).2 ⟨hk, hn⟩) fun j hj => Bool.eq_false_iff.2 fun h => hleast j hj ((hkeeps j).1 h)
    have hissue : reissueNext s.newEvent = s.newEvent.issuePull k := by
      unfold reissueNext
      rw [hnext]
    have hquiet : (s.newEvent.issuePull k).Quiet := quiet_issuePull (quiet_newEvent hq) k
    have hchan := State.pulled_claims (s := s.newEvent) hquiet him rfl
    have hno : s.newEvent.NoGrant := .inl hfull
    refine ⟨_, rfl, ?_⟩
    unfold runEvent
    rw [hissue]
    refine ⟨(event_quiet hquiet).1.trans (records_issuePull s.newEvent k), (event_quiet hquiet).2.1.trans
      (traffic_issuePull s.newEvent k), ((hno.issuePull k).lastGranted_claims hquiet).trans (s.newEvent.lastGranted_issuePull k),
      hchan.trans ?_⟩
    have hstate : (if ch.state = .gathering then .pulling else ch.state) = ch.state := if_neg (by rw [hk.1]; decide)
    have hheld : true = ch.slotHeld := hk.2.2.1.symm
    exact congrArg₂ (fun st held => { s.newEvent.pulledChan k with state := st, slotHeld := held }) hstate hheld

end Sys2Proof.Machine

/-!
SUPPORT. The service of held-off ports (R168): the ports in their order, and what the misdirected frames of a round leave.
-/

namespace Sys2Proof.Machine

/-! ### The order of the ports (R168) -/

/-- R168: the place of a port in the order that starts behind the pointer. -/
def portPlace (p j : CellNo) : Nat := (j.val + 31 - p.val) % 32

theorem Link.mem_portOrder (l : Link) (c : CellNo) : c ∈ l.portOrder := by
  have hmem : c ∈ allCells := List.mem_finRange c
  rw [← List.take_append_drop (l.pointer.val + 1) allCells] at hmem
  exact List.mem_append.2 (List.mem_append.1 hmem).symm

theorem val_of_mem_drop {m : Nat} {i : CellNo} (h : i ∈ allCells.drop m) : m ≤ i.val := by
  obtain ⟨j, hj, rfl⟩ := List.mem_iff_getElem.1 h
  have hval : (allCells.drop m)[j].val = m + j := by simp [allCells]
  rw [hval]
  exact Nat.le_add_right ..

theorem val_of_mem_take {m : Nat} {i : CellNo} (h : i ∈ allCells.take m) : i.val < m := by
  obtain ⟨j, hj, rfl⟩ := List.mem_iff_getElem.1 h
  have hval : (allCells.take m)[j].val = j := by simp [allCells]
  rw [hval]
  rw [List.length_take] at hj
  exact hj.trans_le (Nat.min_le_left ..)

theorem pairwise_rounds {l l' : List CellNo} {p : CellNo} (h : l.Pairwise (· < ·)) (h' : l'.Pairwise (· < ·)) (hl : ∀ i ∈ l, p < i)
    (hl' : ∀ i ∈ l', i ≤ p) : (l ++ l').Pairwise fun i j => portPlace p i < portPlace p j := by
  have hplace (i : CellNo) (hi : p < i) : portPlace p i = i.val - p.val - 1 := by
    have := i.isLt
    have : p.val < i.val := hi
    unfold portPlace
    omega
  have hplace' (i : CellNo) (hi : i ≤ p) : portPlace p i = i.val + 31 - p.val := by
    have := p.isLt
    have : i.val ≤ p.val := hi
    unfold portPlace
    omega
  refine List.pairwise_append.2 ⟨h.imp_of_mem fun {i j} hi hj hij => ?_, h'.imp_of_mem fun {i j} hi hj hij => ?_, fun i hi j hj => ?_⟩
  · have : p.val < i.val := hl i hi
    have : i.val < j.val := hij
    rw [hplace i (hl i hi), hplace j (hl j hj)]
    omega
  · have : j.val ≤ p.val := hl' j hj
    have : i.val < j.val := hij
    have := p.isLt
    rw [hplace' i (hl' i hi), hplace' j (hl' j hj)]
    omega
  · have : p.val < i.val := hl i hi
    have : j.val ≤ p.val := hl' j hj
    have := i.isLt
    rw [hplace i (hl i hi), hplace' j (hl' j hj)]
    omega

theorem pairwise_allCells : allCells.Pairwise (· < ·) := List.pairwise_lt_finRange 32

theorem Link.pairwise_portOrder (l : Link) : l.portOrder.Pairwise fun i j => portPlace l.pointer i < portPlace l.pointer j :=
  pairwise_rounds (pairwise_allCells.sublist (List.drop_sublist ..)) (pairwise_allCells.sublist (List.take_sublist ..))
    (fun _ hi => val_of_mem_drop hi) fun _ hi => Nat.lt_succ_iff.1 (val_of_mem_take hi)

theorem State.pairwise_roundOrder (s : State) :
    s.roundOrder.Pairwise fun i j => portPlace s.link.pointer i < portPlace s.link.pointer j :=
  pairwise_rounds (pairwise_allCells.filter _) (pairwise_allCells.filter _) (fun _ hi => of_decide_eq_true (List.mem_filter.1 hi).2)
    fun _ hi => of_decide_eq_true (List.mem_filter.1 hi).2

theorem State.mem_roundOrder (s : State) (c : CellNo) : c ∈ s.roundOrder := by
  unfold State.roundOrder
  rw [List.mem_append, List.mem_filter, List.mem_filter]
  simp only [List.mem_finRange, true_and, decide_eq_true_eq]
  exact lt_or_ge _ _

/-! ### The port that is served next -/

theorem State.nextPort_least {t : State} {d : Option CellNo} {c : CellNo} (hd : d.filter t.drainable = none)
    (hc : t.portEligible c = true) (hleast : ∀ x, t.portEligible x = true → portPlace t.link.pointer c ≤ portPlace t.link.pointer x) :
    t.nextPort d = some c := by
  unfold State.nextPort
  rw [hd, find?_eq_some_of_least t.link.pairwise_portOrder (t.link.mem_portOrder c) hc hleast]
  rfl

theorem State.nextPort_drains {t : State} {c : CellNo} (h : t.drainable c = true) : t.nextPort (some c) = some c := by
  unfold State.nextPort
  rw [Option.filter_some_pos h]
  rfl

theorem State.nextPort_none {t : State} {d : Option CellNo} (hd : d.filter t.drainable = none)
    (h : ∀ x, t.portEligible x = false) : t.nextPort d = none := by
  unfold State.nextPort
  rw [hd, List.find?_eq_none.2 fun x _ => by rw [h x]; exact Bool.false_ne_true]
  rfl

/-! ### A service that has only ports to serve -/

/-- No claim but that of a held-off port can be waiting. -/
structure State.OnlyPorts (t : State) : Prop where
  held : t.link.held = []
  notices : t.bay.notices = []
  idle : ∀ k : ChanNo, (t.bay.chan k).state = .idle

theorem State.OnlyPorts.nextClaim {t : State} (h : t.OnlyPorts) (m : Claims) :
    nextClaim m t
      = (t.nextPort m.drain).map fun c => ({ drain := some c, request := m.request || decide (t.free = 0) }, t.takeWaiting c) := by
  have hrequest : t.nextRequest = none := by simp [State.nextRequest, h.held]
  have hheld : t.nextHeld = none := by simp [State.nextHeld, h.held]
  have hnotice : t.nextNotice = none := by
    unfold State.nextNotice
    rw [h.notices]
    split <;> rfl
  have hpulls (k : ChanNo) (hk : (t.bay.chan k).Pulls) : False := by
    rcases hk.1 with hst | hst <;> exact nomatch (h.idle k).symm.trans hst
  have hreissue : t.nextReissue = none := Option.eq_none_iff_forall_not_mem.2 fun k hk => hpulls k (pulls_of_nextReissue hk)
  have hgrant : t.nextGrant = none := Option.eq_none_iff_forall_not_mem.2 fun k hk => hpulls k (pulls_of_nextGrant hk)
  unfold Machine.nextClaim
  rw [hrequest, hheld, hnotice, hreissue, hgrant]
  cases t.nextPort m.drain <;> simp

/-- The service that drains port `d` first leads from `t` to `t'`, with enough claims left. -/
def State.ServedTo (d : Option CellNo) (t t' : State) : Prop :=
  ∀ (n : Nat) (m : Claims), m.drain = d → t.waitingFrames ≤ n → settle n m t = t'

theorem State.servedTo_done {t : State} {d : Option CellNo} (h : t.OnlyPorts) (hd : t.nextPort d = none) : t.ServedTo d t := by
  intro n m hm _
  have hclaim := h.nextClaim m
  rw [hm, hd] at hclaim
  cases n with
  | zero => rfl
  | succ n =>
    rw [settle, hclaim]
    rfl

/-! ### A misdirected frame taken from a held-off port (R26, R166, R168) -/

theorem CellKind.station_ne_tester (k : CellKind) (h : ¬(k = .loaded ∨ k = .tstate)) : k.station ≠ .tester := by
  cases k with
  | loaded => exact absurd (.inl rfl) h
  | tstate => exact absurd (.inr rfl) h
  | _ => decide

theorem misdirectedOf_eq_some {a : Arrival} {x : Half × CellMsg} (h : misdirectedOf a = some x) :
    a = .frame .tester x.1 x.2 ∧ x.2.kind.station ≠ .tester := by
  unfold misdirectedOf at h
  split at h
  · split at h
    · cases h
    · next lot m hk =>
      cases h
      exact ⟨rfl, CellKind.station_ne_tester _ hk⟩
  · cases h

/-- R168: the pointer moves to a port. -/
def State.pointed (s : State) (c : CellNo) : State := { s with link := { s.link with pointer := c } }

/-- R168: the event in which the head frame of a port is taken, before the frame's effect. -/
def State.pointedAt (s : State) (c : CellNo) (rest : List Arrival) : State := (s.eventEnd.unwaited c rest).pointed c

theorem State.records_pointed (s : State) (c : CellNo) : (s.pointed c).records = { s.records with pointer := c } := rfl

theorem State.traffic_pointed (s : State) (c : CellNo) : (s.pointed c).traffic = s.traffic := rfl

theorem State.free_pointed (s : State) (c : CellNo) : (s.pointed c).free = s.free := rfl

theorem State.waitingFrames_pointed (s : State) (c : CellNo) : (s.pointed c).waitingFrames = s.waitingFrames := rfl

theorem State.traffic_unwaited (s : State) (c : CellNo) (rest : List Arrival) : (s.unwaited c rest).traffic = s.traffic := rfl

theorem State.waiting_unwaited (s : State) (c : CellNo) (rest : List Arrival) (d : CellNo) :
    (s.unwaited c rest).link.ports[d].waiting = if d = c then rest else s.link.ports[d].waiting := by
  by_cases h : d = c
  · subst h
    simp [State.unwaited, State.modPort]
  · have hne : c.val ≠ d.val := fun hv => h (Fin.ext hv).symm
    simp [State.unwaited, State.modPort, h, hne]

theorem State.OnlyPorts.of_eq {s t : State} (h : s.OnlyPorts) (hh : t.link.held = s.link.held)
    (hn : t.bay.notices = s.bay.notices) (hc : t.bay.channels = s.bay.channels) : t.OnlyPorts where
  held := hh.trans h.held
  notices := hn.trans h.notices
  idle k := (congrArg (fun v : Vector Channel 8 => v[k].state) hc).trans (h.idle k)

theorem State.OnlyPorts.eventEnd {s : State} (h : s.OnlyPorts) : s.eventEnd.OnlyPorts := h.of_eq (held_eventEnd s) rfl rfl

theorem State.OnlyPorts.unwaited {s : State} (h : s.OnlyPorts) (c : CellNo) (rest : List Arrival) : (s.unwaited c rest).OnlyPorts :=
  h.of_eq rfl rfl rfl

theorem State.OnlyPorts.pointed {s : State} (h : s.OnlyPorts) (c : CellNo) : (s.pointed c).OnlyPorts := h.of_eq rfl rfl rfl

theorem State.OnlyPorts.pointedAt {s : State} (h : s.OnlyPorts) (c : CellNo) (rest : List Arrival) : (s.pointedAt c rest).OnlyPorts :=
  (h.eventEnd.unwaited c rest).pointed c

theorem State.records_pointedAt (s : State) (c : CellNo) (rest : List Arrival) :
    (s.pointedAt c rest).records = { s.records with pointer := c } := by
  have hunwaited : (s.eventEnd.unwaited c rest).records = s.records :=
    (records_modPort_waiting s.eventEnd c rest).trans (records_eventEnd s)
  rw [← hunwaited]
  exact State.records_pointed _ c

theorem State.traffic_pointedAt (s : State) (c : CellNo) (rest : List Arrival) : (s.pointedAt c rest).traffic = s.traffic :=
  (State.traffic_pointed _ c).trans ((State.traffic_unwaited _ c rest).trans (traffic_eventEnd s))

theorem State.waiting_pointedAt (s : State) (c : CellNo) (rest : List Arrival) (d : CellNo) :
    (s.pointedAt c rest).link.ports[d].waiting = if d = c then rest else s.link.ports[d].waiting := by
  rw [← waiting_eventEnd s d]
  exact s.eventEnd.waiting_unwaited c rest d

theorem State.waitingFrames_eventEnd (s : State) : s.eventEnd.waitingFrames = s.waitingFrames := by
  have hafter : (s.portsAfter.toList.map fun p => p.waiting.length) = s.link.ports.toList.map fun p => p.waiting.length := by
    apply List.ext_getElem <;> simp [State.portsAfter]
  have hports : s.eventEnd.link.ports = s.portsAfter := rfl
  unfold State.waitingFrames
  rw [held_eventEnd, hports, hafter]

theorem State.waitingFrames_unwaited {s : State} {c : CellNo} {a : Arrival} {rest : List Arrival}
    (hw : s.link.ports[c].waiting = a :: rest) : (s.unwaited c rest).waitingFrames + 1 = s.waitingFrames := by
  have hsum := sum_map_set s.link.ports c { s.link.ports[c] with waiting := rest } fun p => p.waiting.length
  rw [hw, List.length_cons] at hsum
  dsimp only at hsum
  unfold State.waitingFrames State.unwaited State.modPort
  dsimp only
  omega

theorem State.waitingFrames_pointedAt {s : State} {c : CellNo} {a : Arrival} {rest : List Arrival}
    (hw : s.link.ports[c].waiting = a :: rest) : (s.pointedAt c rest).waitingFrames + 1 = s.waitingFrames := by
  have hafter := State.waitingFrames_unwaited ((waiting_eventEnd s c).trans hw)
  rw [State.waitingFrames_eventEnd] at hafter
  rw [← hafter]
  exact congrArg (· + 1) (State.waitingFrames_pointed _ c)

theorem State.free_pointedAt (s : State) (c : CellNo) (rest : List Arrival) : (s.pointedAt c rest).free = s.free :=
  (State.free_pointed _ c).trans ((free_unwaited s.eventEnd c rest).trans (free_eventEnd s))

theorem State.takeWaiting_pointedAt {s : State} {c : CellNo} {a : Arrival} {rest : List Arrival}
    (hw : s.link.ports[c].waiting = a :: rest) : s.takeWaiting c = takeArrival c a (s.pointedAt c rest) :=
  State.takeWaiting_cons hw

/-- A state whose bay is `b` and in whose uplink queue the entries stand last. -/
def State.leaving (s : State) (b : Bay) (entries : List UpEntry) : State :=
  { s with bay := b, link := { s.link with uplink := s.link.uplink ++ entries } }

theorem State.OnlyPorts.leaving {s : State} (h : s.OnlyPorts) {b : Bay} (entries : List UpEntry) (hn : b.notices = s.bay.notices)
    (hc : b.channels = s.bay.channels) : (s.leaving b entries).OnlyPorts := h.of_eq rfl hn hc

theorem State.waitingFrames_leaving (s : State) (b : Bay) (entries : List UpEntry) :
    (s.leaving b entries).waitingFrames = s.waitingFrames := rfl

theorem State.waiting_leaving (s : State) (b : Bay) (entries : List UpEntry) (d : CellNo) :
    (s.leaving b entries).link.ports[d].waiting = s.link.ports[d].waiting := rfl

theorem State.records_leaving (s : State) (c : CellNo) (r : CellRec) (entries : List UpEntry) :
    (s.leaving (s.bay.setCell c r) entries).records = s.records.setCell c r := rfl

theorem takeArrival_frame (c : CellNo) (src : CellStation) (lot : Half) (m : CellMsg) (s : State) :
    takeArrival c (.frame src lot m) s = s.leaving (s.bay.cellFrameEffect s.ctx c src m) (s.forwards c src lot m) := by
  have htake : takeArrival c (.frame src lot m) s = if s.forwarding m.kind = .forward then
      (s.onBay fun x b => b.cellFrameEffect x c src m).pushUplink
        { origin := .forwarded c, frame := cellFrame s.part.station c src lot m }
      else s.onBay fun x b => b.cellFrameEffect x c src m := rfl
  rw [htake]
  unfold State.forwards
  by_cases hf : s.forwarding m.kind = .forward
  · rw [if_pos hf, if_pos hf]
    rfl
  · rw [if_neg hf, if_neg hf]
    unfold State.leaving
    rw [List.append_nil]
    rfl

theorem forwards_traffic (s : State) (c : CellNo) (src : CellStation) (lot : Half) (m : CellMsg) :
    (s.forwards c src lot m).filter UpEntry.traffic = s.forwards c src lot m := by
  unfold State.forwards
  split <;> rfl

theorem State.traffic_leaving (s : State) (b : Bay) {entries : List UpEntry} (h : entries.filter UpEntry.traffic = entries) :
    (s.leaving b entries).traffic = s.traffic ++ entries := by
  unfold State.traffic State.leaving
  rw [List.filter_append, h]

theorem State.free_leaving {s : State} {b : Bay} (entries : List UpEntry) (h : b.channels = s.bay.channels) :
    s.free ≤ (s.leaving b entries).free + entries.length := by
  have hused : (s.leaving b entries).used = s.used + entries.length := by
    simp only [State.used, State.leaving, List.length_append, h]
    omega
  rw [State.free_eq, State.free_eq, hused]
  omega

theorem takeArrival_misdirected (c : CellNo) {a : Arrival} {x : Half × CellMsg} (ha : misdirectedOf a = some x) (s : State) :
    takeArrival c a s = s.leaving (s.bay.setCell c (s.bay.cell c).erred) (s.forwards c .tester x.1 x.2) := by
  obtain ⟨rfl, hk⟩ := misdirectedOf_eq_some ha
  rw [takeArrival_frame, Bay.cellFrameEffect.eq_def, if_pos hk, Bay.protocolError_eq]

theorem takeWaiting_misdirected {s : State} {c : CellNo} {a : Arrival} {rest : List Arrival} {x : Half × CellMsg}
    (hw : s.link.ports[c].waiting = a :: rest) (ha : misdirectedOf a = some x) :
    s.takeWaiting c = (s.pointedAt c rest).leaving
      ((s.pointedAt c rest).bay.setCell c (s.bay.cell c).erred) (s.forwards c .tester x.1 x.2) :=
  (State.takeWaiting_pointedAt hw).trans (takeArrival_misdirected c ha _)

theorem State.waitingFrames_takeWaiting {s : State} {c : CellNo} {a : Arrival} {rest : List Arrival} {x : Half × CellMsg}
    (hw : s.link.ports[c].waiting = a :: rest) (ha : misdirectedOf a = some x) :
    (s.takeWaiting c).waitingFrames + 1 = s.waitingFrames := by
  rw [takeWaiting_misdirected hw ha, State.waitingFrames_leaving]
  exact State.waitingFrames_pointedAt hw

theorem State.ServedTo.take {t t' : State} {d : Option CellNo} {c : CellNo} {a : Arrival} {rest : List Arrival} {x : Half × CellMsg}
    (h : t.OnlyPorts) (hc : t.nextPort d = some c) (hw : t.link.ports[c].waiting = a :: rest) (ha : misdirectedOf a = some x)
    (hs : (t.takeWaiting c).ServedTo (some c) t') : t.ServedTo d t' := by
  intro n m hm hn
  have hclaim := h.nextClaim m
  rw [hm, hc] at hclaim
  have hframes := State.waitingFrames_takeWaiting hw ha
  cases n with
  | zero => omega
  | succ n =>
    rw [settle, hclaim]
    exact hs n _ rfl (by omega)

/-! ### What the frames taken in a service leave -/

/-- The frames of a list that come from a cell's port. -/
def framesAt (ps : List (CellNo × Arrival)) (c : CellNo) : List Arrival := (ps.filter (·.1 = c)).map (·.2)

theorem framesAt_append (ps qs : List (CellNo × Arrival)) (c : CellNo) : framesAt (ps ++ qs) c = framesAt ps c ++ framesAt qs c := by
  simp [framesAt]

theorem framesAt_single (c d : CellNo) (a : Arrival) : framesAt [(c, a)] d = if d = c then [a] else [] := by
  by_cases h : c = d
  · simp [framesAt, h]
  · simp [framesAt, h, Ne.symm h]

/-- The uplink entries that frames taken at ports leave. -/
def State.forwardsAll (s : State) (ps : List (CellNo × Arrival)) : List UpEntry := ps.flatMap fun p => s.forwardsOf p.1 [p.2]

theorem State.forwardsAll_append (s : State) (ps qs : List (CellNo × Arrival)) :
    s.forwardsAll (ps ++ qs) = s.forwardsAll ps ++ s.forwardsAll qs := List.flatMap_append

/-- The state `t` after the misdirected frames `ps` have been taken, in their order, from the ports of `s`. -/
structure State.Took (s t : State) (ps : List (CellNo × Arrival)) : Prop where
  ports : t.OnlyPorts
  traffic : t.traffic = s.traffic ++ s.forwardsAll ps
  records : t.records =
    { s.records with
      pointer := (ps.getLast?.map (·.1)).getD s.link.pointer
      cells := Vector.ofFn fun c => CellRec.erred^[(framesAt ps c).length] (s.bay.cell c) }
  waiting : ∀ c : CellNo, framesAt ps c ++ t.link.ports[c].waiting = s.link.ports[c].waiting
  free : s.free ≤ t.free + (s.forwardsAll ps).length

theorem Bay.cells_eq_ofFn (b : Bay) : b.cells = Vector.ofFn fun c => b.cell c := by
  ext i hi : 1
  simp [Bay.cell]

theorem State.Took.refl {s : State} (h : s.OnlyPorts) : s.Took s [] where
  ports := h
  traffic := (List.append_nil _).symm
  records := by
    have hrecords : s.records = { s.records with cells := Vector.ofFn fun c => s.bay.cell c } := by
      rw [← s.bay.cells_eq_ofFn]
      rfl
    exact hrecords
  waiting _ := rfl
  free := le_rfl

theorem State.Took.tables {s t : State} {ps : List (CellNo × Arrival)} (h : s.Took t ps) : t.tables = s.tables :=
  congrArg Records.tables h.records

theorem State.Took.part {s t : State} {ps : List (CellNo × Arrival)} (h : s.Took t ps) : t.part = s.part :=
  congrArg Records.part h.records

theorem State.Took.forwarding {s t : State} {ps : List (CellNo × Arrival)} (h : s.Took t ps) (k : CellKind) :
    t.forwarding k = s.forwarding k := by
  unfold State.forwarding
  rw [h.tables]

theorem State.Took.forwards {s t : State} {ps : List (CellNo × Arrival)} (h : s.Took t ps) (c : CellNo) (src : CellStation)
    (lot : Half) (m : CellMsg) : t.forwards c src lot m = s.forwards c src lot m := by
  unfold State.forwards
  rw [h.forwarding, h.part]

theorem State.Took.cell {s t : State} {ps : List (CellNo × Arrival)} (h : s.Took t ps) (c : CellNo) :
    t.bay.cell c = CellRec.erred^[(framesAt ps c).length] (s.bay.cell c) := by
  have hcells : t.bay.cells = _ := congrArg Records.cells h.records
  unfold Bay.cell
  rw [hcells]
  simp [Bay.cell]

theorem forwardsOf_single (s : State) (c : CellNo) {a : Arrival} {x : Half × CellMsg} (ha : misdirectedOf a = some x) :
    s.forwardsOf c [a] = s.forwards c .tester x.1 x.2 := by
  simp [State.forwardsOf, ha]

theorem setCell_ofFn {f g : CellNo → CellRec} {c : CellNo} {r : CellRec} (hc : g c = r) (hne : ∀ d, d ≠ c → g d = f d) :
    (Vector.ofFn f).set c r = Vector.ofFn g := by
  ext i hi : 1
  by_cases h : c.val = i
  · subst h
    simpa using hc.symm
  · rw [Vector.getElem_set_ne _ _ h, Vector.getElem_ofFn, Vector.getElem_ofFn]
    exact (hne ⟨i, hi⟩ fun he => h (congrArg Fin.val he).symm).symm

theorem State.Took.snoc {s t : State} {ps : List (CellNo × Arrival)} {c : CellNo} {a : Arrival} {rest : List Arrival}
    {x : Half × CellMsg} (h : s.Took t ps) (hw : t.link.ports[c].waiting = a :: rest) (ha : misdirectedOf a = some x) :
    s.Took (t.takeWaiting c) (ps ++ [(c, a)]) := by
  have hentries : s.forwardsAll [(c, a)] = t.forwards c .tester x.1 x.2 := by
    rw [h.forwards, ← forwardsOf_single s c ha]
    exact List.append_nil _
  have hframes (d : CellNo) : framesAt (ps ++ [(c, a)]) d = framesAt ps d ++ if d = c then [a] else [] := by
    rw [framesAt_append, framesAt_single]
  rw [takeWaiting_misdirected hw ha]
  exact {
    ports := (h.ports.pointedAt c rest).leaving _ rfl rfl
    traffic := by
      rw [State.traffic_leaving _ _ (forwards_traffic ..), s.forwardsAll_append, hentries, ← List.append_assoc, ← h.traffic]
      rw [State.traffic_pointedAt]
    records := by
      have hcells : (t.records.cells.set c (t.bay.cell c).erred)
          = Vector.ofFn fun d => CellRec.erred^[(framesAt (ps ++ [(c, a)]) d).length] (s.bay.cell d) := by
        rw [h.records]
        refine setCell_ofFn ?_ fun d hd => ?_
        · rw [hframes, if_pos rfl, List.length_append, List.length_singleton, Function.iterate_succ_apply', ← h.cell]
        · rw [hframes, if_neg hd, List.append_nil]
      rw [State.records_leaving, State.records_pointedAt, ← hcells, List.getLast?_concat, Option.map_some, Option.getD_some]
      simp only [Records.setCell]
      rw [h.records]
    waiting := fun d => by
      have hleft := h.waiting d
      rw [hframes, ← hleft]
      rw [State.waiting_leaving, t.waiting_pointedAt c rest d]
      by_cases hd : d = c
      · subst hd
        rw [if_pos rfl, if_pos rfl, hw, List.append_assoc]
        rfl
      · rw [if_neg hd, if_neg hd, List.append_nil]
    free := by
      have hkept := State.free_leaving (s := t.pointedAt c rest)
        (b := (t.pointedAt c rest).bay.setCell c (t.bay.cell c).erred) (t.forwards c .tester x.1 x.2) rfl
      have hfree := h.free
      rw [State.free_pointedAt] at hkept
      rw [s.forwardsAll_append, hentries, List.length_append]
      omega }

/-- What waits at a port once its head frame has been taken. -/
theorem State.Took.waiting_taken {s t u : State} {ps : List (CellNo × Arrival)} {c : CellNo} {a : Arrival} {rest : List Arrival}
    (h : s.Took t ps) (hu : s.Took u (ps ++ [(c, a)])) (hw : t.link.ports[c].waiting = a :: rest) : u.link.ports[c].waiting = rest := by
  have hleft := hu.waiting c
  rw [← h.waiting c, framesAt_append, framesAt_single, if_pos rfl, List.append_assoc, hw] at hleft
  exact (List.cons.inj (List.append_cancel_left hleft)).2

theorem State.Took.share {s t : State} {ps : List (CellNo × Arrival)} (h : s.Took t ps) (c : CellNo) :
    t.share c = s.share c + (s.forwardsAll ps).countP fun e => e.origin = .forwarded c := by
  rw [State.share_eq, h.traffic, List.countP_append, ← State.share_eq]

end Sys2Proof.Machine

/-!
PROOF. The service of held-off ports (section 8.3).
-/

namespace Sys2Proof.Machine

/-! ### One service, whole -/

theorem State.OnlyPorts.of_idle {s : State} (hh : s.link.held = []) (hn : s.bay.notices = [])
    (hi : ∀ k : ChanNo, (s.bay.chan k).state = .idle) : s.OnlyPorts := ⟨hh, hn, hi⟩

theorem State.Took.start {s : State} (h : s.OnlyPorts) : s.Took s.newEvent [] where
  ports := h.of_eq rfl rfl rfl
  traffic := (State.Took.refl h).traffic
  records := (State.Took.refl h).records
  waiting _ := rfl
  free := le_rfl

theorem State.Took.begun {s : State} (h : s.OnlyPorts) :
    ∃ t, s.Took t [] ∧ ∀ t', t.ServedTo none t' → s.newEvent.ServedTo none t' := ⟨_, .start h, fun _ => id⟩

theorem exec_service {s t : State} (h : s.newEvent.ServedTo none t) : exec .heldOffPortService s = .next t.eventEnd := by
  have hserved : s.newEvent.serveClaims {} = t := h _ {} rfl (by unfold State.claimBound; omega)
  have hrun : exec .heldOffPortService s = .next (s.newEvent.serveClaims {}).eventEnd := rfl
  rw [hrun, hserved]

/-- A service that has taken the frames `ps` and leaves none waiting. -/
theorem gives_of_served {s t : State} {ps : List (CellNo × Arrival)} {r : Records} {entries : List UpEntry} (h : s.Took t ps)
    (hs : s.newEvent.ServedTo none t) (hw : ∀ c : CellNo, t.link.ports[c].waiting = []) (hr : t.records = r)
    (he : s.forwardsAll ps = entries) : Gives .heldOffPortService s r entries [] :=
  ⟨t.eventEnd, exec_service hs, (records_eventEnd t).trans hr, (traffic_eventEnd t).trans (he ▸ h.traffic),
    ⟨⟨(held_eventEnd t).trans h.ports.held, fun c => (waiting_eventEnd t c).trans (hw c)⟩, rfl⟩, nofun⟩

/-! ### Which ports are served -/

theorem State.portEligible_nil {t : State} {c : CellNo} (h : t.link.ports[c].waiting = []) : t.portEligible c = false := by
  unfold State.portEligible
  rw [h]

theorem State.drainable_nil {t : State} {c : CellNo} (h : t.link.ports[c].waiting = []) : t.drainable c = false := by
  unfold State.drainable
  rw [h]

theorem State.portEligible_cons {t : State} {c : CellNo} {a : Arrival} {rest : List Arrival}
    (h : t.link.ports[c].waiting = a :: rest) : t.portEligible c = (t.takenFreely a || t.cellClaimGranted c) := by
  unfold State.portEligible
  rw [h]

theorem State.drainable_cons {t : State} {c : CellNo} {a : Arrival} {rest : List Arrival}
    (h : t.link.ports[c].waiting = a :: rest) : t.drainable c = t.takenFreely a := by
  unfold State.drainable
  rw [h]

theorem State.takenFreely_misdirected (t : State) {a : Arrival} {x : Half × CellMsg} (h : misdirectedOf a = some x) :
    t.takenFreely a = decide (t.forwarding x.2.kind = .absorb) := by
  obtain ⟨rfl, _⟩ := misdirectedOf_eq_some h
  rfl

theorem State.cellClaimGranted_iff (t : State) (c : CellNo) :
    t.cellClaimGranted c = true ↔ 64 < t.free ∧ t.share c < t.tables.settings.cellShareLimit := decide_eq_true_iff

theorem filter_drainable_none {t : State} {d : Option CellNo} (h : ∀ c ∈ d, t.drainable c = false) : d.filter t.drainable = none := by
  cases d with
  | none => rfl
  | some c => exact Option.filter_some_neg (h c rfl)

/-! ### The entries that the frames taken leave -/

theorem State.length_forwards_le (s : State) (c : CellNo) (src : CellStation) (lot : Half) (m : CellMsg) :
    (s.forwards c src lot m).length ≤ 1 := by
  unfold State.forwards
  split
  · exact le_rfl
  · exact Nat.zero_le 1

theorem State.forwardsOf_cons (s : State) (c : CellNo) (a : Arrival) (l : List Arrival) :
    s.forwardsOf c (a :: l) = s.forwardsOf c [a] ++ s.forwardsOf c l := by
  cases h : misdirectedOf a <;> simp [State.forwardsOf, h]

theorem State.length_forwardsOf_single_le (s : State) (c : CellNo) (a : Arrival) : (s.forwardsOf c [a]).length ≤ 1 := by
  cases h : misdirectedOf a with
  | none => simp [State.forwardsOf, h]
  | some x =>
    rw [forwardsOf_single s c h]
    exact s.length_forwards_le ..

theorem State.origin_of_mem_forwardsOf {s : State} {c : CellNo} {l : List Arrival} {e : UpEntry} (h : e ∈ s.forwardsOf c l) :
    e.origin = .forwarded c := by
  unfold State.forwardsOf State.forwards at h
  obtain ⟨x, _, hx⟩ := List.mem_flatMap.1 h
  split at hx
  · rw [List.mem_singleton.1 hx]
  · cases hx

theorem State.forwardsAll_cons (s : State) (p : CellNo × Arrival) (ps : List (CellNo × Arrival)) :
    s.forwardsAll (p :: ps) = s.forwardsOf p.1 [p.2] ++ s.forwardsAll ps := rfl

theorem State.length_forwardsAll_le (s : State) (ps : List (CellNo × Arrival)) : (s.forwardsAll ps).length ≤ ps.length := by
  induction ps with
  | nil => exact le_rfl
  | cons p ps ih =>
    have hone := s.length_forwardsOf_single_le p.1 p.2
    rw [s.forwardsAll_cons, List.length_append, List.length_cons]
    omega

/-- R167: only the frames of a cell count in its share. -/
theorem State.countP_forwardsAll_le (s : State) (ps : List (CellNo × Arrival)) (c : CellNo) :
    (s.forwardsAll ps).countP (fun e => e.origin = .forwarded c) ≤ (framesAt ps c).length := by
  induction ps with
  | nil => exact le_rfl
  | cons p ps ih =>
    have hframes : framesAt (p :: ps) c = framesAt [p] c ++ framesAt ps c := framesAt_append [p] ps c
    have hfirst : (s.forwardsOf p.1 [p.2]).countP (fun e => e.origin = .forwarded c) ≤ (framesAt [p] c).length := by
      rw [show p = (p.1, p.2) from rfl, framesAt_single]
      by_cases h : c = p.1
      · rw [if_pos h]
        exact (List.countP_le_length).trans (s.length_forwardsOf_single_le p.1 p.2)
      · rw [if_neg h, List.countP_eq_zero.2 fun e he => ?_]
        · exact le_rfl
        · rw [decide_eq_true_eq, State.origin_of_mem_forwardsOf he]
          exact fun ho => h (Origin.forwarded.inj ho).symm
    rw [s.forwardsAll_cons, List.countP_append, hframes, List.length_append]
    exact Nat.add_le_add hfirst ih

theorem State.Took.share_le {s t : State} {ps : List (CellNo × Arrival)} (h : s.Took t ps) (c : CellNo) :
    t.share c ≤ s.share c + (framesAt ps c).length := by
  rw [h.share]
  exact Nat.add_le_add_left (s.countP_forwardsAll_le ps c) _

theorem State.Took.le_share {s t : State} {ps : List (CellNo × Arrival)} (h : s.Took t ps) (c : CellNo) : s.share c ≤ t.share c := by
  rw [h.share]
  exact Nat.le_add_right ..

theorem State.Took.granted {s t : State} {ps : List (CellNo × Arrival)} (h : s.Took t ps) {c : CellNo}
    (hf : 64 + (s.forwardsAll ps).length < s.free)
    (hs : s.share c + (framesAt ps c).length < s.tables.settings.cellShareLimit) : t.cellClaimGranted c = true := by
  have hfree := h.free
  have hshare := h.share_le c
  rw [State.cellClaimGranted_iff, h.tables]
  omega

theorem State.Took.pointer {s t : State} {ps : List (CellNo × Arrival)} (h : s.Took t ps) :
    t.link.pointer = (ps.getLast?.map (·.1)).getD s.link.pointer :=
  congrArg Records.pointer h.records

/-! ### One frame at one port -/

theorem State.Took.step {s t : State} {ps : List (CellNo × Arrival)} {c : CellNo} {d : Option CellNo} {a : Arrival}
    {rest : List Arrival} {x : Half × CellMsg} (h : s.Took t ps) (hc : t.nextPort d = some c)
    (hw : t.link.ports[c].waiting = a :: rest) (ha : misdirectedOf a = some x) :
    ∃ u, s.Took u (ps ++ [(c, a)]) ∧ ∀ t', u.ServedTo (some c) t' → t.ServedTo d t' :=
  ⟨_, h.snoc hw ha, fun _ hs => .take h.ports hc hw ha hs⟩

theorem nextPort_granted {t : State} {c : CellNo} {d : Option CellNo} {a : Arrival} {rest : List Arrival}
    (hd : ∀ e ∈ d, t.drainable e = false) (hw : t.link.ports[c].waiting = a :: rest) (hc : t.cellClaimGranted c = true)
    (hleast : ∀ y, t.link.ports[y].waiting ≠ [] → portPlace t.link.pointer c ≤ portPlace t.link.pointer y) :
    t.nextPort d = some c := by
  have heligible : t.portEligible c = true := by rw [State.portEligible_cons hw, hc, Bool.or_true]
  refine State.nextPort_least (filter_drainable_none hd) heligible fun y hy => hleast y fun hn => ?_
  rw [State.portEligible_nil hn] at hy
  cases hy

theorem State.Took.done {s t : State} {ps : List (CellNo × Arrival)} (h : s.Took t ps)
    (hw : ∀ c : CellNo, t.link.ports[c].waiting = []) (d : Option CellNo) : t.ServedTo d t :=
  State.servedTo_done h.ports (State.nextPort_none (filter_drainable_none fun c _ => State.drainable_nil (hw c))
    fun c => State.portEligible_nil (hw c))

/-- R26: a TAKE that the tester sends is misdirected. -/
theorem misdirectedOf_take (lot id : Half) : misdirectedOf (.frame .tester lot (.take id)) = some (lot, .take id) := rfl

theorem forwardsOf_take {s : State} (hf : s.forwarding .take = .forward) (c : CellNo) (lot id : Half) :
    s.forwardsOf c [.frame .tester lot (.take id)]
      = [{ origin := .forwarded c, frame := cellFrame s.part.station c .tester lot (.take id) }] := by
  rw [forwardsOf_single s c (misdirectedOf_take lot id)]
  exact if_pos hf

theorem State.Took.records_single {s t : State} {c : CellNo} {a : Arrival} (h : s.Took t [(c, a)]) :
    t.records = { s.records.setCell c (s.bay.cell c).erred with pointer := c } := by
  have hset : (s.bay.cells.set c (s.bay.cell c).erred)
      = Vector.ofFn fun d => CellRec.erred^[(framesAt [(c, a)] d).length] (s.bay.cell d) := by
    rw [s.bay.cells_eq_ofFn]
    refine setCell_ofFn ?_ fun d hd => ?_
    · rw [framesAt_single, if_pos rfl]
      rfl
    · rw [framesAt_single, if_neg hd]
      rfl
  rw [h.records, ← hset]
  rfl

theorem service_one_misdirected {c : CellNo} {lot id : Half} {s : State} (h : s.OnlyPorts)
    (hw : s.link.ports[c].waiting = [.frame .tester lot (.take id)]) (hrest : ∀ c', c' ≠ c → s.link.ports[c'].waiting = [])
    (hf : s.forwarding .take = .forward) (hfree : 64 < s.free) (hshare : s.share c < s.tables.settings.cellShareLimit) :
    Gives .heldOffPortService s { s.records.setCell c (s.bay.cell c).erred with pointer := c }
      [{ origin := .forwarded c, frame := cellFrame s.part.station c .tester lot (.take id) }] [] := by
  obtain ⟨t, ht, hbegun⟩ := State.Took.begun h
  have hwaiting (d : CellNo) : t.link.ports[d].waiting = s.link.ports[d].waiting := ht.waiting d
  have hleast (y : CellNo) (hy : t.link.ports[y].waiting ≠ []) : portPlace t.link.pointer c ≤ portPlace t.link.pointer y := by
    by_cases hyc : y = c
    · rw [hyc]
    · exact absurd ((hwaiting y).trans (hrest y hyc)) hy
  have hgranted : t.cellClaimGranted c = true := ht.granted hfree hshare
  obtain ⟨u, hu, hstep⟩ := ht.step (nextPort_granted (d := none) nofun ((hwaiting c).trans hw) hgranted hleast) ((hwaiting c).trans hw)
    (misdirectedOf_take lot id)
  have hempty (d : CellNo) : u.link.ports[d].waiting = [] := by
    have hleft := hu.waiting d
    rw [List.nil_append, framesAt_single] at hleft
    by_cases hd : d = c
    · subst hd
      rw [hw, if_pos rfl] at hleft
      exact List.append_right_eq_self.1 hleft
    · rw [if_neg hd, hrest d hd] at hleft
      exact hleft
  refine gives_of_served hu (hbegun _ (hstep _ (hu.done hempty _))) hempty hu.records_single ?_
  rw [List.nil_append, s.forwardsAll_cons, forwardsOf_take hf]
  rfl

/-! ### A TAKE of the open offer, held off (R68) -/

theorem nextClaim_quiet_map {s : State} (h : s.Quiet) (m : Claims) : nextClaim m s = (nextClaim {} s).map fun p => (m, p.2) := by
  have hport (d : Option CellNo) : s.nextPort d = none :=
    State.nextPort_none (filter_drainable_none fun c _ => State.drainable_nil (h.2 c)) fun c => State.portEligible_nil (h.2 c)
  unfold nextClaim
  rw [nextRequest_quiet h, nextHeld_quiet h, hport, hport]
  cases s.nextNotice with
  | some n => simp
  | none =>
    cases s.nextReissue with
    | some k => simp
    | none => cases s.nextGrant <;> simp

theorem settle_quiet_claims : ∀ (n : Nat) (m : Claims) {s : State}, s.Quiet → settle n m s = settle n {} s
  | 0, _, _, _ => rfl
  | n + 1, m, s, h => by
    rw [settle, settle, nextClaim_quiet_map h m]
    cases hc : nextClaim {} s with
    | none => rfl
    | some p =>
      obtain ⟨m', s'⟩ := p
      obtain ⟨rfl, hs⟩ := nextClaim_quiet h hc
      have hq : s'.Quiet := by
        obtain ⟨x, _, rfl⟩ | ⟨x, _, rfl⟩ | ⟨x, _, rfl⟩ := hs
        · exact quiet_buildNotice h x
        · exact quiet_issuePull h x
        · exact quiet_grantPull h x
      exact settle_quiet_claims n m hq

theorem gives_of_settle {i : Instr} {s u : State} {n : Nat} {m : Claims} {r : Records} {entries : List UpEntry}
    {reported : List Notice} (he : exec i s = .next (settle n m u).eventEnd) (hq : u.Quiet) (hr : u.records = r)
    (ht : u.traffic = s.traffic ++ entries) (hn : ∀ n ∈ reported, u.Reported n) : Gives i s r entries reported := by
  rw [settle_quiet_claims n m hq] at he
  obtain ⟨⟨hrecords, htraffic, hreported⟩, hquiet⟩ := settle_quiet
    (P := fun t => t.records = u.records ∧ t.traffic = u.traffic ∧ ∀ n ∈ reported, t.Reported n)
    (fun t n ht => ⟨(records_buildNotice t n).trans ht.1, (traffic_buildNotice t n).trans ht.2.1,
      fun n h => reported_buildNotice (ht.2.2 n h)⟩)
    (fun t k ht => ⟨(records_issuePull t k).trans ht.1, (traffic_issuePull t k).trans ht.2.1,
      fun n h => reported_issuePull k (ht.2.2 n h)⟩)
    (fun t k ht => ⟨(records_grantPull t k).trans ht.1, (traffic_grantPull t k).trans ht.2.1,
      fun n h => reported_grantPull k (ht.2.2 n h)⟩)
    n u hq ⟨rfl, rfl, hn⟩
  exact ⟨_, he, (records_eventEnd _).trans (hrecords.trans hr), (traffic_eventEnd _).trans (htraffic.trans ht),
    ⟨quiet_eventEnd hquiet, rfl⟩, fun n h => reported_eventEnd (hreported n h)⟩

theorem quiet_leaving {s : State} (h : s.Quiet) (b : Bay) (entries : List UpEntry) : (s.leaving b entries).Quiet := h

theorem records_leaving_of_bare {s : State} {b : Bay} {c : CellNo} {r : CellRec} (h : b.bare = s.bay.bare.setCell c r)
    (entries : List UpEntry) : (s.leaving b entries).records = s.records.setCell c r := by
  have hrecords : ({ s with bay := b } : State).records = s.records.setCell c r := records_of_bare h rfl
  exact hrecords

/-- R168: a service that takes the one frame that waits, at its port. -/
theorem service_one_frame {s : State} {c : CellNo} {a : Arrival} (h : s.OnlyPorts) (hw : s.link.ports[c].waiting = [a])
    (hrest : ∀ c', c' ≠ c → s.link.ports[c'].waiting = []) (hc : s.cellClaimGranted c = true) :
    ∃ p n m, p.Quiet ∧ p.records = { s.records with pointer := c } ∧ p.traffic = s.traffic
      ∧ exec .heldOffPortService s = .next (settle n m (takeArrival c a p)).eventEnd := by
  have honly : s.newEvent.OnlyPorts := h.of_eq rfl rfl rfl
  have hleast (y : CellNo) (hy : s.newEvent.link.ports[y].waiting ≠ []) :
      portPlace s.newEvent.link.pointer c ≤ portPlace s.newEvent.link.pointer y := by
    by_cases hyc : y = c
    · rw [hyc]
    · exact absurd (hrest y hyc) hy
  have hport : s.newEvent.nextPort none = some c := nextPort_granted nofun hw hc hleast
  have hclaim := honly.nextClaim {}
  rw [hport] at hclaim
  have hbound : s.newEvent.claimBound = s.newEvent.claimBound - 1 + 1 := by
    unfold State.claimBound
    omega
  have hserved : s.newEvent.serveClaims {} = settle (s.newEvent.claimBound - 1)
      { drain := some c, request := true || decide (s.newEvent.free = 0) } (s.newEvent.takeWaiting c) := by
    unfold State.serveClaims
    rw [hbound, settle, hclaim]
    rfl
  have hrun : exec .heldOffPortService s = .next (s.newEvent.serveClaims {}).eventEnd := rfl
  rw [hserved, State.takeWaiting_pointedAt (s := s.newEvent) hw] at hrun
  refine ⟨s.newEvent.pointedAt c [], _, _, ⟨(honly.pointedAt c []).held, fun d => ?_⟩, s.newEvent.records_pointedAt c [],
    s.newEvent.traffic_pointedAt c [], hrun⟩
  rw [State.waiting_pointedAt]
  by_cases hd : d = c
  · rw [if_pos hd]
  · rw [if_neg hd]
    exact hrest d hd

theorem service_one_take {c : CellNo} {lot : Half} {a : Assignment} {k : SlotNo} {s : State} (h : s.OnlyPorts)
    (hw : s.link.ports[c].waiting = [.frame .handler lot (.take a.id)]) (hrest : ∀ c', c' ≠ c → s.link.ports[c'].waiting = [])
    (hf : s.forwarding .take = .forward) (hfree : 64 < s.free) (hshare : s.share c < s.tables.settings.cellShareLimit)
    (hst : (s.bay.cell c).state = .offered) (ha : (s.bay.cell c).assignment = some a) (hk : a.slot = some k) :
    Gives .heldOffPortService s { s.records.setCell c (s.armed c ((s.bay.cell c).taken a k s.part.clock)) with pointer := c }
      [{ origin := .forwarded c, frame := cellFrame s.part.station c .handler lot (.take a.id) }] [.cellState c] := by
  obtain ⟨p, n, m, hquiet, hrecords, htraffic, hrun⟩ := service_one_frame h hw hrest ((s.cellClaimGranted_iff c).2 ⟨hfree, hshare⟩)
  have hpart : p.part = s.part := congrArg Records.part hrecords
  have htables : p.tables = s.tables := congrArg Records.tables hrecords
  have hcells : p.bay.cells = s.bay.cells := congrArg Records.cells hrecords
  have hcell : p.bay.cell c = s.bay.cell c := by
    unfold Bay.cell
    rw [hcells]
  have harmed (r : CellRec) : p.armed c r = s.armed c r := by
    unfold State.armed State.stallArmed
    rw [htables, hpart]
  have hforwards : p.forwards c .handler lot (.take a.id)
      = [{ origin := .forwarded c, frame := cellFrame s.part.station c .handler lot (.take a.id) }] := by
    unfold State.forwards State.forwarding
    rw [htables, hpart]
    exact if_pos hf
  obtain ⟨hbare, hnotice⟩ := Bay.bare_takeFrame (s := p) (b := p.bay) (c := c) (a := a) (k := k)
    (by rw [hcell]; exact hst) (by rw [hcell]; exact ha) hk
  rw [takeArrival_frame, hforwards] at hrun
  refine gives_of_settle hrun (quiet_leaving hquiet _ _) ?_ ?_ (List.forall_mem_singleton.2 (.inl hnotice))
  · refine (records_leaving_of_bare hbare _).trans ?_
    rw [hrecords, harmed, hcell, hpart]
    rfl
  · rw [State.traffic_leaving _ _ rfl, htraffic]

end Sys2Proof.Machine

/-!
PROOF. Rounds of the held-off ports (section 8.3).
-/

namespace Sys2Proof.Machine

/-! ### One round over any ports (R168) -/

/-- The frames that wait at a port, each with its port. -/
def State.framesOf (s : State) (c : CellNo) : List (CellNo × Arrival) := s.link.ports[c].waiting.map fun a => (c, a)

theorem framesAt_map (c d : CellNo) (l : List Arrival) : framesAt (l.map fun a => (c, a)) d = if d = c then l else [] := by
  by_cases h : c = d
  · subst h
    simp [framesAt, List.filter_map, Function.comp_def]
  · simp [framesAt, List.filter_map, Function.comp_def, h, Ne.symm h]

theorem framesAt_framesOf (s : State) (l : List CellNo) (hl : l.Nodup) (d : CellNo) :
    framesAt (l.flatMap s.framesOf) d = if d ∈ l then s.link.ports[d].waiting else [] := by
  induction l with
  | nil => rfl
  | cons c l ih =>
    obtain ⟨hc, hl⟩ := List.nodup_cons.1 hl
    rw [List.flatMap_cons, framesAt_append, ih hl, State.framesOf, framesAt_map]
    by_cases h : d = c
    · subst h
      simp [hc]
    · simp [h]

theorem State.forwardsAll_map (s : State) (c : CellNo) (l : List Arrival) :
    s.forwardsAll (l.map fun a => (c, a)) = s.forwardsOf c l := by
  induction l with
  | nil => rfl
  | cons a l ih =>
    rw [List.map_cons, s.forwardsAll_cons, ih, ← s.forwardsOf_cons]

theorem State.forwardsAll_framesOf (s : State) (l : List CellNo) :
    s.forwardsAll (l.flatMap s.framesOf) = l.flatMap fun c => s.forwardsOf c s.link.ports[c].waiting := by
  induction l with
  | nil => rfl
  | cons c l ih =>
    rw [List.flatMap_cons, s.forwardsAll_append, ih, State.framesOf, s.forwardsAll_map, List.flatMap_cons]

/-- The frame is misdirected and absorbed. -/
def State.Absorbs (s : State) (a : Arrival) : Prop := ∃ x, misdirectedOf a = some x ∧ s.forwarding x.2.kind = .absorb

theorem State.OneRound.behind {s : State} (h : s.OneRound) {c : CellNo} {a : Arrival} {rest : List Arrival}
    (hw : s.link.ports[c].waiting = a :: rest) : ∀ b ∈ rest, s.Absorbs b := by
  intro b hb
  have hany := (h c a rest hw).2 b hb
  rw [Option.any_eq_true] at hany
  obtain ⟨x, hx, hk⟩ := hany
  exact ⟨x, hx, of_decide_eq_true hk⟩

theorem State.forwardsOf_absorbed {s : State} (c : CellNo) {l : List Arrival} (h : ∀ a ∈ l, s.Absorbs a) : s.forwardsOf c l = [] := by
  induction l with
  | nil => rfl
  | cons a l ih =>
    obtain ⟨x, hx, hk⟩ := h a (List.mem_cons_self ..)
    rw [s.forwardsOf_cons, ih fun b hb => h b (List.mem_cons_of_mem _ hb), forwardsOf_single s c hx, List.append_nil]
    exact if_neg (by rw [hk]; nofun)

theorem State.OneRound.length_forwardsOf_le {s : State} (h : s.OneRound) (c : CellNo) :
    (s.forwardsOf c s.link.ports[c].waiting).length ≤ 1 := by
  cases hw : s.link.ports[c].waiting with
  | nil => exact Nat.zero_le 1
  | cons a rest =>
    rw [s.forwardsOf_cons, State.forwardsOf_absorbed c (h.behind hw), List.append_nil]
    exact s.length_forwardsOf_single_le c a

theorem State.OneRound.length_forwardsAll_le {s : State} (h : s.OneRound) (l : List CellNo) :
    (s.forwardsAll (l.flatMap s.framesOf)).length ≤ l.length := by
  rw [s.forwardsAll_framesOf]
  induction l with
  | nil => exact le_rfl
  | cons c l ih =>
    have hone := h.length_forwardsOf_le c
    rw [List.flatMap_cons, List.length_append, List.length_cons]
    omega

theorem State.Served.waiting {s : State} {c : CellNo} (h : s.Served c) : ∃ l a, s.link.ports[c].waiting = l ++ [a] := by
  obtain ⟨a, rest, x, hw, _⟩ := h
  exact ⟨_, _, hw.trans (List.dropLast_concat_getLast (List.cons_ne_nil a rest)).symm⟩

theorem getLast?_framesOf {s : State} {l : List CellNo} (h : ∀ c ∈ l, s.Served c) :
    (l.flatMap s.framesOf).getLast?.map (·.1) = l.getLast? := by
  rcases List.eq_nil_or_concat l with rfl | ⟨l', c, rfl⟩
  · rfl
  · obtain ⟨frames, a, hw⟩ := (h c (by simp)).waiting
    rw [List.concat_eq_append, List.flatMap_append, List.flatMap_singleton, State.framesOf, hw, List.map_append, List.map_singleton,
      ← List.append_assoc, List.getLast?_concat, List.getLast?_concat]
    rfl

/-- R168: what is absorbed behind the frame that was taken at a port is taken with it. -/
theorem State.Took.drained {s : State} {c : CellNo} : ∀ (rest : List Arrival) {t : State} {ps : List (CellNo × Arrival)},
    s.Took t ps → t.link.ports[c].waiting = rest → (∀ b ∈ rest, s.Absorbs b) →
    ∃ u, s.Took u (ps ++ rest.map fun a => (c, a)) ∧ ∀ t', u.ServedTo (some c) t' → t.ServedTo (some c) t'
  | [], t, ps, h, _, _ => ⟨t, by rwa [List.map_nil, List.append_nil], fun _ => id⟩
  | b :: rest, t, ps, h, hw, hb => by
    obtain ⟨x, hx, hk⟩ := hb b (List.mem_cons_self ..)
    have hdrains : t.drainable c = true := by
      rw [State.drainable_cons hw, t.takenFreely_misdirected hx, h.forwarding]
      exact decide_eq_true hk
    obtain ⟨u, hu, hstep⟩ := h.step (State.nextPort_drains hdrains) hw hx
    obtain ⟨v, hv, hrest⟩ := State.Took.drained rest hu (h.waiting_taken hu hw) fun a ha => hb a (List.mem_cons_of_mem _ ha)
    rw [List.append_assoc] at hv
    exact ⟨v, hv, fun t' ht => hstep t' (hrest t' ht)⟩

/-- R168: a port that is served in a round gives up all that waits at it. -/
theorem State.Took.port {s t : State} {ps : List (CellNo × Arrival)} {c : CellNo} {d : Option CellNo} (h : s.Took t ps)
    (hs : s.OneRound) (hc : s.Served c) (hport : t.nextPort d = some c) (hw : t.link.ports[c].waiting = s.link.ports[c].waiting) :
    ∃ u, s.Took u (ps ++ s.framesOf c) ∧ ∀ t', u.ServedTo (some c) t' → t.ServedTo d t' := by
  obtain ⟨a, rest, x, hwaiting, hx, _⟩ := hc
  rw [hwaiting] at hw
  obtain ⟨u, hu, hstep⟩ := h.step hport hw hx
  obtain ⟨v, hv, hdrain⟩ := State.Took.drained rest hu (h.waiting_taken hu hw) (hs.behind hwaiting)
  rw [List.append_assoc] at hv
  rw [State.framesOf, hwaiting]
  exact ⟨v, hv, fun t' ht => hstep t' (hdrain t' ht)⟩

theorem portPlace_after {p d i j : CellNo} (hd : portPlace p d < portPlace p i) (hij : portPlace p i ≤ portPlace p j) :
    portPlace d i ≤ portPlace d j := by
  unfold portPlace at *
  have := p.isLt
  have := d.isLt
  have := i.isLt
  have := j.isLt
  omega

theorem State.Took.waiting_round {s t : State} {done : List CellNo} (h : s.Took t (done.flatMap s.framesOf)) (hdone : done.Nodup)
    (c : CellNo) : t.link.ports[c].waiting = if c ∈ done then [] else s.link.ports[c].waiting := by
  have hleft := h.waiting c
  rw [framesAt_framesOf s done hdone] at hleft
  by_cases hc : c ∈ done
  · rw [if_pos hc] at hleft ⊢
    exact List.append_right_eq_self.1 hleft
  · rw [if_neg hc] at hleft ⊢
    exact hleft

/-- R168: a port that the round has yet to serve is one whose head would have been taken as the round began. -/
theorem State.Took.served_of_eligible {s t : State} {done : List CellNo} (h : s.Took t (done.flatMap s.framesOf))
    (hdone : done.Nodup) (hs : s.OneRound) {c : CellNo} (hc : t.portEligible c = true) : s.Served c ∧ c ∉ done := by
  have hwaiting := h.waiting_round hdone c
  by_cases hin : c ∈ done
  · rw [if_pos hin] at hwaiting
    rw [State.portEligible_nil hwaiting] at hc
    cases hc
  · rw [if_neg hin] at hwaiting
    refine ⟨?_, hin⟩
    cases hw : s.link.ports[c].waiting with
    | nil =>
      rw [State.portEligible_nil (hwaiting.trans hw)] at hc
      cases hc
    | cons a rest =>
      obtain ⟨x, hx⟩ := Option.isSome_iff_exists.1 (hs c a rest hw).1
      refine ⟨a, rest, x, hw, hx, ?_⟩
      rw [State.portEligible_cons (hwaiting.trans hw), Bool.or_eq_true, t.takenFreely_misdirected hx, decide_eq_true_eq,
        h.forwarding, State.cellClaimGranted_iff, h.tables] at hc
      exact hc.imp_right fun hg => (h.le_share c).trans_lt hg.2

theorem State.Took.eligible_of_served {s t : State} {done : List CellNo} (h : s.Took t (done.flatMap s.framesOf))
    (hdone : done.Nodup) (hs : s.OneRound) (hfree : 96 < s.free) {c : CellNo} (hc : s.Served c) (hin : c ∉ done) :
    t.portEligible c = true := by
  obtain ⟨a, rest, x, hw, hx, hserved⟩ := hc
  have hwaiting := h.waiting_round hdone c
  rw [if_neg hin] at hwaiting
  rw [State.portEligible_cons (hwaiting.trans hw), Bool.or_eq_true, t.takenFreely_misdirected hx, decide_eq_true_eq, h.forwarding]
  refine hserved.imp_right fun hshare => h.granted ?_ ?_
  · have hentries := hs.length_forwardsAll_le done
    have hports : done.length ≤ 32 := by simpa using hdone.length_le_card
    omega
  · rw [framesAt_framesOf s done hdone, if_neg hin]
    exact hshare

/-- R168: the ports that remain of a round are served in their order, each with the absorbed frames behind the one taken. -/
theorem State.Took.round {s : State} {took : List CellNo} (hs : s.OneRound) (hfree : 96 < s.free)
    (hmem : ∀ c, c ∈ took ↔ s.Served c)
    (horder : took.Pairwise fun i j => portPlace s.link.pointer i < portPlace s.link.pointer j) :
    ∀ (todo done : List CellNo) {t : State}, took = done ++ todo → s.Took t (done.flatMap s.framesOf) →
      ∃ u, s.Took u (took.flatMap s.framesOf) ∧ t.ServedTo done.getLast? u
  | todo, done, t, htook, h => by
    have hnodup : took.Nodup := horder.imp fun {i j} hij he => by rw [he] at hij; exact lt_irrefl _ hij
    have hdone : done.Nodup := by
      rw [htook] at hnodup
      exact (List.nodup_append.1 hnodup).1
    have hin (c : CellNo) (hc : c ∈ done) : s.Served c := (hmem c).1 (by rw [htook]; exact List.mem_append_left _ hc)
    have hdrained : done.getLast?.filter t.drainable = none := filter_drainable_none fun c hc => by
      have hwaiting := h.waiting_round hdone c
      rw [if_pos (List.mem_of_getLast? hc)] at hwaiting
      exact State.drainable_nil hwaiting
    have hnext (x : CellNo) (hx : t.portEligible x = true) : x ∈ todo := by
      obtain ⟨hserved, hnot⟩ := h.served_of_eligible hdone hs hx
      have hx' := (hmem x).2 hserved
      rw [htook] at hx'
      exact (List.mem_append.1 hx').resolve_left hnot
    cases todo with
    | nil =>
      rw [List.append_nil] at htook
      rw [htook]
      exact ⟨t, h, State.servedTo_done h.ports (State.nextPort_none hdrained fun x => eq_false_of_ne_true fun hx =>
        nomatch hnext x hx)⟩
    | cons c todo =>
      rw [htook] at horder hnodup
      obtain ⟨_, htodo, hbefore⟩ := List.pairwise_append.1 horder
      have hc : s.Served c := (hmem c).1 (by rw [htook]; exact List.mem_append_right _ (List.mem_cons_self ..))
      have hnot : c ∉ done := fun hcd => (List.nodup_append.1 hnodup).2.2 c hcd c (List.mem_cons_self ..) rfl
      have hplace (x : CellNo) (hx : x ∈ c :: todo) : portPlace s.link.pointer c ≤ portPlace s.link.pointer x := by
        rcases List.mem_cons.1 hx with rfl | hx
        · exact le_rfl
        · exact ((List.pairwise_cons.1 htodo).1 x hx).le
      have hpointer : t.link.pointer = done.getLast?.getD s.link.pointer := by rw [h.pointer, getLast?_framesOf hin]
      have hleast (x : CellNo) (hx : t.portEligible x = true) : portPlace t.link.pointer c ≤ portPlace t.link.pointer x := by
        rw [hpointer]
        cases hlast : done.getLast? with
        | none => exact hplace x (hnext x hx)
        | some d => exact portPlace_after (hbefore d (List.mem_of_getLast? hlast) c (List.mem_cons_self ..)) (hplace x (hnext x hx))
      have hport := State.nextPort_least hdrained (h.eligible_of_served hdone hs hfree hc hnot) hleast
      have hwaiting := h.waiting_round hdone c
      rw [if_neg hnot] at hwaiting
      obtain ⟨u, hu, hstep⟩ := h.port hs hc hport hwaiting
      rw [← List.flatMap_singleton (f := s.framesOf), ← List.flatMap_append] at hu
      obtain ⟨w, hw', hrest⟩ := State.Took.round hs hfree hmem (htook ▸ horder) todo (done ++ [c]) (by rw [htook]; simp) hu
      rw [List.getLast?_concat] at hrest
      exact ⟨w, hw', hstep _ hrest⟩
  termination_by todo => todo.length

theorem service_one_round {s : State} (h : s.OnlyPorts) (hfree : 96 < s.free) (hs : s.OneRound) {took : List CellNo}
    (hmem : ∀ c, c ∈ took ↔ s.Served c)
    (horder : took.Pairwise fun i j => portPlace s.link.pointer i < portPlace s.link.pointer j) :
    ∃ t, exec .heldOffPortService s = .next t
      ∧ t.traffic = s.traffic ++ took.flatMap (fun c => s.forwardsOf c s.link.ports[c].waiting)
      ∧ t.records =
        { s.records with
          pointer := took.getLast?.getD s.link.pointer
          cells :=
            Vector.ofFn fun c =>
              if c ∈ took then CellRec.erred^[s.link.ports[c].waiting.length] (s.bay.cell c) else s.bay.cell c }
      ∧ ∀ c : CellNo, t.link.ports[c].waiting = if c ∈ took then [] else s.link.ports[c].waiting := by
  have hnodup : took.Nodup := horder.imp fun {i j} hij he => by rw [he] at hij; exact lt_irrefl _ hij
  obtain ⟨t, ht, hbegun⟩ := State.Took.begun h
  obtain ⟨u, hu, hround⟩ := State.Took.round hs hfree hmem horder took [] rfl ht
  have hcells : (fun c => CellRec.erred^[(framesAt (took.flatMap s.framesOf) c).length] (s.bay.cell c))
      = fun c => if c ∈ took then CellRec.erred^[s.link.ports[c].waiting.length] (s.bay.cell c) else s.bay.cell c := by
    funext c
    rw [framesAt_framesOf s took hnodup]
    by_cases hc : c ∈ took
    · rw [if_pos hc, if_pos hc]
    · rw [if_neg hc, if_neg hc]
      rfl
  refine ⟨u.eventEnd, exec_service (hbegun u hround), ?_, ?_, fun c => (waiting_eventEnd u c).trans (hu.waiting_round hnodup c)⟩
  · rw [traffic_eventEnd, hu.traffic, s.forwardsAll_framesOf]
  · rw [records_eventEnd, hu.records, getLast?_framesOf fun c => (hmem c).1, hcells]

/-! ### Two rounds over two ports -/

theorem portPlace_le_self (p i : CellNo) : portPlace p i ≤ portPlace p p := by
  unfold portPlace
  have := p.isLt
  have := i.isLt
  omega

theorem State.portPlace_lt_of_idxOf_lt {s : State} {c c' : CellNo} (h : s.roundOrder.idxOf c < s.roundOrder.idxOf c') :
    portPlace s.link.pointer c < portPlace s.link.pointer c' := by
  have hc := List.idxOf_lt_length_iff.2 (s.mem_roundOrder c)
  have hc' := List.idxOf_lt_length_iff.2 (s.mem_roundOrder c')
  have hlt := List.pairwise_iff_getElem.1 s.pairwise_roundOrder _ _ hc hc' h
  rwa [List.getElem_idxOf hc, List.getElem_idxOf hc'] at hlt

/-- R166: a frame that waits for its claim, as every frame of a FORWARD kind does. -/
theorem State.Took.not_drainable {s t : State} {ps : List (CellNo × Arrival)} (h : s.Took t ps)
    (hs : ∀ c : CellNo, ∀ a ∈ s.link.ports[c].waiting, s.takenFreely a = false) (c : CellNo) : t.drainable c = false := by
  cases hw : t.link.ports[c].waiting with
  | nil => exact State.drainable_nil hw
  | cons a rest =>
    rw [State.drainable_cons hw, takenFreely_eq h.tables]
    refine hs c a ?_
    rw [← h.waiting c, hw]
    exact List.mem_append_right _ (List.mem_cons_self ..)

/-- R168: of two ports that are held off the one whose place comes first is served, one frame of it. -/
theorem State.Took.first_of_two {s t : State} {ps : List (CellNo × Arrival)} {c e : CellNo} {d : Option CellNo} {a : Arrival}
    {rest : List Arrival} {x : Half × CellMsg} (h : s.Took t ps)
    (hs : ∀ c : CellNo, ∀ a ∈ s.link.ports[c].waiting, s.takenFreely a = false)
    (hothers : ∀ y, y ≠ c → y ≠ e → s.link.ports[y].waiting = []) (hw : s.link.ports[c].waiting = framesAt ps c ++ a :: rest)
    (ha : misdirectedOf a = some x) (hfree : 64 + ps.length < s.free)
    (hshare : s.share c + (framesAt ps c).length < s.tables.settings.cellShareLimit)
    (hplace : portPlace t.link.pointer c ≤ portPlace t.link.pointer e) :
    ∃ u, s.Took u (ps ++ [(c, a)]) ∧ ∀ t', u.ServedTo (some c) t' → t.ServedTo d t' := by
  have hleft : t.link.ports[c].waiting = a :: rest := List.append_cancel_left ((h.waiting c).trans hw)
  have hgranted : t.cellClaimGranted c = true :=
    h.granted ((Nat.add_le_add_left (s.length_forwardsAll_le ps) 64).trans_lt hfree) hshare
  refine h.step (nextPort_granted (fun y _ => h.not_drainable hs y) hleft hgranted fun y hy => ?_) hleft ha
  by_cases hyc : y = c
  · rw [hyc]
  · by_cases hye : y = e
    · rw [hye]
      exact hplace
    · have hnone := h.waiting y
      rw [hothers y hyc hye] at hnone
      exact absurd (List.append_eq_nil_iff.1 hnone).2 hy

/-- The two frames at each of two ports in the order of two rounds. -/
def twoRounds (c c' : CellNo) (a b : Arrival) : List (CellNo × Arrival) := [(c, a), (c', a), (c, b), (c', b)]

theorem framesAt_cons (c d : CellNo) (a : Arrival) (ps : List (CellNo × Arrival)) :
    framesAt ((c, a) :: ps) d = if d = c then a :: framesAt ps d else framesAt ps d := by
  have h := framesAt_append [(c, a)] ps d
  rw [framesAt_single] at h
  rw [show (c, a) :: ps = [(c, a)] ++ ps from rfl, h]
  split <;> rfl

theorem framesAt_nil (d : CellNo) : framesAt [] d = [] := rfl

theorem framesAt_twoRounds {c c' : CellNo} (hne : c ≠ c') (a b : Arrival) (d : CellNo) :
    framesAt (twoRounds c c' a b) d = if d = c ∨ d = c' then [a, b] else [] := by
  unfold twoRounds
  by_cases hc : d = c
  · have hc' : d ≠ c' := fun h => hne (hc.symm.trans h)
    simp [framesAt_cons, framesAt_nil, hc, hne]
  · by_cases hc' : d = c'
    · simp [framesAt_cons, framesAt_nil, hc', hne.symm]
    · simp [framesAt_cons, framesAt_nil, hc, hc']

theorem State.Took.records_twoRounds {s t : State} {c c' : CellNo} {a b : Arrival} (hne : c ≠ c')
    (h : s.Took t (twoRounds c c' a b)) :
    t.records =
      { (s.records.setCell c (s.bay.cell c).erred.erred).setCell c' (s.bay.cell c').erred.erred with pointer := c' } := by
  have hset : ((s.bay.cells.set c (s.bay.cell c).erred.erred).set c' (s.bay.cell c').erred.erred)
      = Vector.ofFn fun d => CellRec.erred^[(framesAt (twoRounds c c' a b) d).length] (s.bay.cell d) := by
    have hfirst : (s.bay.cells.set c (s.bay.cell c).erred.erred)
        = Vector.ofFn fun d => if d = c then (s.bay.cell c).erred.erred else s.bay.cell d := by
      rw [s.bay.cells_eq_ofFn]
      exact setCell_ofFn (if_pos rfl) fun d hd => if_neg hd
    rw [hfirst]
    refine setCell_ofFn ?_ fun d hd => ?_
    · rw [framesAt_twoRounds hne, if_pos (.inr rfl)]
      rfl
    · rw [framesAt_twoRounds hne]
      by_cases hc : d = c
      · subst hc
        rw [if_pos (.inl rfl), if_pos rfl]
        rfl
      · rw [if_neg (not_or.2 ⟨hc, hd⟩), if_neg hc]
        rfl
  rw [h.records, ← hset]
  rfl

/-- R168: with two frames that wait for their claims at each of two ports, the second of each waits for the next round. -/
theorem State.Took.twoRounds {s : State} {c c' : CellNo} {a b : Arrival} {x y : Half × CellMsg} (h : s.OnlyPorts) (hne : c ≠ c')
    (hw : s.link.ports[c].waiting = [a, b]) (hw' : s.link.ports[c'].waiting = [a, b])
    (hothers : ∀ d, d ≠ c → d ≠ c' → s.link.ports[d].waiting = []) (ha : misdirectedOf a = some x) (hb : misdirectedOf b = some y)
    (hfa : s.takenFreely a = false) (hfb : s.takenFreely b = false) (hfree : 68 < s.free)
    (hshare : s.share c + 1 < s.tables.settings.cellShareLimit) (hshare' : s.share c' + 1 < s.tables.settings.cellShareLimit)
    (hplace : portPlace s.link.pointer c ≤ portPlace s.link.pointer c') :
    ∃ u, s.Took u (twoRounds c c' a b) ∧ (∀ d : CellNo, u.link.ports[d].waiting = []) ∧ s.newEvent.ServedTo none u := by
  have hs (d : CellNo) (e : Arrival) (he : e ∈ s.link.ports[d].waiting) : s.takenFreely e = false := by
    have hab (he : e ∈ [a, b]) : s.takenFreely e = false := by
      rcases List.mem_cons.1 he with rfl | he
      · exact hfa
      · rw [List.mem_singleton.1 he]
        exact hfb
    by_cases hc : d = c
    · rw [hc, hw] at he
      exact hab he
    · by_cases hc' : d = c'
      · rw [hc', hw'] at he
        exact hab he
      · rw [hothers d hc hc'] at he
        cases he
  have hothers' (d : CellNo) (hd' : d ≠ c') (hd : d ≠ c) : s.link.ports[d].waiting = [] := hothers d hd hd'
  obtain ⟨t₀, h₀, hbegun⟩ := State.Took.begun h
  obtain ⟨t₁, h₁, hstep₁⟩ := h₀.first_of_two (d := none) (rest := [b]) hs hothers hw ha (by simp; omega) (by simp [framesAt_nil]; omega)
    (by rw [h₀.pointer]; exact hplace)
  obtain ⟨t₂, h₂, hstep₂⟩ := h₁.first_of_two (d := some c) (c := c') (rest := [b]) hs hothers'
    (by simpa [framesAt_cons, framesAt_nil, hne.symm] using hw') ha (by simp; omega)
    (by simp [framesAt_cons, framesAt_nil, hne.symm]; omega) (by rw [h₁.pointer]; exact portPlace_le_self c c')
  obtain ⟨t₃, h₃, hstep₃⟩ := h₂.first_of_two (d := some c') (c := c) (rest := []) hs hothers
    (by simpa [framesAt_cons, framesAt_nil, hne] using hw) hb (by simp; omega)
    (by simp [framesAt_cons, framesAt_nil, hne]; omega) (by rw [h₂.pointer]; exact portPlace_le_self c' c)
  obtain ⟨t₄, h₄, hstep₄⟩ := h₃.first_of_two (d := some c) (c := c') (rest := []) hs hothers'
    (by simpa [framesAt_cons, framesAt_nil, hne.symm] using hw') hb (by simp; omega)
    (by simp [framesAt_cons, framesAt_nil, hne.symm]; omega) (by rw [h₃.pointer]; exact portPlace_le_self c c')
  have htook : s.Took t₄ (Machine.twoRounds c c' a b) := h₄
  have hempty (d : CellNo) : t₄.link.ports[d].waiting = [] := by
    have hleft := htook.waiting d
    rw [framesAt_twoRounds hne] at hleft
    by_cases hc : d = c
    · subst hc
      rw [if_pos (.inl rfl), hw] at hleft
      exact List.append_right_eq_self.1 hleft
    · by_cases hc' : d = c'
      · subst hc'
        rw [if_pos (.inr rfl), hw'] at hleft
        exact List.append_right_eq_self.1 hleft
      · rw [if_neg (not_or.2 ⟨hc, hc'⟩), hothers d hc hc'] at hleft
        exact hleft
  exact ⟨t₄, htook, hempty, hbegun _ (hstep₁ _ (hstep₂ _ (hstep₃ _ (hstep₄ _ (htook.done hempty _)))))⟩

theorem service_quiet {s : State} (h : s.Quiet) : Leaves .heldOffPortService s s.records :=
  leaves_of_event (f := id) rfl (quiet_newEvent h) rfl rfl nofun

/-- Settles O55: the frames that a service has taken, in the order of its rounds, fix what it leaves; each next port is the
eligible one whose place behind the pointer comes first. -/
theorem heldOffPortServed : Obligations.HeldOffPortServed := by
  refine ⟨fun s h => service_quiet h, ?_, ?_, ?_, ?_⟩
  · intro c lot id s hheld hw hrest hf hfree hshare hnotices hidle
    exact service_one_misdirected (.of_idle hheld hnotices hidle) hw hrest hf hfree hshare
  · intro c lot a k s hheld hw hrest hf hfree hshare hnotices hidle r hst ha hk
    exact service_one_take (.of_idle hheld hnotices hidle) hw hrest hf hfree hshare hst ha hk
  · intro s hheld hnotices hidle hfree hround took
    refine service_one_round (.of_idle hheld hnotices hidle) hfree hround (fun c => ?_) (s.pairwise_roundOrder.filter _)
    rw [List.mem_filter, @decide_eq_true_iff _ (Classical.dec _)]
    exact and_iff_right (s.mem_roundOrder c)
  · intro c c' lot id lot' id' s hheld hnotices hidle hf hfree hne hw hw' hothers hshare hshare' horder
    have hfreely (lot id : Half) : s.takenFreely (.frame .tester lot (.take id)) = false := decide_eq_false (by
      show s.forwarding .take ≠ .absorb
      rw [hf]
      nofun)
    obtain ⟨t, ht, hempty, hserved⟩ := State.Took.twoRounds (.of_idle hheld hnotices hidle) hne hw hw' hothers
      (misdirectedOf_take lot id) (misdirectedOf_take lot' id') (hfreely lot id) (hfreely lot' id') hfree hshare hshare'
      (State.portPlace_lt_of_idxOf_lt horder).le
    refine gives_of_served ht hserved hempty (ht.records_twoRounds hne) ?_
    unfold Machine.twoRounds
    rw [s.forwardsAll_cons, s.forwardsAll_cons, s.forwardsAll_cons, s.forwardsAll_cons, forwardsOf_take hf, forwardsOf_take hf,
      forwardsOf_take hf, forwardsOf_take hf]
    rfl

end Sys2Proof.Machine
